-- ==== Sys2Proof/Word.lean ====
section
/-! DEFINITION. The word types of the HX-4 and nothing else: each is a bit string the manual treats as bits
(R1, R3). Bit 0 is least significant and multi-byte values are little-endian (R1). -/

namespace Sys2Proof

/-- One byte of a memory, row or queue. -/
abbrev Byte := BitVec 8

/-- A 32-bit lane, accumulator element or semaphore. -/
abbrev W32 := BitVec 32

/-- A general register, system register or 8-byte control-space register (R86, R403). -/
abbrev W64 := BitVec 64

/-- A code slot: an instruction word or a section header (R46, R47, R67). -/
abbrev Slot := BitVec 96

/-- A vector register of 1,024 lanes of 32 bits; element j of a b-bit type is bits [jb+b-1 : jb] (R29). -/
abbrev VReg := BitVec 32768

/-- A lane predicate, bit l for lane l (R86). -/
abbrev PMask := BitVec 1024

/-- An accumulator: element (i, j) is bits [32(64i+j)+31 : 32(64i+j)] (R164). -/
abbrev Acc := BitVec 131072

end Sys2Proof
end

