-- ==== Sys2Proof/Machine/Bits.lean ====
section
/-! DEFINITION. Bit fields, sign extension, byte strings (little-endian, R1) and packed elements of registers (R29). -/

namespace Sys2Proof.Machine

/-- Bits [lo+len-1 : lo] of a number (R3). -/
def bits (x lo len : Nat) : Nat := x / 2 ^ lo % 2 ^ len

/-- Bit k of a number. -/
def bit (x k : Nat) : Bool := x.testBit k

/-- 1 for true (R3). -/
def ofBool (b : Bool) : Nat := if b then 1 else 0

/-- The n-bit field x as a signed number (SignExt of Table 00-1). -/
def signExt (n x : Nat) : Int :=
  let y := x % 2 ^ n
  if y < 2 ^ (n - 1) then (y : Int) else (y : Int) - (2 ^ n : Nat)

/-- An integer taken mod 2^n as an unsigned number. -/
def wrap (n : Nat) (x : Int) : Nat := (x % ((2 ^ n : Nat) : Int)).toNat

/-- Floor of the base-2 logarithm; 0 for 0. -/
def lg2 (x : Nat) : Nat := x.log2

/-- x rounded up to a multiple of n, in units of n. -/
def ceilDiv (x n : Nat) : Nat := (x + n - 1) / n

/-- The first n bytes of a number, lowest first (R1). -/
def toBytes : (n : Nat) → (x : Nat) → List Byte
  | 0, _ => []
  | n + 1, x => BitVec.ofNat 8 x :: toBytes n (x / 256)

/-- The number a little-endian byte string stands for (R1). -/
def ofBytes : List Byte → Nat
  | [] => 0
  | b :: bs => b.toNat + 256 * ofBytes bs

/-- Elements of w bits packed from bit 0 up (R29). -/
def packElems (w : Nat) : List Nat → Nat
  | [] => 0
  | x :: xs => x % 2 ^ w + 2 ^ w * packElems w xs

/-- Element j of w bits of a packed number (R29). -/
def elemNat (w x j : Nat) : Nat := bits x (w * j) w

/-- The first n elements of w bits. -/
def unpackElems (w : Nat) : (n : Nat) → (x : Nat) → List Nat
  | 0, _ => []
  | n + 1, x => x % 2 ^ w :: unpackElems w n (x / 2 ^ w)

/-- A list lengthened with zeros, or cut, to n entries. -/
def padTo (n : Nat) (l : List Byte) : List Byte := l.take n ++ List.replicate (n - l.length) 0

/-- Element l of a list of bytes, 0 beyond its end. -/
def byteAt (l : List Byte) (k : Nat) : Byte := l.getD k 0

/-- A bit string whose bit k is f k, for k below n. -/
def maskOf (f : Nat → Bool) : Nat → Nat
  | 0 => 0
  | n + 1 => (if f n then 2 ^ n else 0) + maskOf f n

/-- Number of one bits below bit n. -/
def popCount (x : Nat) : Nat → Nat
  | 0 => 0
  | n + 1 => ofBool (x.testBit n) + popCount x n

/-- Leading zero bits of a w-bit number; w for 0 (Tables 06-1 and 07-1). -/
def clzNat (w x : Nat) : Nat := if x % 2 ^ w = 0 then w else w - 1 - lg2 (x % 2 ^ w)

/-- Trailing zero bits of a w-bit number; w for 0 (Table 06-1). -/
def ctzNat (x : Nat) : (w : Nat) → Nat
  | 0 => 0
  | w + 1 => if x % 2 = 1 then 0 else 1 + ctzNat (x / 2) w

/-- Square root rounded down, of a number below 4^n, a bit at a time. -/
def isqrtGo (x : Nat) : (n : Nat) → (r : Nat) → Nat
  | 0, r => r
  | n + 1, r => isqrtGo x n (if (r + 2 ^ n) * (r + 2 ^ n) ≤ x then r + 2 ^ n else r)

/-- Square root rounded down. -/
def isqrt (x : Nat) : Nat := isqrtGo x (lg2 x / 2 + 1) 0

end Sys2Proof.Machine
end

