-- ==== Sys2Proof/Machine/Shake.lean ====
section
/-! DEFINITION. SHAKE256 of FIPS 202, which R83, R201 and R282 name (PRESUMED, log 11). The state is one string of 1,600 bits, lane
(x, y) at bit 64 (5 y + x), and the step mappings work on whole planes of five lanes; the offsets of rho and the constants of iota are
computed as FIPS 202 defines them. -/

namespace Sys2Proof.Machine

/-- A plane: lane x at bit 64 x. -/
abbrev Plane := BitVec 320

/-- The sponge's state. -/
abbrev Sponge := BitVec 1600

def Sponge.plane (s : Sponge) (y : Nat) : Plane := s.extractLsb' (320 * y) 320

/-- A state from its planes, plane 0 lowest. -/
def spongeOf : List Plane → Sponge
  | [] => 0
  | p :: ps => p.setWidth 1600 ||| (spongeOf ps <<< 320)

/-- The planes of a state. -/
def Sponge.planes (s : Sponge) : List Plane := (List.range 5).map s.plane

/-- Bit 0 of every lane of a plane. -/
def laneOnes : Plane := BitVec.ofNat 320 (packElems 64 (List.replicate 5 1))

/-- Every lane turned by one bit towards its high end. -/
def Plane.spin (p : Plane) : Plane := ((p <<< 1) &&& ~~~laneOnes) ||| ((p >>> 63) &&& laneOnes)

/-- The lane k places on stands at each lane. -/
def Plane.ahead (p : Plane) (k : Nat) : Plane := p.rotateRight (64 * k)

/-- theta (FIPS 202, 3.2.1): the parity of the columns on either side joins every lane. -/
def Sponge.theta (s : Sponge) : Sponge :=
  let c := s.planes.foldl (· ^^^ ·) 0
  let d := c.ahead 4 ^^^ c.spin.ahead 1
  s ^^^ spongeOf (List.replicate 5 d)

/-- The walk of rho (3.2.2) from a lane, t steps already made: each lane with the lane it comes to stand at under pi (3.2.3), which is
the next lane of the walk, and its offset (t + 1)(t + 2) / 2. -/
def rhoWalk : (n : Nat) → (t x y : Nat) → List (Nat × Nat × Nat)
  | 0, _, _, _ => []
  | n + 1, t, x, y =>
    let y' := (2 * x + 3 * y) % 5
    (5 * y + x, 5 * y' + y, (t + 1) * (t + 2) / 2 % 64) :: rhoWalk n (t + 1) y y'

/-- rho, then pi. -/
def Sponge.rhoPi (s : Sponge) : Sponge :=
  let lane (i : Nat) : W64 := s.extractLsb' (64 * i) 64
  (rhoWalk 24 0 1 0).foldl (fun r m => r ||| (((lane m.1).rotateLeft m.2.2).setWidth 1600 <<< (64 * m.2.1))) ((lane 0).setWidth 1600)

/-- chi (3.2.4), plane by plane. -/
def Sponge.chi (s : Sponge) : Sponge := spongeOf (s.planes.map fun p => p ^^^ (~~~p.ahead 1 &&& p.ahead 2))

/-- A step of the shift register of rc (3.2.5). -/
def rcStep (r : Nat) : Nat := if r < 128 then 2 * r else (2 * r) ^^^ 0x171

/-- The constant of a round whose first bit is the register's lowest, bit 2^j - 1 from its j-th step, and the register after it. -/
def roundConst : (j r : Nat) → Nat × Nat
  | 0, r => (0, r)
  | j + 1, r =>
    let p := roundConst j r
    (p.1 + p.2 % 2 * 2 ^ (2 ^ j - 1), rcStep p.2)

/-- n rounds from a state of the register. -/
def keccakRounds : (n : Nat) → (r : Nat) → Sponge → Sponge
  | 0, _, s => s
  | n + 1, r, s =>
    let c := roundConst 7 r
    keccakRounds n c.2 (s.theta.rhoPi.chi ^^^ BitVec.ofNat 1600 c.1)

/-- Keccak-f[1600]. -/
def keccak (s : Sponge) : Sponge := keccakRounds 24 1 s

/-- Blocks of 136 bytes absorbed; `n` bounds their number. -/
def absorb : (n : Nat) → List Byte → Sponge → Sponge
  | 0, _, s => s
  | n + 1, bs, s => if bs.isEmpty then s else absorb n (bs.drop 136) (keccak (s ^^^ BitVec.ofNat 1600 (ofBytes (bs.take 136))))

/-- A message with the suffix 1111 of SHAKE and the padding 10*1, to whole blocks (5.1, 6.2). -/
def shakePad (bs : List Byte) : List Byte :=
  let len := 136 * (bs.length / 136 + 1)
  toBytes len (ofBytes bs + 0x1F * 2 ^ (8 * bs.length) + 0x80 * 2 ^ (8 * (len - 1)))

/-- The first n bytes, at most 136, of SHAKE256 of a message. -/
def shake256 (n : Nat) (bs : List Byte) : List Byte :=
  let p := shakePad bs
  toBytes n (absorb (p.length / 136) p 0).toNat

end Sys2Proof.Machine
end

