-- ==== Sys2Proof/Syntax.lean ====
section
/-! DEFINITION. The syntax of the HX-4: the operand formats of Tables 03-2 to 03-11 as structures of their fields from the
high bit down (reserved fields included, so that WellFormed can name a nonzero one, R72), the guard of a word (R47), and
`Instr`, one constructor for each row of the spec's table of steps: 175 forms of instruction word and 89 events. An event
carries what it concerns: a tile, a channel command slot, a die, a master and the value it writes. -/

namespace Sys2Proof

/-- The engine classes 0 to 5 of a tile (Table 01-3). -/
inductive Engine where
  | S | L | A | W | M | X
  deriving DecidableEq, Repr

/-- The class number of an engine (R47). -/
def Engine.code : Engine → Nat
  | .S => 0 | .L => 1 | .A => 2 | .W => 3 | .M => 4 | .X => 5

/-- The engine a class number names; 6 and 7 name none (R47). -/
def Engine.ofCode? : Nat → Option Engine
  | 0 => some .S | 1 => some .L | 2 => some .A | 3 => some .W | 4 => some .M | 5 => some .X | _ => none

/-- The four ring sets of control space (R310, R388, R395). -/
inductive RingName where
  | fq | nq | tr | rl
  deriving DecidableEq, Repr

/-- What is stalled on a migrating page (R234): a channel's command, or the k-th outstanding host write. -/
inductive StallRef where
  | command (tile cslot : Nat)
  | host (k : Nat)
  deriving DecidableEq, Repr

/-- Where an uncorrectable soft error is met (R382, cause 0x11 of Table 19-1): data an engine of a tile consumes, or state
that is no point's own, named by the launch slot it belongs to. -/
inductive ErrSite where
  | line (tile : Nat) (e : Engine) (pa : Nat)
  | row (tile : Nat) (e : Engine) (row : Nat)
  | register (tile : Nat) (e : Engine)
  | queue (tile : Nat) (e : Engine)
  | unowned (slot : Nat)
  deriving DecidableEq, Repr

/-- A word's guard: its truth table and three predicate names (R47, R57). -/
structure Guard where
  tt : BitVec 8
  ga : BitVec 4
  gb : BitVec 4
  gc : BitVec 4
  deriving DecidableEq, Repr

/-- Operand format S (Table 03-11). -/
structure FmtS where
  gd : BitVec 6
  ga : BitVec 6
  gb : BitVec 6
  imm : BitVec 32
  feA : BitVec 1
  feB : BitVec 1
  cs : BitVec 5
  ct : BitVec 3
  cf : BitVec 3
  rsv : BitVec 3
  deriving DecidableEq, Repr

/-- Operand format SM (Table 03-11). -/
structure FmtSM where
  gd : BitVec 6
  ga : BitVec 6
  gb : BitVec 6
  lay : BitVec 8
  cls : BitVec 4
  imm : BitVec 20
  feA : BitVec 1
  feB : BitVec 1
  size : BitVec 5
  rsv : BitVec 9
  deriving DecidableEq, Repr

/-- Operand format B (Table 03-11). -/
structure FmtB where
  off : BitVec 32
  gd : BitVec 6
  ga : BitVec 6
  gb : BitVec 6
  feA : BitVec 1
  feB : BitVec 1
  rsv : BitVec 14
  deriving DecidableEq, Repr

/-- Operand format LREC (Table 03-11). -/
structure FmtLrec where
  pro : BitVec 16
  ker : BitVec 16
  epi : BitVec 16
  trip : BitVec 6
  stg : BitVec 3
  rsv : BitVec 9
  deriving DecidableEq, Repr

/-- Operand format SY (Table 03-11). -/
structure FmtSY where
  sem : BitVec 8
  gn : BitVec 6
  imm : BitVec 32
  scope : BitVec 2
  gd : BitVec 6
  fe : BitVec 1
  rsv : BitVec 11
  deriving DecidableEq, Repr

/-- Operand format FN (Table 03-11). -/
structure FmtFN where
  mask : BitVec 16
  rsv : BitVec 50
  deriving DecidableEq, Repr

/-- Operand format T (Table 03-11). -/
structure FmtT where
  lay : BitVec 8
  wd : BitVec 3
  ga : BitVec 6
  gd : BitVec 6
  bn : BitVec 4
  side : BitVec 1
  fe : BitVec 1
  rsv : BitVec 37
  deriving DecidableEq, Repr

/-- Operand format V3 (Table 03-2). -/
structure FmtV3 where
  vd : BitVec 8
  va : BitVec 8
  moda : BitVec 12
  vb : BitVec 8
  modb : BitVec 12
  vc : BitVec 8
  fe : BitVec 3
  ty : BitVec 4
  rnd : BitVec 3
  deriving DecidableEq, Repr

/-- Operand format VI (Table 03-3). -/
structure FmtVI where
  vd : BitVec 8
  va : BitVec 8
  moda : BitVec 12
  imm : BitVec 32
  fe : BitVec 1
  ty : BitVec 4
  rsv : BitVec 1
  deriving DecidableEq, Repr

/-- Operand format VP (Table 03-4). -/
structure FmtVP where
  pt : BitVec 3
  pf : BitVec 3
  z : BitVec 1
  rsvA : BitVec 1
  va : BitVec 8
  moda : BitVec 12
  vb : BitVec 8
  modb : BitVec 12
  sel : BitVec 8
  fe : BitVec 2
  rsvB : BitVec 1
  ty : BitVec 4
  rsvC : BitVec 3
  deriving DecidableEq, Repr

/-- Operand format VPI (below Table 03-4). -/
structure FmtVPI where
  pt : BitVec 3
  pf : BitVec 3
  z : BitVec 1
  rsvA : BitVec 1
  va : BitVec 8
  moda : BitVec 12
  imm : BitVec 28
  cond : BitVec 4
  fe : BitVec 1
  ty : BitVec 4
  rsvB : BitVec 1
  deriving DecidableEq, Repr

/-- Operand format VC (Table 03-5). -/
structure FmtVC where
  vd : BitVec 8
  va : BitVec 8
  moda : BitVec 12
  vb : BitVec 8
  modb : BitVec 12
  dt : BitVec 5
  sat : BitVec 1
  rsv : BitVec 2
  fe : BitVec 2
  st : BitVec 5
  rnd : BitVec 3
  deriving DecidableEq, Repr

/-- Operand format VM (Table 03-8). -/
structure FmtVM where
  v : BitVec 8
  lay : BitVec 8
  gx : BitVec 6
  gy : BitVec 6
  gz : BitVec 6
  imm : BitVec 16
  cls : BitVec 4
  rows : BitVec 4
  aux : BitVec 8
  deriving DecidableEq, Repr

/-- Operand format MX (Table 03-9). -/
structure FmtMX where
  acc : BitVec 2
  rsvA : BitVec 2
  reg : BitVec 8
  mkb : BitVec 4
  kb : BitVec 16
  rsvB : BitVec 4
  int : BitVec 1
  rsvC : BitVec 29
  deriving DecidableEq, Repr

/-- Operand format XC (Table 03-10). -/
structure FmtXC where
  sl : BitVec 8
  dl : BitVec 8
  sx : BitVec 6
  sy : BitVec 6
  dx : BitVec 6
  dy : BitVec 6
  cnt : BitVec 6
  sem : BitVec 8
  scope : BitVec 2
  var : BitVec 4
  sig : BitVec 1
  sub : BitVec 5
  deriving DecidableEq, Repr

/-- One constructor per row of the table of steps. A word carries its guard and its operand fields; the engine forms of
SEMS, SEMW and FENCE also carry their engine. -/
inductive Instr where
  /-- ADD (R101) -/
  | add (g : Guard) (f : FmtS)
  /-- ADDI (R101) -/
  | addi (g : Guard) (f : FmtS)
  /-- SUB (R101) -/
  | sub (g : Guard) (f : FmtS)
  /-- MUL (R101) -/
  | mul (g : Guard) (f : FmtS)
  /-- MULI (R101) -/
  | muli (g : Guard) (f : FmtS)
  /-- MULH (R101) -/
  | mulh (g : Guard) (f : FmtS)
  /-- MULHN (R101) -/
  | mulhn (g : Guard) (f : FmtS)
  /-- DIV (R102) -/
  | div (g : Guard) (f : FmtS)
  /-- DIVN (R102) -/
  | divn (g : Guard) (f : FmtS)
  /-- REM (R102) -/
  | rem (g : Guard) (f : FmtS)
  /-- REMN (R102) -/
  | remn (g : Guard) (f : FmtS)
  /-- AND (R101) -/
  | and (g : Guard) (f : FmtS)
  /-- ANDI (R101) -/
  | andi (g : Guard) (f : FmtS)
  /-- OR (R101) -/
  | or (g : Guard) (f : FmtS)
  /-- ORI (R101) -/
  | ori (g : Guard) (f : FmtS)
  /-- XOR (R101) -/
  | xor (g : Guard) (f : FmtS)
  /-- XORI (R101) -/
  | xori (g : Guard) (f : FmtS)
  /-- ANDN (R101) -/
  | andn (g : Guard) (f : FmtS)
  /-- SHL (R101) -/
  | shl (g : Guard) (f : FmtS)
  /-- SHLI (R101) -/
  | shli (g : Guard) (f : FmtS)
  /-- SHR (R101) -/
  | shr (g : Guard) (f : FmtS)
  /-- SHRI (R101) -/
  | shri (g : Guard) (f : FmtS)
  /-- SAR (R101) -/
  | sar (g : Guard) (f : FmtS)
  /-- SARI (R101) -/
  | sari (g : Guard) (f : FmtS)
  /-- ROL (R101) -/
  | rol (g : Guard) (f : FmtS)
  /-- ROLI (R101) -/
  | roli (g : Guard) (f : FmtS)
  /-- MIN (R101) -/
  | min (g : Guard) (f : FmtS)
  /-- MINN (R101) -/
  | minn (g : Guard) (f : FmtS)
  /-- MAX (R101) -/
  | max (g : Guard) (f : FmtS)
  /-- MAXN (R101) -/
  | maxn (g : Guard) (f : FmtS)
  /-- CLZ (R101) -/
  | clz (g : Guard) (f : FmtS)
  /-- CTZ (R101) -/
  | ctz (g : Guard) (f : FmtS)
  /-- POPC (R101) -/
  | popc (g : Guard) (f : FmtS)
  /-- BFX (R103) -/
  | bfx (g : Guard) (f : FmtS)
  /-- BFI (R103) -/
  | bfi (g : Guard) (f : FmtS)
  /-- SEL (R104) -/
  | sel (g : Guard) (f : FmtS)
  /-- MOVI (R104) -/
  | movi (g : Guard) (f : FmtS)
  /-- MOVHI (R104) -/
  | movhi (g : Guard) (f : FmtS)
  /-- CMP (R105) -/
  | cmp (g : Guard) (f : FmtS)
  /-- CMPI (R105) -/
  | cmpi (g : Guard) (f : FmtS)
  /-- PLOG (R107) -/
  | plog (g : Guard) (f : FmtS)
  /-- PMOV_PACK (R108) -/
  | pmovPack (g : Guard) (f : FmtS)
  /-- PMOV_UNPACK (R108) -/
  | pmovUnpack (g : Guard) (f : FmtS)
  /-- BR (R109) -/
  | br (g : Guard) (f : FmtB)
  /-- BRX (R109) -/
  | brx (g : Guard) (f : FmtB)
  /-- CALL (R109) -/
  | call (g : Guard) (f : FmtB)
  /-- RET (R109) -/
  | ret (g : Guard) (f : FmtB)
  /-- LREC (R112) -/
  | lrec (g : Guard) (f : FmtLrec)
  /-- LOOP (R114) -/
  | loop (g : Guard) (f : FmtS)
  /-- LFOR (R116) -/
  | lfor (g : Guard) (f : FmtB)
  /-- LNEXT (R117) -/
  | lnext (g : Guard) (f : FmtB)
  /-- LIDX (R118) -/
  | lidx (g : Guard) (f : FmtS)
  /-- PFLD (R119) -/
  | pfld (g : Guard) (f : FmtS)
  /-- PFLD_W (R119) -/
  | pfldW (g : Guard) (f : FmtS)
  /-- HALT (R120) -/
  | halt (g : Guard) (f : FmtS)
  /-- TRAP (R121) -/
  | trap (g : Guard) (f : FmtS)
  /-- NOP (R122) -/
  | nop (g : Guard) (f : FmtS)
  /-- SLD (R123) -/
  | sld (g : Guard) (f : FmtSM)
  /-- SST (R123) -/
  | sst (g : Guard) (f : FmtSM)
  /-- CRD (R125) -/
  | crd (g : Guard) (f : FmtS)
  /-- CWR (R125) -/
  | cwr (g : Guard) (f : FmtS)
  /-- TMARK (R127) -/
  | tmark (g : Guard) (f : FmtS)
  /-- LSET (R186) -/
  | lset (g : Guard) (f : FmtT)
  /-- LGET (R186) -/
  | lget (g : Guard) (f : FmtT)
  /-- RINIT (R187) -/
  | rinit (g : Guard) (f : FmtT)
  /-- RACQ (R188) -/
  | racq (g : Guard) (f : FmtT)
  /-- RREL (R189) -/
  | rrel (g : Guard) (f : FmtT)
  /-- RREL_COMPLETE (R189) -/
  | rrelComplete (tile ring slot : Nat)
  /-- LAUNCH (R191) -/
  | launch (g : Guard) (f : FmtT)
  /-- SEMS (R325) -/
  | sems (g : Guard) (f : FmtSY)
  /-- SEMW (R326) -/
  | semw (g : Guard) (f : FmtSY)
  /-- SEMR (R328) -/
  | semr (g : Guard) (f : FmtSY)
  /-- SEMS_ENGINE (R325) -/
  | semsEngine (e : Engine) (g : Guard) (f : FmtSY)
  /-- SEMW_ENGINE (R326) -/
  | semwEngine (e : Engine) (g : Guard) (f : FmtSY)
  /-- WPOP (R316) -/
  | wpop (g : Guard) (f : FmtS)
  /-- CYC (R337) -/
  | cyc (g : Guard) (f : FmtS)
  /-- FENCE (R302) -/
  | fence (g : Guard) (f : FmtFN)
  /-- FENCE_ENGINE (R302) -/
  | fenceEngine (e : Engine) (g : Guard) (f : FmtFN)
  /-- XFENCE (R303) -/
  | xfence (g : Guard) (f : FmtFN)
  /-- IFENCE (R304) -/
  | ifence (g : Guard) (f : FmtFN)
  /-- DRAIN (R305) -/
  | drain (g : Guard) (f : FmtFN)
  /-- VADD (R132) -/
  | vadd (g : Guard) (f : FmtV3)
  /-- VADDI (R133) -/
  | vaddi (g : Guard) (f : FmtVI)
  /-- VSUB (R132) -/
  | vsub (g : Guard) (f : FmtV3)
  /-- VADDS (R133) -/
  | vadds (g : Guard) (f : FmtV3)
  /-- VSUBS (R133) -/
  | vsubs (g : Guard) (f : FmtV3)
  /-- VMUL (R132) -/
  | vmul (g : Guard) (f : FmtV3)
  /-- VMULH (R132) -/
  | vmulh (g : Guard) (f : FmtV3)
  /-- VMAD (R133) -/
  | vmad (g : Guard) (f : FmtV3)
  /-- VMIN (R132) -/
  | vmin (g : Guard) (f : FmtV3)
  /-- VMAX (R132) -/
  | vmax (g : Guard) (f : FmtV3)
  /-- VABS (R133) -/
  | vabs (g : Guard) (f : FmtV3)
  /-- VAND (R132) -/
  | vand (g : Guard) (f : FmtV3)
  /-- VOR (R132) -/
  | vor (g : Guard) (f : FmtV3)
  /-- VXOR (R132) -/
  | vxor (g : Guard) (f : FmtV3)
  /-- VANDN (R132) -/
  | vandn (g : Guard) (f : FmtV3)
  /-- VSHL (R133) -/
  | vshl (g : Guard) (f : FmtV3)
  /-- VSHR (R133) -/
  | vshr (g : Guard) (f : FmtV3)
  /-- VSAR (R133) -/
  | vsar (g : Guard) (f : FmtV3)
  /-- VCLZ (R132) -/
  | vclz (g : Guard) (f : FmtV3)
  /-- VPOPC (R132) -/
  | vpopc (g : Guard) (f : FmtV3)
  /-- VFADD (R134) -/
  | vfadd (g : Guard) (f : FmtV3)
  /-- VFSUB (R134) -/
  | vfsub (g : Guard) (f : FmtV3)
  /-- VFMUL (R134) -/
  | vfmul (g : Guard) (f : FmtV3)
  /-- VFMA (R134) -/
  | vfma (g : Guard) (f : FmtV3)
  /-- VFNMA (R134) -/
  | vfnma (g : Guard) (f : FmtV3)
  /-- VFMIN (R136) -/
  | vfmin (g : Guard) (f : FmtV3)
  /-- VFMAX (R136) -/
  | vfmax (g : Guard) (f : FmtV3)
  /-- VFABS (R136) -/
  | vfabs (g : Guard) (f : FmtV3)
  /-- VFNEG (R136) -/
  | vfneg (g : Guard) (f : FmtV3)
  /-- VFRCP (R135) -/
  | vfrcp (g : Guard) (f : FmtV3)
  /-- VFRSQ (R135) -/
  | vfrsq (g : Guard) (f : FmtV3)
  /-- VFSQRT (R135) -/
  | vfsqrt (g : Guard) (f : FmtV3)
  /-- VFDIV (R135) -/
  | vfdiv (g : Guard) (f : FmtV3)
  /-- VFEXP2 (R135) -/
  | vfexp2 (g : Guard) (f : FmtV3)
  /-- VFLOG2 (R135) -/
  | vflog2 (g : Guard) (f : FmtV3)
  /-- VFTANH (R135) -/
  | vftanh (g : Guard) (f : FmtV3)
  /-- VFEXPO (R137) -/
  | vfexpo (g : Guard) (f : FmtV3)
  /-- LONG_LATENCY_COMPLETE (R131) -/
  | longLatencyComplete (tile k : Nat)
  /-- VCMP (R138) -/
  | vcmp (g : Guard) (f : FmtVP)
  /-- VCMPI (R138) -/
  | vcmpi (g : Guard) (f : FmtVPI)
  /-- VFCMP (R138) -/
  | vfcmp (g : Guard) (f : FmtVP)
  /-- VFCLASS (R140) -/
  | vfclass (g : Guard) (f : FmtVP)
  /-- VCVT (R142) -/
  | vcvt (g : Guard) (f : FmtVC)
  /-- VFCVT (R143) -/
  | vfcvt (g : Guard) (f : FmtVC)
  /-- VQNT (R144) -/
  | vqnt (g : Guard) (f : FmtVC)
  /-- VDQNT (R145) -/
  | vdqnt (g : Guard) (f : FmtVC)
  /-- VMOV (R149) -/
  | vmov (g : Guard) (f : FmtV3)
  /-- VBCST (R151) -/
  | vbcst (g : Guard) (f : FmtV3)
  /-- VIOTA (R149) -/
  | viota (g : Guard) (f : FmtV3)
  /-- VPERM (R152) -/
  | vperm (g : Guard) (f : FmtV3)
  /-- VRMRG (R153) -/
  | vrmrg (g : Guard) (f : FmtV3)
  /-- VSEL (R149) -/
  | vsel (g : Guard) (f : FmtV3)
  /-- VTOG (R154) -/
  | vtog (g : Guard) (f : FmtV3)
  /-- VTOG_COMPLETE (R155) -/
  | vtogComplete (tile k : Nat)
  /-- VRED (R157) -/
  | vred (g : Guard) (f : FmtV3)
  /-- VFRED (R157) -/
  | vfred (g : Guard) (f : FmtV3)
  /-- VSCAN (R157) -/
  | vscan (g : Guard) (f : FmtV3)
  /-- VFSCAN (R157) -/
  | vfscan (g : Guard) (f : FmtV3)
  /-- VSPCMP (R159) -/
  | vspcmp (g : Guard) (f : FmtV3)
  /-- VSPEXP (R160) -/
  | vspexp (g : Guard) (f : FmtV3)
  /-- VPLOG (R162) -/
  | vplog (g : Guard) (f : FmtVP)
  /-- VPCNT (R162) -/
  | vpcnt (g : Guard) (f : FmtVP)
  /-- VPFIND (R162) -/
  | vpfind (g : Guard) (f : FmtVP)
  /-- VPMOV (R162) -/
  | vpmov (g : Guard) (f : FmtVP)
  /-- VLD (R210) -/
  | vld (g : Guard) (f : FmtVM)
  /-- VLDX (R213) -/
  | vldx (g : Guard) (f : FmtVM)
  /-- VLDB (R212) -/
  | vldb (g : Guard) (f : FmtVM)
  /-- PLD (R215) -/
  | pld (g : Guard) (f : FmtVM)
  /-- VFEED (R216) -/
  | vfeed (g : Guard) (f : FmtVM)
  /-- SCLD (R217) -/
  | scld (g : Guard) (f : FmtVM)
  /-- VST (R210) -/
  | vst (g : Guard) (f : FmtVM)
  /-- VSTX (R213) -/
  | vstx (g : Guard) (f : FmtVM)
  /-- PST (R215) -/
  | pst (g : Guard) (f : FmtVM)
  /-- VSTC (R214) -/
  | vstc (g : Guard) (f : FmtVM)
  /-- QUEUE_PUSH (R171) -/
  | queuePush (tile : Nat) (cslot : Option Nat)
  /-- MZERO (R167) -/
  | mzero (g : Guard) (f : FmtMX)
  /-- MMA (R172) -/
  | mma (g : Guard) (f : FmtMX)
  /-- MMAS (R170) -/
  | mmas (g : Guard) (f : FmtMX)
  /-- MMA_STEP (R172) -/
  | mmaStep (tile : Nat)
  /-- MDRAIN (R168) -/
  | mdrain (g : Guard) (f : FmtMX)
  /-- MDRAIN_REGISTER_FULL (R168) -/
  | mdrainRegisterFull (tile k : Nat)
  /-- MLOAD (R168) -/
  | mload (g : Guard) (f : FmtMX)
  /-- XCOPY (R251) -/
  | xcopy (g : Guard) (f : FmtXC)
  /-- XGATH (R252) -/
  | xgath (g : Guard) (f : FmtXC)
  /-- XSCAT (R252) -/
  | xscat (g : Guard) (f : FmtXC)
  /-- XTRAN (R253) -/
  | xtran (g : Guard) (f : FmtXC)
  /-- XCONV (R254) -/
  | xconv (g : Guard) (f : FmtXC)
  /-- XMCST (R256) -/
  | xmcst (g : Guard) (f : FmtXC)
  /-- XRED (R257) -/
  | xred (g : Guard) (f : FmtXC)
  /-- XATOM (R258) -/
  | xatom (g : Guard) (f : FmtXC)
  /-- XAPND (R259) -/
  | xapnd (g : Guard) (f : FmtXC)
  /-- XSIG (R260) -/
  | xsig (g : Guard) (f : FmtXC)
  /-- XWAIT (R261) -/
  | xwait (g : Guard) (f : FmtXC)
  /-- XPREF (R262) -/
  | xpref (g : Guard) (f : FmtXC)
  /-- XCOMP (R275) -/
  | xcomp (g : Guard) (f : FmtXC)
  /-- XMRG (R280) -/
  | xmrg (g : Guard) (f : FmtXC)
  /-- XSNAP (R282) -/
  | xsnap (g : Guard) (f : FmtXC)
  /-- XHDR (R270) -/
  | xhdr (g : Guard) (f : FmtXC)
  /-- XTLD (R283) -/
  | xtld (g : Guard) (f : FmtXC)
  /-- XFST (R285) -/
  | xfst (g : Guard) (f : FmtXC)
  /-- SECTION_FORWARD (R66) -/
  | sectionForward (tile : Nat)
  /-- SECTION_START (R68) -/
  | sectionStart (tile : Nat) (e : Engine)
  /-- COMMAND_ACCEPT (R243) -/
  | commandAccept (tile : Nat)
  /-- ELEMENT_PERFORM (R244) -/
  | elementPerform (tile cslot : Nat)
  /-- FAULT_RECORD_ENTER (R311) -/
  | faultRecordEnter (die : Nat)
  /-- MIGRATION_REWALK (R234) -/
  | migrationRewalk (who : StallRef)
  /-- COMMAND_RETIRE (R246) -/
  | commandRetire (tile : Nat)
  /-- WRITE_QUEUE_OPERATION (R236) -/
  | writeQueueOperation (die k : Nat)
  /-- WRITE_QUEUE_DRAIN (R236) -/
  | writeQueueDrain (die line : Nat)
  /-- ECC_CORRECTED (R220) -/
  | eccCorrected (line : Nat)
  /-- UNCORRECTABLE_SOFT_ERROR (R382) -/
  | uncorrectableSoftError (site : ErrSite)
  /-- SHOOTDOWN_ACK (R226) -/
  | shootdownAck (die : Nat)
  /-- BAR2_WRITE (R402) -/
  | bar2Write (m off : Nat) (data : List Byte)
  /-- BAR2_READ (R402) -/
  | bar2Read (m off len : Nat)
  /-- BAR4_WRITE (R330) -/
  | bar4Write (m off : Nat) (data : List Byte) (be : List Bool)
  /-- BAR4_READ (R298) -/
  | bar4Read (m off len : Nat)
  /-- ORDERING_POINT_RELEASE (R297) -/
  | orderingPointRelease (k : Nat)
  /-- CLAIM (R405) -/
  | claim (m : Nat)
  /-- HANDOVER (R405) -/
  | handover (m : Nat) (v : W64)
  /-- SUBMIT (R341) -/
  | submit (m : Nat) (v : W64)
  /-- GANG_SUBMIT (R356) -/
  | gangSubmit (m : Nat) (v : W64)
  /-- SHOOT_CTL_START (R226) -/
  | shootCtlStart (m : Nat) (v : W64)
  /-- SHOOT_CTL_CLEAR_LOST (R226) -/
  | shootCtlClearLost (m : Nat) (v : W64)
  /-- RESUME_RETRY (R231) -/
  | resumeRetry (m : Nat) (v : W64)
  /-- RESUME_FAIL (R231) -/
  | resumeFail (m : Nat) (v : W64)
  /-- RESUME_CLEAR_STRAY (R231) -/
  | resumeClearStray (m : Nat) (v : W64)
  /-- SLOT_CTL_RESUME (R366) -/
  | slotCtlResume (m slot : Nat) (v : W64)
  /-- SLOT_CTL_KILL (R367) -/
  | slotCtlKill (m slot : Nat) (v : W64)
  /-- SLOT_CTL_PARK (R366) -/
  | slotCtlPark (m slot : Nat) (v : W64)
  /-- RING_CFG_WRITE (R310) -/
  | ringCfgWrite (m : Nat) (ring : RingName) (v : W64)
  /-- RING_HEAD_WRITE (R310) -/
  | ringHeadWrite (m : Nat) (ring : RingName) (v : W64)
  /-- LC_REQ_RESET (R407) -/
  | lcReqReset (m : Nat) (v : W64)
  /-- LC_REQ_ADVANCE (R408) -/
  | lcReqAdvance (m : Nat) (v : W64)
  /-- LC_STATE_TRIP_CLEAR (R409) -/
  | lcStateTripClear (m : Nat) (v : W64)
  /-- ATTEST (R411) -/
  | attest (m : Nat) (v : W64)
  /-- PWR_CAP (R412) -/
  | pwrCap (m : Nat) (v : W64)
  /-- THRESH (R233) -/
  | thresh (m die : Nat) (v : W64)
  /-- PERF_CTL (R336) -/
  | perfCtl (m : Nat) (v : W64)
  /-- REPLAY_CTL (R395) -/
  | replayCtl (m : Nat) (v : W64)
  /-- QUENCH_CTL (R389) -/
  | quenchCtl (m : Nat) (v : W64)
  /-- TEMPER (R392) -/
  | temper (m : Nat) (v : W64)
  /-- BLAZE_CTL (R393) -/
  | blazeCtl (m : Nat) (v : W64)
  /-- CONTROL_WRITE (R403) -/
  | controlWrite (m off : Nat) (bs : List Byte)
  /-- LAUNCH_SLOT_FREE (R345) -/
  | launchSlotFree (slot : Nat)
  /-- LIST_LAUNCH_START (R314) -/
  | listLaunchStart (slot : Nat) (tiles : List Nat)
  /-- POINT_FIRE (R348) -/
  | pointFire (slot tile : Nat)
  /-- POINT_START (R19) -/
  | pointStart (tile : Nat)
  /-- POINT_COMPLETE (R23) -/
  | pointComplete (tile : Nat)
  /-- CLEARING (R318) -/
  | clearing (slot : Nat)
  /-- WORK_LIST_DEADLOCK (R321) -/
  | workListDeadlock (slot : Nat)
  /-- CONTEXT_SAVE (R372) -/
  | contextSave (slot : Nat)
  /-- CONTEXT_RESTORE (R377) -/
  | contextRestore (k tile : Nat)
  /-- CHECKPOINT_MARK (R380) -/
  | checkpointMark
  /-- PREPARE (R357) -/
  | prepare (gang : Nat)
  /-- READY (R357) -/
  | ready (gang member : Nat)
  /-- REFUSE (R357) -/
  | refuse (gang member : Nat)
  /-- COMMIT (R357) -/
  | commit (gang : Nat)
  /-- ABORT (R357) -/
  | abort (gang : Nat)
  /-- GANG_PREPARE_TIMEOUT (R357) -/
  | gangPrepareTimeout (gang : Nat)
  /-- GANG_MEMBER_LOST (R358) -/
  | gangMemberLost (gang member : Nat)
  /-- MARK (R383) -/
  | mark (gang : Nat)
  /-- MARKED (R383) -/
  | marked (gang member : Nat)
  /-- GANG_RESUME (R383) -/
  | gangResume (gang : Nat)
  /-- BLAZE_MARKER (R393) -/
  | blazeMarker (die link : Nat)
  /-- QUENCH_EDGE (R390) -/
  | quenchEdge
  /-- TEMPER_RESTART (R392) -/
  | temperRestart
  /-- INFLIGHT_WRITE (R392) -/
  | inflightWrite (tile k : Nat)
  /-- POWER_ON (R407) -/
  | powerOn
  /-- PERST (R407) -/
  | perst (port : Nat)
  /-- FUNCTION_LEVEL_RESET (R407) -/
  | functionLevelReset (port : Nat)
  /-- CLOCK_STEP (R412) -/
  | clockStep
  /-- THERMAL_THROTTLE (R413) -/
  | thermalThrottle (die : Nat)
  /-- THERMAL_TRIP (R413) -/
  | thermalTrip (die : Nat)
  /-- LINK_DOWN (R406) -/
  | linkDown (link : Nat)
  /-- LINK_UP (R406) -/
  | linkUp (link peer : Nat)
  /-- SCHEDULE_CYCLE_TICK (R335) -/
  | scheduleCycleTick
  /-- POWER_OFF (R17) -/
  | powerOff
  /-- WIPE_END (R238) -/
  | wipeEnd
  /-- THERMAL_RELEASE (R413) -/
  | thermalRelease
  /-- ATTESTATION_REPORT (R411) -/
  | attestationReport
  /-- GANG_COMPLETION (R358) -/
  | gangCompletion (gang member : Nat)
  /-- REMOTE_PAGE_ACCESS (R406) -/
  | remotePageAccess (link : Nat) (pa : Nat) (data : Option (List Byte)) (len : Nat)
  /-- COMPLETION_TIMEOUT (R227) -/
  | completionTimeout (tile cslot : Nat)
  deriving DecidableEq, Repr

end Sys2Proof
end

