-- ==== Sys2Proof/Config.lean ====
section
/-! DEFINITION. What one HX-4 module fixes, and the free values: constants without a body, so that nothing can be proved of
the value they take. Each free value is applied to a counter of State or to the operands it depends on. -/

namespace Sys2Proof.Config

/-- Enabled tiles of the module (R10). -/
def numTiles : Nat := 896

/-- Transfer dies of the module (Table 01-1). -/
def numDies : Nat := 8

/-- Bytes of module memory, 768 GiB (R219). -/
def memBytes : Nat := 768 * 2 ^ 30

/-- Rows of a scratchpad (R13). -/
def spRows : Nat := 16384

/-- Capacity of a section queue in sections and in slots (R308). -/
def secCap : Nat := 32
def secSlots : Nat := 1024

/-- Capacity of a transfer channel, and its commands in flight (R246). -/
def chanCap : Nat := 256
def chanFlight : Nat := 4

/-- Capacity of an operand FIFO in bytes and of a scale queue in heads (R13). -/
def fifoCap : Nat := 16384
def sqCap : Nat := 1024

/-- Capacities of the I/O die's queues (R308). -/
def submitCap : Nat := 256
def readyCap : Nat := 1024
def parkedCap : Nat := 16384

/-- Translation entries and access counters of a transfer die (Table 10-1). -/
def tlbCap : Nat := 16384
def acntCap : Nat := 16384

/-- FREE VALUE: a choice between two outcomes the spec leaves open (R225, R300), fresh for each use (log 8, log 9). -/
opaque freeBool : Nat → Bool

/-- FREE VALUE: a value the spec leaves open, fresh for each use. -/
opaque freeWord : Nat → W64

/-- FREE VALUE: the correctly rounded result of a long-latency function, for operands on which the model's interval
arithmetic does not separate the rounding candidates (log 10): function number, type code, rounding mode, random word,
operand bits, and which of result bits and flags. -/
opaque roundedFun : Nat → Nat → Nat → Nat → Nat → Nat × Nat

/-- FREE VALUE: whether the Ed448 check of a life-cycle request passes, for the key (0 vendor, 1 operator) and the use
(R408, log 12). -/
opaque signatureOk : Nat → Nat → Bool

/-- FREE VALUE: whether the signature of the firmware image in the flash passes its check at a reset (R410, log 12). -/
opaque firmwareOk : Nat → Bool

/-- FREE VALUE: the kind of that image: 0 vendor manufacturing, 1 Yelsutor, 2 vendor diagnostic (Table 21-5, log 12). -/
opaque firmwareKind : Nat → Nat

/-- FREE VALUE: its security version, and the fused version that it asks for once it runs (R410, log 12). -/
opaque firmwareVersion : Nat → W64
opaque firmwareRaise : Nat → W64

/-- FREE VALUE: byte k of what an attestation report holds of an image, an identity key or a signature (R411, log 12): the first argument
is 0 digest, 1 public key, 2 signature, 3 what stands for a key that there is none of; the second names the image, key or use. -/
opaque attestByte : Nat → Nat → Nat → Byte

/-- FREE VALUE: the power in watts predicted for a clock in MHz (R412, log 13). -/
opaque predictedPower : Nat → Nat → Nat

/-- FREE VALUE: the access-counter entries of a transfer die that a control-space write clears, for the write's offset in the die's
block beyond its listed registers and the value written: the spec has the driver clear entries there and names no register
(R199, log 54). -/
opaque countClear : Nat → W64 → List Nat

/-- FREE VALUE: the contents of flits recorded as the channel state of a blaze (R393, log 14). -/
opaque blazeFlits : Nat → Nat → List Byte

/-- FREE VALUE: byte i of code rows that a header points at nowhere, or where nothing translates (log 5). -/
opaque codeByte : Nat → Nat → Byte

/-- FREE VALUE: byte i of a line that an element reads from a compressed buffer while it is being written (R278, log 53). -/
opaque raceByte : Nat → Nat → Byte

/-- FREE VALUE: the bytes a far module's memory returns for a read of a remote page (R406, log 7). -/
opaque farByte : Nat → Nat → Byte

/-- FREE VALUE: whether a far module refuses a read of its memory at a PA (R406, log 7), fresh for each use. -/
opaque farRefuses : Nat → Nat → Nat → Bool

end Sys2Proof.Config
end

