-- ==== Sys2Proof/Machine/Fp.lean ====
section
/-! DEFINITION. The floating-point formats (R27, R28), exact values, and the one rounding of R41, R42 and R39: a magnitude is
given by its leading bits and whether anything lies below them, and is rounded once to a format. -/

namespace Sys2Proof.Machine

/-- A floating-point format (Table 02-2): bits, exponent and fraction widths, bias, the largest finite bit pattern without its
sign, whether it has infinities, and its canonical NaN (Table 02-3). -/
structure Fmt where
  wid : Nat
  ew : Nat
  mw : Nat
  bias : Nat
  maxMag : Nat
  hasInf : Bool
  nan : Option Nat
  deriving DecidableEq, Repr

def Fmt.f32 : Fmt := ⟨32, 8, 23, 127, 0x7F7FFFFF, true, some 0x7FC00000⟩
def Fmt.bf16 : Fmt := ⟨16, 8, 7, 127, 0x7F7F, true, some 0x7FC0⟩
def Fmt.f16 : Fmt := ⟨16, 5, 10, 15, 0x7BFF, true, some 0x7E00⟩
def Fmt.e5m2 : Fmt := ⟨8, 5, 2, 15, 0x7B, true, some 0x7F⟩
def Fmt.e4m3 : Fmt := ⟨8, 4, 3, 7, 0x7E, false, some 0x7F⟩
def Fmt.e3m2 : Fmt := ⟨6, 3, 2, 3, 0x1F, false, none⟩
def Fmt.e2m3 : Fmt := ⟨6, 2, 3, 1, 0x1F, false, none⟩
def Fmt.e2m1 : Fmt := ⟨4, 2, 1, 1, 0x7, false, none⟩

/-- The format of an element type code 8 to 15 (Table 03-6). -/
def Fmt.ofType? : Nat → Option Fmt
  | 8 => some .bf16 | 9 => some .f16 | 10 => some .f32 | 11 => some .e4m3
  | 12 => some .e5m2 | 13 => some .e3m2 | 14 => some .e2m3 | 15 => some .e2m1 | _ => none

/-- The value of a bit pattern: NaN, an infinity, or (-1)^neg * m * 2^e, where a zero keeps its sign. -/
inductive Fp where
  | nan
  | inf (neg : Bool)
  | fin (neg : Bool) (m : Nat) (e : Int)
  deriving DecidableEq, Repr

/-- The value a bit pattern encodes (R27, Table 02-3); bits above the format are ignored (R29). -/
def Fmt.decode (t : Fmt) (x : Nat) : Fp :=
  let neg := bit x (t.wid - 1)
  let e := bits x t.mw t.ew
  let f := bits x 0 t.mw
  if t.hasInf && e == 2 ^ t.ew - 1 then (if f == 0 then .inf neg else .nan)
  else if !t.hasInf && t.nan.isSome && e == 2 ^ t.ew - 1 && f == 2 ^ t.mw - 1 then .nan
  else if e == 0 then .fin neg f (1 - (t.bias : Int) - t.mw)
  else .fin neg (2 ^ t.mw + f) ((e : Int) - t.bias - t.mw)

def Fp.isNaN : Fp → Bool | .nan => true | _ => false
def Fp.isInf : Fp → Bool | .inf _ => true | _ => false
def Fp.isZero : Fp → Bool | .fin _ 0 _ => true | _ => false
def Fp.sign : Fp → Bool | .nan => false | .inf s => s | .fin s _ _ => s

def Fp.neg : Fp → Fp
  | .nan => .nan | .inf s => .inf (!s) | .fin s m e => .fin (!s) m e

/-- The value multiplied by 2^k. -/
def Fp.scale (x : Fp) (k : Int) : Fp :=
  match x with
  | .fin s m e => .fin s m (e + k)
  | y => y

/-- A rounded result and the FP_FLAGS bits it sets: sat 32, inv 16, dz 8, ovf 4, unf 2, inx 1 (Table 02-6). -/
abbrev FRes := Nat × Nat

def flSat : Nat := 32
def flInv : Nat := 16
def flDz : Nat := 8
def flOvf : Nat := 4
def flUnf : Nat := 2
def flInx : Nat := 1

def Fmt.infBits (t : Fmt) (neg : Bool) : Nat := ofBool neg * 2 ^ (t.wid - 1) + (2 ^ t.ew - 1) * 2 ^ t.mw
def Fmt.maxBits (t : Fmt) (neg : Bool) : Nat := ofBool neg * 2 ^ (t.wid - 1) + t.maxMag
def Fmt.zeroBits (t : Fmt) (neg : Bool) : Nat := ofBool neg * 2 ^ (t.wid - 1)

/-- The canonical NaN of the format (R28); where it has none, +0 with inv (R41). -/
def Fmt.nanRes (t : Fmt) : FRes :=
  match t.nan with
  | some n => (n, 0)
  | none => (0, flInv)

/-- A NaN created from operands that are not NaN sets inv (R28). -/
def Fmt.invRes (t : Fmt) : FRes := ((t.nanRes).1, flInv)

/-- Whether the truncated magnitude goes up by one unit (R40, R42): `odd` its low bit, `frac` of 2^sh what lies below it,
`more` whether anything nonzero lies below `frac`, u the random word of 16 bits. -/
def roundsUp (rnd u : Nat) (neg odd : Bool) (frac sh : Nat) (more : Bool) : Bool :=
  let inexact := frac != 0 || more
  match rnd with
  | 0 => if 2 * frac == 2 ^ sh then more || odd else 2 * frac > 2 ^ sh
  | 1 => false
  | 2 => inexact && !neg
  | 3 => inexact && neg
  | _ => decide ((if sh ≥ 16 then frac / 2 ^ (sh - 16) else frac * 2 ^ (16 - sh)) > u)

/-- The result of an overflow (R41): the saturating form and the formats without infinities clamp. -/
def Fmt.overflow (t : Fmt) (rnd : Nat) (sat neg : Bool) : Nat :=
  if sat || !t.hasInf then t.maxBits neg
  else match rnd with
    | 1 => t.maxBits neg
    | 2 => if neg then t.maxBits neg else t.infBits neg
    | 3 => if neg then t.infBits neg else t.maxBits neg
    | _ => t.infBits neg

/-- A magnitude (m + d) * 2^e rounded to the unit 2^q, d being 0, or between 0 and 1 when `more`: the multiple of the unit, and
whether it differs. Where q is at most e, `more` does not hold. -/
def roundUnit (rnd u : Nat) (neg : Bool) (m : Nat) (e : Int) (more : Bool) (q : Int) : Nat × Bool :=
  if q ≤ e then (m * 2 ^ (e - q).toNat, more)
  else
    let sh := (q - e).toNat
    let t := m / 2 ^ sh
    let frac := m % 2 ^ sh
    (t + ofBool (roundsUp rnd u neg (t % 2 == 1) frac sh more), frac != 0 || more)

/-- RoundTo(t, x, rnd) of a nonzero x (R41, R42): x has sign `neg` and magnitude (m + d) * 2^e, where d is 0, or lies between 0
and 1 when `more` (and m then has at least 64 bits). Tininess is detected after rounding with an unbounded exponent (R39). -/
def Fmt.round (t : Fmt) (rnd u : Nat) (sat neg : Bool) (m : Nat) (e : Int) (more : Bool) : FRes :=
  let top : Int := e + lg2 m
  let emin : Int := 1 - (t.bias : Int)
  let q : Int := (if top ≥ emin then top else emin) - t.mw
  let (r, inexact) := roundUnit rnd u neg m e more q
  let biased : Int := q + t.mw + t.bias - 1
  let mag := biased.toNat * 2 ^ t.mw + r
  if mag > t.maxMag then (t.overflow rnd sat neg, flOvf + flInx)
  else
    let (ru, _) := roundUnit rnd u neg m e more (top - t.mw)
    let tiny := top < emin && !(top + 1 == emin && ru == 2 ^ (t.mw + 1))
    (ofBool neg * 2 ^ (t.wid - 1) + mag, if inexact then flInx + (if tiny then flUnf else 0) else 0)

/-- RoundTo(t, x, rnd) of a value (R41), a zero keeping its sign. An infinite value overflows in formats without infinities and
in the saturating form, also where both types are the same (R143): DESIGN CHOICE (log 76). -/
def Fmt.ofFp (t : Fmt) (rnd u : Nat) (sat : Bool) (x : Fp) : FRes :=
  match x with
  | .nan => t.nanRes
  | .inf s => if sat || !t.hasInf then (t.maxBits s, flOvf + flInx) else (t.infBits s, 0)
  | .fin s m e => if m = 0 then (t.zeroBits s, 0) else t.round rnd u sat s m e false

/-- The sum of two finite values as a signed integer times a power of two. -/
def addExact (s1 : Bool) (m1 : Nat) (e1 : Int) (s2 : Bool) (m2 : Nat) (e2 : Int) : Int × Int :=
  let e := min e1 e2
  let a : Int := m1 * 2 ^ (e1 - e).toNat
  let b : Int := m2 * 2 ^ (e2 - e).toNat
  ((if s1 then -a else a) + (if s2 then -b else b), e)

/-- a + b with one rounding, and the signs of exact zeros (R134). -/
def Fmt.add (t : Fmt) (rnd u : Nat) (a b : Fp) : FRes :=
  match a, b with
  | .nan, _ => t.nanRes
  | _, .nan => t.nanRes
  | .inf s, .inf r => if s == r then (t.infBits s, 0) else t.invRes
  | .inf s, _ => (t.infBits s, 0)
  | _, .inf s => (t.infBits s, 0)
  | .fin s1 m1 e1, .fin s2 m2 e2 =>
    let (x, e) := addExact s1 m1 e1 s2 m2 e2
    if x = 0 then
      if m1 = 0 && m2 = 0 && s1 == s2 then (t.zeroBits s1, 0) else (t.zeroBits (rnd == 3), 0)
    else t.round rnd u false (x < 0) x.natAbs e false

/-- The exact product; infinity times zero and NaN give none. -/
def Fp.mul (a b : Fp) : Option Fp :=
  match a, b with
  | .nan, _ => none
  | _, .nan => none
  | .inf s, .inf r => some (.inf (s != r))
  | .inf s, .fin r m _ => if m = 0 then none else some (.inf (s != r))
  | .fin r m _, .inf s => if m = 0 then none else some (.inf (s != r))
  | .fin s1 m1 e1, .fin s2 m2 e2 => some (.fin (s1 != s2) (m1 * m2) (e1 + e2))

/-- a * b with one rounding (R134). -/
def Fmt.mul (t : Fmt) (rnd u : Nat) (a b : Fp) : FRes :=
  if a.isNaN || b.isNaN then t.nanRes
  else match Fp.mul a b with
    | none => t.invRes
    | some p => t.ofFp rnd u false p

/-- a * b + c with one rounding: a NaN operand gives the canonical NaN without a flag; infinity times zero sets inv (R134). -/
def Fmt.fma (t : Fmt) (rnd u : Nat) (a b c : Fp) : FRes :=
  if a.isNaN || b.isNaN || c.isNaN then t.nanRes
  else match Fp.mul a b with
    | none => t.invRes
    | some p => t.add rnd u p c

/-- Whether a value is below another: neither is NaN, and -0 counts as less than +0 (R136). -/
def Fp.ltTotal (a b : Fp) : Bool :=
  match a, b with
  | .nan, _ => false
  | _, .nan => false
  | .inf s, .inf r => s && !r
  | .inf s, _ => s
  | _, .inf s => !s
  | .fin s1 m1 e1, .fin s2 m2 e2 =>
    let d := (addExact s1 m1 e1 (!s2) m2 e2).1
    d < 0 || (d == 0 && m1 == 0 && s1 && !s2)

/-- Numeric comparison of values that are not NaN, -0 equal to +0 (R138): less, equal. -/
def Fp.cmp (a b : Fp) : Bool × Bool :=
  match a, b with
  | .nan, _ => (false, false)
  | _, .nan => (false, false)
  | .inf s, .inf r => (s && !r, s == r)
  | .inf s, _ => (s, false)
  | _, .inf s => (!s, false)
  | .fin s1 m1 e1, .fin s2 m2 e2 =>
    let d := (addExact s1 m1 e1 (!s2) m2 e2).1
    (d < 0, d == 0)

/-- VFMIN and VFMAX of two bit patterns (R136). -/
def Fmt.minmax (t : Fmt) (max : Bool) (x y : Nat) : Nat :=
  let a := t.decode x
  let b := t.decode y
  if a.isNaN && b.isNaN then t.nanRes.1
  else if a.isNaN then y
  else if b.isNaN then x
  else if (if max then a.ltTotal b else b.ltTotal a) then y else x

/-- The quotient of two nonzero magnitudes to 80 bits and more, and whether anything lies below. -/
def divMag (m1 : Nat) (e1 : Int) (m2 : Nat) (e2 : Int) : Nat × Int × Bool :=
  let k := lg2 m2 + 80
  (m1 * 2 ^ k / m2, e1 - e2 - k, m1 * 2 ^ k % m2 != 0)

/-- a / b with its special cases (Table 07-3). -/
def Fmt.div (t : Fmt) (rnd u : Nat) (a b : Fp) : FRes :=
  match a, b with
  | .nan, _ => t.nanRes
  | _, .nan => t.nanRes
  | .inf _, .inf _ => t.invRes
  | .inf s, .fin r _ _ => (t.infBits (s != r), 0)
  | .fin s _ _, .inf r => (t.zeroBits (s != r), 0)
  | .fin s1 m1 e1, .fin s2 m2 e2 =>
    if m2 = 0 then (if m1 = 0 then t.invRes else (t.infBits (s1 != s2), flDz))
    else if m1 = 0 then (t.zeroBits (s1 != s2), 0)
    else
      let (q, e, more) := divMag m1 e1 m2 e2
      t.round rnd u false (s1 != s2) q e more

/-- 1 / a (Table 07-3). -/
def Fmt.rcp (t : Fmt) (rnd u : Nat) (a : Fp) : FRes :=
  match a with
  | .fin s 0 _ => (t.infBits s, flDz)
  | _ => t.div rnd u (.fin false 1 0) a

/-- The square root of a nonzero magnitude to 80 bits and more. -/
def sqrtMag (m : Nat) (e : Int) : Nat × Int × Bool :=
  let m' := if e % 2 == 0 then m else 2 * m
  let e' := if e % 2 == 0 then e else e - 1
  let r := isqrt (m' * 2 ^ 160)
  (r, e' / 2 - 80, r * r != m' * 2 ^ 160)

/-- √a (Table 07-3). -/
def Fmt.sqrt (t : Fmt) (rnd u : Nat) (a : Fp) : FRes :=
  match a with
  | .nan => t.nanRes
  | .inf s => if s then t.invRes else (t.infBits false, 0)
  | .fin s m e =>
    if m = 0 then (t.zeroBits s, 0)
    else if s then t.invRes
    else
      let (r, k, more) := sqrtMag m e
      t.round rnd u false false r k more

/-- 1 / √a (Table 07-3). -/
def Fmt.rsq (t : Fmt) (rnd u : Nat) (a : Fp) : FRes :=
  match a with
  | .nan => t.nanRes
  | .inf s => if s then t.invRes else (t.zeroBits false, 0)
  | .fin s m e =>
    if m = 0 then (t.infBits s, flDz)
    else if s then t.invRes
    else
      let m' := if e % 2 == 0 then m else 2 * m
      let e' := if e % 2 == 0 then e else e - 1
      let k := 2 * lg2 m' + 170
      let k' := k + k % 2
      let r := isqrt (2 ^ k' / m')
      t.round rnd u false false r (-(e' / 2) - (k' / 2 : Nat)) (r * r * m' != 2 ^ k')

/-- floor(log2 |x|) of a finite nonzero value. -/
def Fp.ilog : Fp → Int
  | .fin _ m e => e + lg2 m
  | _ => 0

/-- VFEXPO (R137). -/
def Fp.expo (x : Fp) : Int :=
  match x with
  | .nan => 129
  | .inf _ => 128
  | .fin _ m e => if m = 0 then -128 else e + lg2 m

/-- The class number of VFCLASS (R140). -/
def Fmt.classOf (t : Fmt) (x : Nat) : Nat :=
  match t.decode x with
  | .nan => 0
  | .inf s => if s then 1 else 7
  | .fin s m _ => if m = 0 then 4 else if m < 2 ^ t.mw then (if s then 3 else 5) else (if s then 2 else 6)

/-- An integer rounded under a mode from a magnitude with sign: the integer and whether the value was not integral (R142). -/
def roundInt (rnd u : Nat) (neg : Bool) (m : Nat) (e : Int) : Int × Bool :=
  let (r, inexact) := roundUnit rnd u neg m e false 0
  (if neg then -(r : Int) else r, inexact)

/-- The least and greatest value of an integer of w bits (R26). -/
def intLo (w : Nat) (sgn : Bool) : Int := if sgn then -(2 ^ (w - 1) : Nat) else 0
def intHi (w : Nat) (sgn : Bool) : Int := if sgn then (2 ^ (w - 1) : Nat) - 1 else (2 ^ w : Nat) - 1

/-- Sat(t, x) and its flag (Table 00-1). -/
def satInt (w : Nat) (sgn : Bool) (x : Int) : Int × Nat :=
  if x < intLo w sgn then (intLo w sgn, flSat) else if x > intHi w sgn then (intHi w sgn, flSat) else (x, 0)

/-- The generator of R43: one draw. -/
def xorshift (x : Nat) : Nat :=
  let x := (x ^^^ (x * 2 ^ 13)) % 2 ^ 32
  let x := x ^^^ (x / 2 ^ 17)
  (x ^^^ (x * 2 ^ 5)) % 2 ^ 32

/-- The state after n draws. -/
def xorshiftN : Nat → Nat → Nat
  | 0, x => x
  | n + 1, x => xorshiftN n (xorshift x)

/-- The seed of generator l (R43). -/
def genSeed (seed l : Nat) : Nat :=
  let x := ((seed % 2 ^ 32) ^^^ (l * 0x9E3779B9)) % 2 ^ 32
  if x = 0 then 1 else x

end Sys2Proof.Machine
end

