-- ==== Sys2Proof/Machine/FpFun.lean ====
section
/-! DEFINITION. VFEXP2, VFLOG2 and VFTANH: the exact mathematical result rounded once (R134). The results are irrational apart
from the cases of Table 07-3, so they are enclosed in fixed-point intervals of `fxP` bits; where both ends give the same leading
bits, these are the bits of the exact result and something nonzero lies below them. Where they do not, the value is the free
`Config.roundedFun` (log 10). -/

namespace Sys2Proof.Machine

/-- Fraction bits of the fixed-point arithmetic. -/
def fxP : Nat := 640

/-- Units of the last place by which a fixed-point value may differ from the exact one: far more than all truncations. -/
def fxErr : Nat := 2 ^ 24

def fxOne : Nat := 2 ^ fxP
def fxMul (a b : Nat) : Nat := a * b / 2 ^ fxP

/-- Σ from k = i of the series of atanh: Σ z^(2k+1) / (2k+1), from the power p = z^(2i+1), n terms. -/
def atanhGo (z2 : Nat) : (n i p acc : Nat) → Nat
  | 0, _, _, acc => acc
  | n + 1, i, p, acc => if p = 0 then acc else atanhGo z2 n (i + 1) (fxMul p z2) (acc + p / (2 * i + 1))

/-- atanh of z at most 1/3. -/
def fxAtanh (z : Nat) : Nat := atanhGo (fxMul z z) 260 0 z 0

/-- ln 2 = 2 atanh(1/3). -/
def fxLn2 : Nat := 2 * fxAtanh (fxOne / 3)

/-- Σ from k = i of x^k / k!, from the term t = x^(i-1) / (i-1)!, n terms. -/
def expGo (x : Nat) : (n i t acc : Nat) → Nat
  | 0, _, _, acc => acc
  | n + 1, i, t, acc =>
    let t' := fxMul t x / i
    if t' = 0 then acc else expGo x n (i + 1) t' (acc + t')

/-- e^x - 1 for 0 ≤ x ≤ 1. -/
def fxExpm1 (x : Nat) : Nat := expGo x 200 1 fxOne 0

/-- m * 2^e in fixed point, truncated. -/
def toFx (m : Nat) (e : Int) : Nat :=
  let s := e + fxP
  if s ≥ 0 then m * 2 ^ s.toNat else m / 2 ^ (-s).toNat

/-- Leading bits of a value enclosed between v - fxErr and v + fxErr, scaled by 2^e: 80 bits on which both ends agree. -/
def enclose (v : Nat) (e : Int) : Option (Nat × Int × Bool) :=
  let lo := v - fxErr
  let hi := v + fxErr
  let sh := lg2 v - 80
  if lg2 v ≥ 80 && lo / 2 ^ sh == hi / 2 ^ sh then some (lo / 2 ^ sh, e + sh, true) else none

/-- 2^a of a finite value: its leading bits; exact where a is an integer. A magnitude beyond 2^15 is represented by 2^±32768,
which rounds alike in every format. -/
def exp2Mag (neg : Bool) (m : Nat) (e : Int) : Option (Nat × Int × Bool) :=
  if m = 0 then some (1, 0, false)
  else if e + lg2 m ≥ 15 then some (2 ^ 80, (if neg then -32768 else 32768) - 80, true)
  else if e ≥ 0 then some (1, if neg then -((m * 2 ^ e.toNat : Nat) : Int) else m * 2 ^ e.toNat, false)
  else
    let d := (-e).toNat
    let ip := m / 2 ^ d
    let fr := m % 2 ^ d
    if fr = 0 then some (1, if neg then -(ip : Int) else ip, false)
    else
      -- 2^(-(ip + f)) = 2^(-ip-1) * 2^(1-f)
      let f := if neg then 2 ^ d - fr else fr
      let k : Int := if neg then -(ip : Int) - 1 else ip
      enclose (fxOne + fxExpm1 (fxMul (toFx f (-(d : Int))) fxLn2)) (k - fxP)

/-- log2 of a positive value that is no power of two: sign and leading bits. -/
def log2Mag (m : Nat) (e : Int) : Option (Bool × Nat × Int × Bool) :=
  let k := lg2 m
  -- m = 2^k * y, 1 < y < 2; log2 = (k + e) + log2 y
  let num := (m - 2 ^ k) * fxOne
  let z := num / (m + 2 ^ k)
  let l := 2 * fxAtanh z * fxOne / fxLn2
  let n : Int := k + e
  if n ≥ 0 then (enclose (n.toNat * fxOne + l) (-(fxP : Int))).map fun r => (false, r)
  else (enclose ((-n).toNat * fxOne - l) (-(fxP : Int))).map fun r => (true, r)

/-- tanh of a positive value. From 64 up it lies above 1 - 2^-80 and below 1. -/
def tanhMag (m : Nat) (e : Int) : Option (Nat × Int × Bool) :=
  if e + lg2 m ≥ 6 then some (2 ^ 80 - 1, -80, true)
  else
    let y := 2 * toFx m e
    -- e^y = 2^n * e^r
    let n := y / fxLn2
    let r := y % fxLn2
    let x1 := fxExpm1 r
    -- (e^y - 1) / (e^y + 1)
    let num := 2 ^ n * x1 + (2 ^ n - 1) * fxOne
    let den := 2 ^ n * x1 + (2 ^ n + 1) * fxOne
    enclose (num * fxOne / den) (-(fxP : Int))

/-- A result from an enclosure, or the free value where the enclosure does not decide. -/
def Fmt.ofEnclosure (t : Fmt) (fn ty rnd u x : Nat) (r : Option (Bool × Nat × Int × Bool)) : FRes :=
  match r with
  | some (neg, m, e, more) => t.round rnd u false neg m e more
  | none => Config.roundedFun fn ty rnd u x

/-- 2^a (Tables 07-2, 07-3). -/
def Fmt.exp2 (t : Fmt) (ty rnd u x : Nat) : FRes :=
  match t.decode x with
  | .nan => t.nanRes
  | .inf s => (if s then t.zeroBits false else t.infBits false, 0)
  | .fin s m e => t.ofEnclosure 0 ty rnd u x ((exp2Mag s m e).map fun r => (false, r))

/-- log2 a (Tables 07-2, 07-3). -/
def Fmt.log2 (t : Fmt) (ty rnd u x : Nat) : FRes :=
  match t.decode x with
  | .nan => t.nanRes
  | .inf s => if s then t.invRes else (t.infBits false, 0)
  | .fin s m e =>
    if m = 0 then (t.infBits true, flDz)
    else if s then t.invRes
    else if m = 2 ^ lg2 m then
      let k : Int := e + lg2 m
      if k = 0 then (t.zeroBits false, 0) else t.round rnd u false (k < 0) k.natAbs 0 false
    else t.ofEnclosure 1 ty rnd u x (log2Mag m e)

/-- tanh a (Tables 07-2, 07-3). -/
def Fmt.tanh (t : Fmt) (ty rnd u x : Nat) : FRes :=
  match t.decode x with
  | .nan => t.nanRes
  | .inf s => (ofBool s * 2 ^ (t.wid - 1) + t.bias * 2 ^ t.mw, 0)
  | .fin s m e =>
    if m = 0 then (t.zeroBits s, 0)
    else t.ofEnclosure 2 ty rnd u x ((tanhMag m e).map fun r => (s, r))

end Sys2Proof.Machine
end

