-- ==== Sys2Proof/Machine/Assoc.lean ====
section
/-! DEFINITION. Tables indexed by number as association lists, and byte memories as lists of cells, in canonical form: keys
strictly rising and no entry equal to what an unlisted key reads as. -/

namespace Sys2Proof.Machine

/-- The entry under key k, or the default. -/
def Assoc.get {α : Type} (d : α) (k : Nat) : List (Nat × α) → α
  | [] => d
  | (j, x) :: l => if j = k then x else Assoc.get d k l

/-- The list without key k. -/
def Assoc.erase {α : Type} (k : Nat) : List (Nat × α) → List (Nat × α)
  | [] => []
  | (j, x) :: l => if j = k then Assoc.erase k l else (j, x) :: Assoc.erase k l

/-- Key k put before the first greater key. -/
def Assoc.insert {α : Type} (k : Nat) (x : α) : List (Nat × α) → List (Nat × α)
  | [] => [(k, x)]
  | (j, y) :: l => if k < j then (k, x) :: (j, y) :: l else (j, y) :: Assoc.insert k x l

/-- Key k set to x: the entry is removed where x is the default. -/
def Assoc.set {α : Type} [DecidableEq α] (d : α) (k : Nat) (x : α) (l : List (Nat × α)) : List (Nat × α) :=
  if x = d then Assoc.erase k l else Assoc.insert k x (Assoc.erase k l)

/-- The canonical form: keys strictly rising, no default entry. -/
def Assoc.wf {α : Type} [DecidableEq α] (d : α) : List (Nat × α) → Bool
  | [] => true
  | [(_, x)] => x ≠ d
  | (j, x) :: (k, y) :: l => x ≠ d && j < k && Assoc.wf d ((k, y) :: l)

/-- A table whose unlisted entries are absent: the entry under key k. -/
def Tab.get? {α : Type} (k : Nat) : List (Nat × α) → Option α
  | [] => none
  | (j, x) :: l => if j = k then some x else Tab.get? k l

/-- A table whose unlisted entries are absent: key k set to x. -/
def Tab.put {α : Type} (k : Nat) (x : α) (l : List (Nat × α)) : List (Nat × α) :=
  Assoc.insert k x (Assoc.erase k l)

/-- Keys strictly rising. -/
def Tab.wf {α : Type} : List (Nat × α) → Bool
  | [] => true
  | [_] => true
  | (j, _) :: (k, y) :: l => j < k && Tab.wf ((k, y) :: l)

/-- What a byte of memory or of a scratchpad that nothing has written reads as: 0, since every reset wipes all SRAM and all
HBM (R17, R238). -/
def Memory.unlisted : Byte := 0

/-- The byte at an address. -/
def Memory.read (m : List Host.Cell) (a : Nat) : Byte := Assoc.get Memory.unlisted a m

/-- Memory with the byte at an address replaced; writing the unlisted value removes the entry. -/
def Memory.write (m : List Host.Cell) (a : Nat) (b : Byte) : List Host.Cell := Assoc.set Memory.unlisted a b m

/-- The canonical form of a memory. -/
def Memory.wf (m : List Host.Cell) : Bool := Assoc.wf Memory.unlisted m

/-- The n bytes from address a up. -/
def Memory.readN (m : List Host.Cell) (a : Nat) : (n : Nat) → List Byte
  | 0 => []
  | n + 1 => Memory.read m a :: Memory.readN m (a + 1) n

/-- Memory with the bytes from address a up replaced. -/
def Memory.writeN (m : List Host.Cell) (a : Nat) : List Byte → List Host.Cell
  | [] => m
  | b :: bs => Memory.write (Memory.writeN m (a + 1) bs) a b

/-- Memory with the bytes from address a up replaced where the flag beside them is set. -/
def Memory.writeMasked (m : List Host.Cell) (a : Nat) : List (Byte × Bool) → List Host.Cell
  | [] => m
  | (b, e) :: bs =>
    let m' := Memory.writeMasked m (a + 1) bs
    if e then Memory.write m' a b else m'

/-- The little-endian number of n bytes at an address (R1). -/
def Memory.readLE (m : List Host.Cell) (a n : Nat) : Nat := ofBytes (Memory.readN m a n)

/-- Memory with the little-endian n bytes of a number at an address (R1). -/
def Memory.writeLE (m : List Host.Cell) (a n x : Nat) : List Host.Cell := Memory.writeN m a (toBytes n x)

/-- Memory with the n bytes from address a up reading as the unlisted value. -/
def Memory.clear (m : List Host.Cell) (a n : Nat) : List Host.Cell := m.filter fun c => c.1 < a || a + n ≤ c.1

end Sys2Proof.Machine
end

