-- ==== Sys2Proof/WellFormed.lean ====
section
/-! DEFINITION. Which instructions have legal bits (R72, Table 03-16): reserved and unused fields zero (R48), register
fields in range, modifiers as R62, rounding modes as R40, types, conditions and sizes the instruction accepts. A word whose
bits fail here takes the illegal-word fault when it is fetched or forwarded. Events carry no bits: every event is well-formed. -/

namespace Sys2Proof.WellFormed

/-- The operand fields of format S that an instruction may name (R100). -/
inductive SField where
  | gd | ga | gb | imm | cs | ct | cf
  deriving DecidableEq, Repr

/-- Format S: every field outside `named` is 0, and so is the fe bit of a source that is not named (R100, R48). -/
def fmtS (f : FmtS) (named : List SField) : Bool :=
  (named.contains .gd || f.gd == 0) && (named.contains .ga || (f.ga == 0 && f.feA == 0)) &&
  (named.contains .gb || (f.gb == 0 && f.feB == 0)) && (named.contains .imm || f.imm == 0) &&
  (named.contains .cs || f.cs == 0) && (named.contains .ct || f.ct == 0) && (named.contains .cf || f.cf == 0) && f.rsv == 0

/-- BFX and BFI: width 1 to 64, lsb + width at most 64, higher immediate bits 0 (R103). -/
def bitField (imm : BitVec 32) : Bool :=
  let lsb := imm.toNat % 64
  let width := imm.toNat / 64 % 128
  imm.toNat < 2 ^ 13 && 1 ≤ width && width ≤ 64 && lsb + width ≤ 64

/-- The selectors of Table 05-3 (R93, R385). -/
def selector (imm : BitVec 32) : Bool :=
  let n := imm.toNat
  n ≤ 8 || (0x10 ≤ n && n ≤ 0x14) || n == 0x18 || (0x100 ≤ n && n ≤ 0x108)

/-- A vector register field holds 0 to 191 (R48). -/
def vreg (n : BitVec 8) : Bool := n.toNat < 192

/-- A source modifier is legal (R62). -/
def modifier (m : BitVec 12) : Bool :=
  let cls := m.toNat / 1024
  let k := m.toNat / 64 % 16
  let d := m.toNat % 64
  if cls == 0 then m == 0
  else k ≤ 10 && (if cls == 2 then d < k else if cls == 3 then d < 2 ^ k else true)

/-- Storage width in bits of an element type code (R29, R148): 6-bit and BFP types use one byte. -/
def typeWidth (t : Nat) : Nat :=
  if t == 0 || t == 4 || (11 ≤ t && t ≤ 14) || (16 ≤ t && t ≤ 22) then 8
  else if t == 1 || t == 5 || t == 8 || t == 9 then 16
  else if t == 2 || t == 6 || t == 10 then 32
  else if t == 3 || t == 7 then 64
  else 4

/-- What a V3 word names besides vd: its sources, whether it rounds, and the types it accepts. -/
structure V3Use where
  a : Bool := true
  b : Bool := false
  c : Bool := false
  rnd : Bool := false
  types : List Nat

/-- Format V3 with named sources a, b, c (R130, R148). A source that is not named has register, modifier and fe bit 0. -/
def fmtV3 (f : FmtV3) (u : V3Use) : Bool :=
  vreg f.vd && u.types.contains f.ty.toNat &&
  (if u.a then vreg f.va && modifier f.moda else f.va == 0 && f.moda == 0 && !f.fe.getLsbD 2) &&
  (if u.b then vreg f.vb && modifier f.modb else f.vb == 0 && f.modb == 0 && !f.fe.getLsbD 1) &&
  (if u.c then vreg f.vc else f.vc == 0 && !f.fe.getLsbD 0) &&
  (if u.rnd then f.rnd.toNat ≤ 4 else f.rnd == 0)

def tInt : List Nat := [0, 1, 2, 3, 4, 5, 6, 7]
def tMul : List Nat := [0, 1, 2, 4, 5, 6]
def tFloat : List Nat := [8, 9, 10]
def tAll : List Nat := [0, 1, 2, 3, 4, 5, 6, 7, 8, 9, 10, 11, 12, 13, 14, 15]
def tPrune : List Nat := [0, 1, 2, 4, 5, 6, 8, 9, 10, 11, 12, 13, 14]

/-- The four reduction and scan words: va only, segment exponent and operation in vc (R156). -/
def fmtRed (f : FmtV3) (float : Bool) : Bool :=
  let k := f.vc.toNat / 16
  let op := f.vc.toNat % 16
  vreg f.vd && vreg f.va && modifier f.moda && f.vb == 0 && f.modb == 0 && !f.fe.getLsbD 1 && !f.fe.getLsbD 0 &&
  2 ^ k * typeWidth f.ty.toNat ≤ 32768 &&
  (if float then tFloat.contains f.ty.toNat && op ≤ 2 && f.rnd.toNat ≤ 3
   else tInt.contains f.ty.toNat && op ≤ 5 && f.rnd == 0)

/-- Format VP: reserved bits 0 (R49). -/
def fmtVP (f : FmtVP) (a b : Bool) : Bool :=
  f.rsvA == 0 && f.rsvB == 0 && f.rsvC == 0 &&
  (if a then vreg f.va && modifier f.moda else f.va == 0 && f.moda == 0 && !f.fe.getLsbD 1) &&
  (if b then vreg f.vb && modifier f.modb else f.vb == 0 && !f.fe.getLsbD 0)

/-- Format VC (R141): vb is named by VQNT (heads written) and VDQNT (heads read). -/
def fmtVC (f : FmtVC) : Bool :=
  vreg f.vd && vreg f.va && modifier f.moda && vreg f.vb && modifier f.modb && f.rsv == 0 && f.rnd.toNat ≤ 4

/-- Format VM for the words that take `rows` and leave aux 0 (R207). -/
def fmtVMrows (f : FmtVM) : Bool := vreg f.v && f.aux == 0

/-- X words: sig = 0 leaves sem and scope 0 (R240). -/
def fmtXsig (f : FmtXC) : Bool := f.sig == 1 || (f.sem == 0 && f.scope == 0)

end Sys2Proof.WellFormed

namespace Sys2Proof

open WellFormed in
/-- The bits of the instruction are legal (R72). -/
def Instr.wf : Instr → Bool
  | .add _ f => fmtS f [.gd, .ga, .gb]
  | .addi _ f => fmtS f [.gd, .ga, .imm]
  | .sub _ f => fmtS f [.gd, .ga, .gb]
  | .mul _ f => fmtS f [.gd, .ga, .gb]
  | .muli _ f => fmtS f [.gd, .ga, .imm]
  | .mulh _ f => fmtS f [.gd, .ga, .gb]
  | .mulhn _ f => fmtS f [.gd, .ga, .gb]
  | .div _ f => fmtS f [.gd, .ga, .gb]
  | .divn _ f => fmtS f [.gd, .ga, .gb]
  | .rem _ f => fmtS f [.gd, .ga, .gb]
  | .remn _ f => fmtS f [.gd, .ga, .gb]
  | .and _ f => fmtS f [.gd, .ga, .gb]
  | .andi _ f => fmtS f [.gd, .ga, .imm]
  | .or _ f => fmtS f [.gd, .ga, .gb]
  | .ori _ f => fmtS f [.gd, .ga, .imm]
  | .xor _ f => fmtS f [.gd, .ga, .gb]
  | .xori _ f => fmtS f [.gd, .ga, .imm]
  | .andn _ f => fmtS f [.gd, .ga, .gb]
  | .shl _ f => fmtS f [.gd, .ga, .gb]
  | .shli _ f => fmtS f [.gd, .ga, .imm] && f.imm.toNat < 64
  | .shr _ f => fmtS f [.gd, .ga, .gb]
  | .shri _ f => fmtS f [.gd, .ga, .imm] && f.imm.toNat < 64
  | .sar _ f => fmtS f [.gd, .ga, .gb]
  | .sari _ f => fmtS f [.gd, .ga, .imm] && f.imm.toNat < 64
  | .rol _ f => fmtS f [.gd, .ga, .gb]
  | .roli _ f => fmtS f [.gd, .ga, .imm] && f.imm.toNat < 64
  | .min _ f => fmtS f [.gd, .ga, .gb]
  | .minn _ f => fmtS f [.gd, .ga, .gb]
  | .max _ f => fmtS f [.gd, .ga, .gb]
  | .maxn _ f => fmtS f [.gd, .ga, .gb]
  | .clz _ f => fmtS f [.gd, .ga]
  | .ctz _ f => fmtS f [.gd, .ga]
  | .popc _ f => fmtS f [.gd, .ga]
  | .bfx _ f => fmtS f [.gd, .ga, .imm] && bitField f.imm
  | .bfi _ f => fmtS f [.gd, .ga, .imm] && bitField f.imm
  | .sel _ f => fmtS f [.gd, .ga, .gb, .ct]
  | .movi _ f => fmtS f [.gd, .imm]
  | .movhi _ f => fmtS f [.gd, .imm]
  | .cmp _ f => fmtS f [.ga, .gb, .cs, .ct, .cf] && f.cs.toNat % 16 ≤ 9
  | .cmpi _ f => fmtS f [.ga, .imm, .cs, .ct, .cf] && f.cs.toNat % 16 ≤ 9
  | .plog _ f => fmtS f [.imm, .ct] && f.imm.toNat < 2 ^ 20
  | .pmovPack _ f => fmtS f [.gd, .imm] && f.imm == 0
  | .pmovUnpack _ f => fmtS f [.ga, .imm] && f.imm == 1
  | .br _ f => f.gd == 0 && f.ga == 0 && f.gb == 0 && f.feA == 0 && f.feB == 0 && f.rsv == 0
  | .brx _ f => f.gd == 0 && f.gb == 0 && f.feB == 0 && f.rsv == 0
  | .call _ f => f.ga == 0 && f.gb == 0 && f.feA == 0 && f.feB == 0 && f.rsv == 0
  | .ret _ f => f.off == 0 && f.gd == 0 && f.gb == 0 && f.feB == 0 && f.rsv == 0
  | .lrec _ f => f.rsv == 0
  | .loop _ f => fmtS f []
  | .lfor _ f => f.gd == 0 && f.gb == 0 && f.feB == 0 && f.rsv == 0
  | .lnext _ f => f.gd == 0 && f.ga == 0 && f.gb == 0 && f.feA == 0 && f.feB == 0 && f.rsv == 0
  | .lidx _ f => fmtS f [.gd, .imm] && f.imm.toNat < 6
  | .pfld _ f => fmtS f [.gd, .imm] && f.imm.toNat < 6
  | .pfldW _ f => fmtS f [.gd, .imm] && 8 ≤ f.imm.toNat && f.imm.toNat < 14
  | .halt _ f => fmtS f []
  | .trap _ f => fmtS f [.imm]
  | .nop _ f => fmtS f []
  | .sld _ f => f.size.toNat ≤ 6 && f.rsv == 0
  | .sst _ f => f.size.toNat ≤ 3 && f.rsv == 0
  | .crd _ f => fmtS f [.gd, .imm] && selector f.imm
  | .cwr _ f => fmtS f [.ga, .imm] && selector f.imm
  | .tmark _ f => fmtS f [.ga, .imm] && f.imm.toNat < 2 ^ 16
  | .lset _ f => f.gd == 0 && f.bn == 0 && f.side == 0 && f.rsv == 0
  | .lget _ f => f.ga == 0 && f.bn == 0 && f.side == 0 && f.fe == 0 && f.rsv == 0
  | .rinit _ f => f.lay == 0 && f.wd == 0 && f.gd == 0 && f.side == 0 && f.rsv == 0
  | .racq _ f => f.wd == 0 && f.ga == 0 && f.gd == 0 && f.fe == 0 && f.rsv == 0
  | .rrel _ f => f.lay == 0 && f.wd == 0 && f.ga == 0 && f.gd == 0 && f.fe == 0 && f.rsv == 0
  | .rrelComplete _ _ _ => true
  | .launch _ f => f.lay == 0 && f.wd == 0 && f.gd == 0 && f.bn == 0 && f.side == 0 && f.rsv == 0
  | .sems _ f => f.gd == 0 && f.rsv == 0
  | .semw _ f => f.gd == 0 && f.rsv == 0
  | .semr _ f => f.gn == 0 && f.imm == 0 && f.scope == 0 && f.fe == 0 && f.rsv == 0
  | .semsEngine e _ f => f.gd == 0 && f.fe == 0 && f.rsv == 0 && e != .S && e != .X
  | .semwEngine e _ f => f.gd == 0 && f.fe == 0 && f.rsv == 0 && e != .S && e != .X
  | .wpop _ f => fmtS f []
  | .cyc _ f => fmtS f [.gd, .imm] && f.imm.toNat < 8
  | .fence _ f => f.mask != 0 && f.rsv == 0
  | .fenceEngine e _ f => f.mask != 0 && f.rsv == 0 && (e == .L || e == .A || e == .W)
  | .xfence _ f => f.mask != 0 && f.rsv == 0
  | .ifence _ f => f.mask == 0 && f.rsv == 0
  | .drain _ f => f.mask == 0 && f.rsv == 0
  | .vadd _ f => fmtV3 f { types := tInt, b := true }
  | .vaddi _ f => vreg f.vd && vreg f.va && modifier f.moda && tInt.contains f.ty.toNat && f.rsv == 0
  | .vsub _ f => fmtV3 f { types := tInt, b := true }
  | .vadds _ f => fmtV3 f { types := tInt, b := true }
  | .vsubs _ f => fmtV3 f { types := tInt, b := true }
  | .vmul _ f => fmtV3 f { types := tMul, b := true }
  | .vmulh _ f => fmtV3 f { types := tMul, b := true }
  | .vmad _ f => fmtV3 f { types := tMul, b := true, c := true }
  | .vmin _ f => fmtV3 f { types := tInt, b := true }
  | .vmax _ f => fmtV3 f { types := tInt, b := true }
  | .vabs _ f => fmtV3 f { types := [0, 1, 2, 3] }
  | .vand _ f => fmtV3 f { types := tInt, b := true }
  | .vor _ f => fmtV3 f { types := tInt, b := true }
  | .vxor _ f => fmtV3 f { types := tInt, b := true }
  | .vandn _ f => fmtV3 f { types := tInt, b := true }
  | .vshl _ f => fmtV3 f { types := tInt, b := true }
  | .vshr _ f => fmtV3 f { types := tInt, b := true }
  | .vsar _ f => fmtV3 f { types := tInt, b := true }
  | .vclz _ f => fmtV3 f { types := tInt }
  | .vpopc _ f => fmtV3 f { types := tInt }
  | .vfadd _ f => fmtV3 f { types := tFloat, b := true, rnd := true }
  | .vfsub _ f => fmtV3 f { types := tFloat, b := true, rnd := true }
  | .vfmul _ f => fmtV3 f { types := tFloat, b := true, rnd := true }
  | .vfma _ f => fmtV3 f { types := tFloat, b := true, c := true, rnd := true }
  | .vfnma _ f => fmtV3 f { types := tFloat, b := true, c := true, rnd := true }
  | .vfmin _ f => fmtV3 f { types := tFloat, b := true }
  | .vfmax _ f => fmtV3 f { types := tFloat, b := true }
  | .vfabs _ f => fmtV3 f { types := tFloat }
  | .vfneg _ f => fmtV3 f { types := tFloat }
  | .vfrcp _ f => fmtV3 f { types := tFloat, rnd := true }
  | .vfrsq _ f => fmtV3 f { types := tFloat, rnd := true }
  | .vfsqrt _ f => fmtV3 f { types := tFloat, rnd := true }
  | .vfdiv _ f => fmtV3 f { types := tFloat, b := true, rnd := true }
  | .vfexp2 _ f => fmtV3 f { types := tFloat, rnd := true }
  | .vflog2 _ f => fmtV3 f { types := tFloat, rnd := true }
  | .vftanh _ f => fmtV3 f { types := tFloat, rnd := true }
  | .vfexpo _ f => fmtV3 f { types := tFloat }
  | .longLatencyComplete _ _ => true
  | .vcmp _ f => fmtVP f true true && [2, 3, 6, 7].contains f.ty.toNat && f.sel.toNat ≤ 5
  | .vcmpi _ f => f.rsvA == 0 && f.rsvB == 0 && vreg f.va && modifier f.moda && [2, 3, 6, 7].contains f.ty.toNat && f.cond.toNat ≤ 5
  | .vfcmp _ f => fmtVP f true true && f.ty.toNat == 10 && (f.sel.toNat ≤ 5 || f.sel.toNat == 10 || f.sel.toNat == 11)
  | .vfclass _ f => fmtVP f true false && f.modb == 0 && f.ty.toNat == 10
  | .vcvt _ f => fmtVC f && f.vb == 0 && f.modb == 0 && !f.fe.getLsbD 0 && f.dt.toNat ≤ 10 && f.st.toNat ≤ 10 &&
    (f.dt.toNat ≤ 7 || f.st.toNat ≤ 7) && !(f.dt.toNat ≤ 7 && 8 ≤ f.st.toNat && f.sat == 1) &&
    !(f.dt.toNat ≤ 7 && f.st.toNat ≤ 7 && f.rnd != 0)
  | .vfcvt _ f => fmtVC f && f.vb == 0 && f.modb == 0 && !f.fe.getLsbD 0 && 8 ≤ f.dt.toNat && f.dt.toNat ≤ 15 && 8 ≤ f.st.toNat && f.st.toNat ≤ 15
  | .vqnt _ f => fmtVC f && f.vb != f.vd && f.modb == 0 && !f.fe.getLsbD 0 && f.sat == 0 && 11 ≤ f.dt.toNat && f.dt.toNat ≤ 22 &&
    8 ≤ f.st.toNat && f.st.toNat ≤ 10
  | .vdqnt _ f => fmtVC f && 11 ≤ f.st.toNat && f.st.toNat ≤ 22 && 8 ≤ f.dt.toNat && f.dt.toNat ≤ 10
  | .vmov _ f => fmtV3 f { types := tAll }
  | .vbcst _ f => vreg f.vd && vreg f.va && modifier f.moda && !f.fe.getLsbD 1 && f.vc == 0 && !f.fe.getLsbD 0 && f.rnd == 0 &&
    2 ^ f.vb.toNat * typeWidth f.ty.toNat ≤ 32768 && f.modb.toNat < 2 ^ f.vb.toNat
  | .viota _ f => fmtV3 f { types := tInt, a := false }
  | .vperm _ f => fmtV3 f { types := [2, 3, 6, 7, 10], b := true }
  | .vrmrg _ f => fmtV3 f { types := [4], b := true, c := true }
  | .vsel _ f => vreg f.vd && vreg f.va && modifier f.moda && vreg f.vb && modifier f.modb && f.vc.toNat < 8 && !f.fe.getLsbD 0 && f.rnd == 0
  | .vtog _ f => f.vd.toNat < 64 && f.ty.toNat ≤ 10 && vreg f.va && modifier f.moda && f.vb == 0 && f.modb == 0 && f.vc == 0 &&
    !f.fe.getLsbD 1 && !f.fe.getLsbD 0 && f.rnd == 0
  | .vtogComplete _ _ => true
  | .vred _ f => fmtRed f false
  | .vfred _ f => fmtRed f true
  | .vscan _ f => fmtRed f false
  | .vfscan _ f => fmtRed f true
  | .vspcmp _ f => vreg f.vd && vreg f.va && modifier f.moda && vreg f.vb && f.vb != f.vd && f.modb == 0 && f.vc == 0 &&
    !f.fe.getLsbD 1 && !f.fe.getLsbD 0 && tPrune.contains f.ty.toNat && f.rnd == 0
  | .vspexp _ f => fmtV3 f { types := tPrune, b := true }
  | .vplog _ f => fmtVP f false false && f.ty == 0
  | .vpcnt _ f => fmtVP f true false && f.ty == 0 && f.modb.toNat % 256 == 0 && f.sel == 0
  | .vpfind _ f => fmtVP f false false && f.ty == 0 && f.modb.toNat % 256 == 0 && f.sel.toNat < 2
  | .vpmov _ f => fmtVP f true false && f.ty == 0 && f.modb == 0 && (f.sel.toNat < 32 || f.sel.toNat == 64)
  | .vld _ f => fmtVMrows f
  | .vldx _ f => vreg f.v && vreg f.aux
  | .vldb _ f => fmtVMrows f
  | .pld _ f => f.v.toNat < 8 && f.rows == 1 && f.aux == 0
  | .vfeed _ f => f.v == 0 && f.rows == 0
  | .scld _ f => f.v == 0 && f.rows == 0
  | .vst _ f => fmtVMrows f
  | .vstx _ f => vreg f.v && vreg f.aux
  | .pst _ f => f.v.toNat < 8 && f.rows == 1 && f.aux == 0
  | .vstc _ f => fmtVMrows f
  | .queuePush _ _ => true
  | .mzero _ f => f.rsvA == 0 && f.rsvB == 0 && f.rsvC == 0 && f.reg == 0 && f.mkb == 0 && f.kb == 0 && f.int == 0
  | .mma _ f => f.rsvA == 0 && f.rsvB == 0 && f.rsvC == 0 && f.reg == 0 && f.mkb == 0 && f.kb != 0
  | .mmas _ f => f.rsvA == 0 && f.rsvB == 0 && f.rsvC == 0 && vreg f.reg && f.kb != 0 && f.mkb.toNat + f.kb.toNat ≤ 16
  | .mmaStep _ => true
  | .mdrain _ f => f.rsvA == 0 && f.rsvB == 0 && f.rsvC == 0 && f.reg.toNat ≤ 188 && f.mkb == 0 && f.kb == 0 && f.int == 0
  | .mdrainRegisterFull _ _ => true
  | .mload _ f => f.rsvA == 0 && f.rsvB == 0 && f.rsvC == 0 && f.reg.toNat ≤ 188 && f.mkb == 0 && f.kb == 0 && f.int == 0
  | .xcopy _ f => fmtXsig f && f.var == 0 && f.sub.toNat ≤ 1
  | .xgath _ f => fmtXsig f && f.var.toNat % 8 == 0 && (f.var == 0 || f.sub == 0)
  | .xscat _ f => fmtXsig f && f.var.toNat % 8 == 0 && (f.var == 0 || f.sub == 0)
  | .xtran _ f => fmtXsig f && f.var == 0 && f.sub == 0
  | .xconv _ f => fmtXsig f && f.var.toNat ≤ 4 && f.sub == 0
  | .xmcst _ f => fmtXsig f && f.var == 0 && f.sub == 0
  | .xred _ f => fmtXsig f && f.var.toNat % 4 != 3 && f.sub.toNat ≤ 1
  | .xatom _ f => fmtXsig f && f.var.toNat ≤ 6 && f.sub.toNat ≤ 1
  | .xapnd _ f => fmtXsig f && f.dx == 0 && f.dy == 0 && f.var == 0 && f.sub == 0
  | .xsig _ f => f.sig == 1 && f.sl == 0 && f.sx == 0 && f.sy == 0 && f.dx == 0 && f.dy == 0 && f.var == 0 && f.sub == 0
  | .xwait _ f => f.sig == 0 && f.sl == 0 && f.dl == 0 && f.sx == 0 && f.sy == 0 && f.dx == 0 && f.dy == 0 && f.var == 0 && f.sub == 0
  | .xpref _ f => fmtXsig f && f.dl == 0 && f.dx == 0 && f.dy == 0 && f.var == 0 && f.sub.toNat ≤ 1
  | .xcomp _ f => fmtXsig f && f.dy == 0 && f.sub == 0 && (f.var.toNat / 4 == 3 || f.sy == 0)
  | .xmrg _ f => fmtXsig f && f.sl == 0 && f.sx == 0 && f.sy == 0 && f.dy == 0 && f.var == 0 && f.sub == 0
  | .xsnap _ f => fmtXsig f && f.dy == 0 && f.var == 0 && f.sub == 0
  | .xhdr _ f => fmtXsig f && f.sy == 0 && f.dy == 0 && f.cnt == 0 && f.var == 0 && f.sub == 0
  | .xtld _ f => fmtXsig f && f.dl == 0 && f.sy == 0 && f.dy == 0 && f.var == 0 && f.sub == 0
  | .xfst _ f => fmtXsig f && f.dy == 0 && f.var == 0 && f.sub == 0
  | .sectionForward _ => true
  | .sectionStart _ _ => true
  | .commandAccept _ => true
  | .elementPerform _ _ => true
  | .faultRecordEnter _ => true
  | .migrationRewalk _ => true
  | .commandRetire _ => true
  | .writeQueueOperation _ _ => true
  | .writeQueueDrain _ _ => true
  | .eccCorrected _ => true
  | .uncorrectableSoftError _ => true
  | .shootdownAck _ => true
  | .bar2Write _ _ _ => true
  | .bar2Read _ _ _ => true
  | .bar4Write _ _ _ _ => true
  | .bar4Read _ _ _ => true
  | .orderingPointRelease _ => true
  | .claim _ => true
  | .handover _ _ => true
  | .submit _ _ => true
  | .gangSubmit _ _ => true
  | .shootCtlStart _ _ => true
  | .shootCtlClearLost _ _ => true
  | .resumeRetry _ _ => true
  | .resumeFail _ _ => true
  | .resumeClearStray _ _ => true
  | .slotCtlResume _ _ _ => true
  | .slotCtlKill _ _ _ => true
  | .slotCtlPark _ _ _ => true
  | .ringCfgWrite _ _ _ => true
  | .ringHeadWrite _ _ _ => true
  | .lcReqReset _ _ => true
  | .lcReqAdvance _ _ => true
  | .lcStateTripClear _ _ => true
  | .attest _ _ => true
  | .pwrCap _ _ => true
  | .thresh _ _ _ => true
  | .perfCtl _ _ => true
  | .replayCtl _ _ => true
  | .quenchCtl _ _ => true
  | .temper _ _ => true
  | .blazeCtl _ _ => true
  | .controlWrite _ _ _ => true
  | .launchSlotFree _ => true
  | .listLaunchStart _ _ => true
  | .pointFire _ _ => true
  | .pointStart _ => true
  | .pointComplete _ => true
  | .clearing _ => true
  | .workListDeadlock _ => true
  | .contextSave _ => true
  | .contextRestore _ _ => true
  | .checkpointMark => true
  | .prepare _ => true
  | .ready _ _ => true
  | .refuse _ _ => true
  | .commit _ => true
  | .abort _ => true
  | .gangPrepareTimeout _ => true
  | .gangMemberLost _ _ => true
  | .mark _ => true
  | .marked _ _ => true
  | .gangResume _ => true
  | .blazeMarker _ _ => true
  | .quenchEdge => true
  | .temperRestart => true
  | .inflightWrite _ _ => true
  | .powerOn => true
  | .perst _ => true
  | .functionLevelReset _ => true
  | .clockStep => true
  | .thermalThrottle _ => true
  | .thermalTrip _ => true
  | .linkDown _ => true
  | .linkUp _ _ => true
  | .scheduleCycleTick => true
  | .powerOff => true
  | .wipeEnd => true
  | .thermalRelease => true
  | .attestationReport => true
  | .gangCompletion _ _ => true
  | .remotePageAccess _ _ _ _ => true
  | .completionTimeout _ _ => true

/-- Propositional form of `Instr.wf`. -/
abbrev WellFormed.Ok (i : Instr) : Prop := i.wf = true

end Sys2Proof
end

