-- ==== Sys2Proof/Decode.lean ====
section
/-! DEFINITION. The decoder and the encoder of code slots, written from Tables 03-1 to 03-11, 03-15 and 03-17 to 03-20. The
decoder is total: it answers the instruction, or the reason of R72 that the word takes the illegal-word fault. -/

namespace Sys2Proof

/-- The fields of format S (Table 03-11) at their bit positions. -/
def FmtS.ofBits (x : BitVec 66) : FmtS where
  gd := x.extractLsb' 60 6
  ga := x.extractLsb' 54 6
  gb := x.extractLsb' 48 6
  imm := x.extractLsb' 16 32
  feA := x.extractLsb' 15 1
  feB := x.extractLsb' 14 1
  cs := x.extractLsb' 9 5
  ct := x.extractLsb' 6 3
  cf := x.extractLsb' 3 3
  rsv := x.extractLsb' 0 3

/-- Format S (Table 03-11) laid out from the high bit down. -/
def FmtS.toBits (f : FmtS) : BitVec 66 :=
  f.gd ++ f.ga ++ f.gb ++ f.imm ++ f.feA ++ f.feB ++ f.cs ++ f.ct ++ f.cf ++ f.rsv

/-- The fields of format SM (Table 03-11) at their bit positions. -/
def FmtSM.ofBits (x : BitVec 66) : FmtSM where
  gd := x.extractLsb' 60 6
  ga := x.extractLsb' 54 6
  gb := x.extractLsb' 48 6
  lay := x.extractLsb' 40 8
  cls := x.extractLsb' 36 4
  imm := x.extractLsb' 16 20
  feA := x.extractLsb' 15 1
  feB := x.extractLsb' 14 1
  size := x.extractLsb' 9 5
  rsv := x.extractLsb' 0 9

/-- Format SM (Table 03-11) laid out from the high bit down. -/
def FmtSM.toBits (f : FmtSM) : BitVec 66 :=
  f.gd ++ f.ga ++ f.gb ++ f.lay ++ f.cls ++ f.imm ++ f.feA ++ f.feB ++ f.size ++ f.rsv

/-- The fields of format B (Table 03-11) at their bit positions. -/
def FmtB.ofBits (x : BitVec 66) : FmtB where
  off := x.extractLsb' 34 32
  gd := x.extractLsb' 28 6
  ga := x.extractLsb' 22 6
  gb := x.extractLsb' 16 6
  feA := x.extractLsb' 15 1
  feB := x.extractLsb' 14 1
  rsv := x.extractLsb' 0 14

/-- Format B (Table 03-11) laid out from the high bit down. -/
def FmtB.toBits (f : FmtB) : BitVec 66 :=
  f.off ++ f.gd ++ f.ga ++ f.gb ++ f.feA ++ f.feB ++ f.rsv

/-- The fields of format LREC (Table 03-11) at their bit positions. -/
def FmtLrec.ofBits (x : BitVec 66) : FmtLrec where
  pro := x.extractLsb' 50 16
  ker := x.extractLsb' 34 16
  epi := x.extractLsb' 18 16
  trip := x.extractLsb' 12 6
  stg := x.extractLsb' 9 3
  rsv := x.extractLsb' 0 9

/-- Format LREC (Table 03-11) laid out from the high bit down. -/
def FmtLrec.toBits (f : FmtLrec) : BitVec 66 :=
  f.pro ++ f.ker ++ f.epi ++ f.trip ++ f.stg ++ f.rsv

/-- The fields of format SY (Table 03-11) at their bit positions. -/
def FmtSY.ofBits (x : BitVec 66) : FmtSY where
  sem := x.extractLsb' 58 8
  gn := x.extractLsb' 52 6
  imm := x.extractLsb' 20 32
  scope := x.extractLsb' 18 2
  gd := x.extractLsb' 12 6
  fe := x.extractLsb' 11 1
  rsv := x.extractLsb' 0 11

/-- Format SY (Table 03-11) laid out from the high bit down. -/
def FmtSY.toBits (f : FmtSY) : BitVec 66 :=
  f.sem ++ f.gn ++ f.imm ++ f.scope ++ f.gd ++ f.fe ++ f.rsv

/-- The fields of format FN (Table 03-11) at their bit positions. -/
def FmtFN.ofBits (x : BitVec 66) : FmtFN where
  mask := x.extractLsb' 50 16
  rsv := x.extractLsb' 0 50

/-- Format FN (Table 03-11) laid out from the high bit down. -/
def FmtFN.toBits (f : FmtFN) : BitVec 66 :=
  f.mask ++ f.rsv

/-- The fields of format T (Table 03-11) at their bit positions. -/
def FmtT.ofBits (x : BitVec 66) : FmtT where
  lay := x.extractLsb' 58 8
  wd := x.extractLsb' 55 3
  ga := x.extractLsb' 49 6
  gd := x.extractLsb' 43 6
  bn := x.extractLsb' 39 4
  side := x.extractLsb' 38 1
  fe := x.extractLsb' 37 1
  rsv := x.extractLsb' 0 37

/-- Format T (Table 03-11) laid out from the high bit down. -/
def FmtT.toBits (f : FmtT) : BitVec 66 :=
  f.lay ++ f.wd ++ f.ga ++ f.gd ++ f.bn ++ f.side ++ f.fe ++ f.rsv

/-- The fields of format V3 (Table 03-2) at their bit positions. -/
def FmtV3.ofBits (x : BitVec 66) : FmtV3 where
  vd := x.extractLsb' 58 8
  va := x.extractLsb' 50 8
  moda := x.extractLsb' 38 12
  vb := x.extractLsb' 30 8
  modb := x.extractLsb' 18 12
  vc := x.extractLsb' 10 8
  fe := x.extractLsb' 7 3
  ty := x.extractLsb' 3 4
  rnd := x.extractLsb' 0 3

/-- Format V3 (Table 03-2) laid out from the high bit down. -/
def FmtV3.toBits (f : FmtV3) : BitVec 66 :=
  f.vd ++ f.va ++ f.moda ++ f.vb ++ f.modb ++ f.vc ++ f.fe ++ f.ty ++ f.rnd

/-- The fields of format VI (Table 03-3) at their bit positions. -/
def FmtVI.ofBits (x : BitVec 66) : FmtVI where
  vd := x.extractLsb' 58 8
  va := x.extractLsb' 50 8
  moda := x.extractLsb' 38 12
  imm := x.extractLsb' 6 32
  fe := x.extractLsb' 5 1
  ty := x.extractLsb' 1 4
  rsv := x.extractLsb' 0 1

/-- Format VI (Table 03-3) laid out from the high bit down. -/
def FmtVI.toBits (f : FmtVI) : BitVec 66 :=
  f.vd ++ f.va ++ f.moda ++ f.imm ++ f.fe ++ f.ty ++ f.rsv

/-- The fields of format VP (Table 03-4) at their bit positions. -/
def FmtVP.ofBits (x : BitVec 66) : FmtVP where
  pt := x.extractLsb' 63 3
  pf := x.extractLsb' 60 3
  z := x.extractLsb' 59 1
  rsvA := x.extractLsb' 58 1
  va := x.extractLsb' 50 8
  moda := x.extractLsb' 38 12
  vb := x.extractLsb' 30 8
  modb := x.extractLsb' 18 12
  sel := x.extractLsb' 10 8
  fe := x.extractLsb' 8 2
  rsvB := x.extractLsb' 7 1
  ty := x.extractLsb' 3 4
  rsvC := x.extractLsb' 0 3

/-- Format VP (Table 03-4) laid out from the high bit down. -/
def FmtVP.toBits (f : FmtVP) : BitVec 66 :=
  f.pt ++ f.pf ++ f.z ++ f.rsvA ++ f.va ++ f.moda ++ f.vb ++ f.modb ++ f.sel ++ f.fe ++ f.rsvB ++ f.ty ++ f.rsvC

/-- The fields of format VPI (below Table 03-4) at their bit positions. -/
def FmtVPI.ofBits (x : BitVec 66) : FmtVPI where
  pt := x.extractLsb' 63 3
  pf := x.extractLsb' 60 3
  z := x.extractLsb' 59 1
  rsvA := x.extractLsb' 58 1
  va := x.extractLsb' 50 8
  moda := x.extractLsb' 38 12
  imm := x.extractLsb' 10 28
  cond := x.extractLsb' 6 4
  fe := x.extractLsb' 5 1
  ty := x.extractLsb' 1 4
  rsvB := x.extractLsb' 0 1

/-- Format VPI (below Table 03-4) laid out from the high bit down. -/
def FmtVPI.toBits (f : FmtVPI) : BitVec 66 :=
  f.pt ++ f.pf ++ f.z ++ f.rsvA ++ f.va ++ f.moda ++ f.imm ++ f.cond ++ f.fe ++ f.ty ++ f.rsvB

/-- The fields of format VC (Table 03-5) at their bit positions. -/
def FmtVC.ofBits (x : BitVec 66) : FmtVC where
  vd := x.extractLsb' 58 8
  va := x.extractLsb' 50 8
  moda := x.extractLsb' 38 12
  vb := x.extractLsb' 30 8
  modb := x.extractLsb' 18 12
  dt := x.extractLsb' 13 5
  sat := x.extractLsb' 12 1
  rsv := x.extractLsb' 10 2
  fe := x.extractLsb' 8 2
  st := x.extractLsb' 3 5
  rnd := x.extractLsb' 0 3

/-- Format VC (Table 03-5) laid out from the high bit down. -/
def FmtVC.toBits (f : FmtVC) : BitVec 66 :=
  f.vd ++ f.va ++ f.moda ++ f.vb ++ f.modb ++ f.dt ++ f.sat ++ f.rsv ++ f.fe ++ f.st ++ f.rnd

/-- The fields of format VM (Table 03-8) at their bit positions. -/
def FmtVM.ofBits (x : BitVec 66) : FmtVM where
  v := x.extractLsb' 58 8
  lay := x.extractLsb' 50 8
  gx := x.extractLsb' 44 6
  gy := x.extractLsb' 38 6
  gz := x.extractLsb' 32 6
  imm := x.extractLsb' 16 16
  cls := x.extractLsb' 12 4
  rows := x.extractLsb' 8 4
  aux := x.extractLsb' 0 8

/-- Format VM (Table 03-8) laid out from the high bit down. -/
def FmtVM.toBits (f : FmtVM) : BitVec 66 :=
  f.v ++ f.lay ++ f.gx ++ f.gy ++ f.gz ++ f.imm ++ f.cls ++ f.rows ++ f.aux

/-- The fields of format MX (Table 03-9) at their bit positions. -/
def FmtMX.ofBits (x : BitVec 66) : FmtMX where
  acc := x.extractLsb' 64 2
  rsvA := x.extractLsb' 62 2
  reg := x.extractLsb' 54 8
  mkb := x.extractLsb' 50 4
  kb := x.extractLsb' 34 16
  rsvB := x.extractLsb' 30 4
  int := x.extractLsb' 29 1
  rsvC := x.extractLsb' 0 29

/-- Format MX (Table 03-9) laid out from the high bit down. -/
def FmtMX.toBits (f : FmtMX) : BitVec 66 :=
  f.acc ++ f.rsvA ++ f.reg ++ f.mkb ++ f.kb ++ f.rsvB ++ f.int ++ f.rsvC

/-- The fields of format XC (Table 03-10) at their bit positions. -/
def FmtXC.ofBits (x : BitVec 66) : FmtXC where
  sl := x.extractLsb' 58 8
  dl := x.extractLsb' 50 8
  sx := x.extractLsb' 44 6
  sy := x.extractLsb' 38 6
  dx := x.extractLsb' 32 6
  dy := x.extractLsb' 26 6
  cnt := x.extractLsb' 20 6
  sem := x.extractLsb' 12 8
  scope := x.extractLsb' 10 2
  var := x.extractLsb' 6 4
  sig := x.extractLsb' 5 1
  sub := x.extractLsb' 0 5

/-- Format XC (Table 03-10) laid out from the high bit down. -/
def FmtXC.toBits (f : FmtXC) : BitVec 66 :=
  f.sl ++ f.dl ++ f.sx ++ f.sy ++ f.dx ++ f.dy ++ f.cnt ++ f.sem ++ f.scope ++ f.var ++ f.sig ++ f.sub

/-- The guard fields [85:66] of a word (Table 03-1). -/
def Guard.ofSlot (w : Slot) : Guard where
  tt := w.extractLsb' 78 8
  ga := w.extractLsb' 74 4
  gb := w.extractLsb' 70 4
  gc := w.extractLsb' 66 4

/-- A word from its class, function code, guard and operand bits (Table 03-1). -/
def wordOf (cls : BitVec 3) (fn : BitVec 7) (g : Guard) (x : BitVec 66) : Slot :=
  cls ++ fn ++ g.tt ++ g.ga ++ g.gb ++ g.gc ++ x

/-- Why a slot read as an instruction is no instruction (Table 03-16). -/
inductive DecodeError where
  /-- E is 6 or 7. -/
  | noClass
  /-- F is 0 or unassigned in its class. -/
  | unassigned
  /-- A reserved field is nonzero, or a register, modifier, type, condition, size, rounding or count field is illegal. -/
  | badBits
  deriving DecidableEq, Repr

/-- The function codes of class 0 (Table 03-17). -/
def decodeClassS (fn : Nat) (g : Guard) (x : BitVec 66) : Option Instr :=
  match fn with
  | 0x01 => some (.add g (.ofBits x))
  | 0x02 => some (.addi g (.ofBits x))
  | 0x03 => some (.sub g (.ofBits x))
  | 0x04 => some (.mul g (.ofBits x))
  | 0x05 => some (.muli g (.ofBits x))
  | 0x06 => some (.mulh g (.ofBits x))
  | 0x07 => some (.mulhn g (.ofBits x))
  | 0x08 => some (.div g (.ofBits x))
  | 0x09 => some (.divn g (.ofBits x))
  | 0x0A => some (.rem g (.ofBits x))
  | 0x0B => some (.remn g (.ofBits x))
  | 0x0C => some (.and g (.ofBits x))
  | 0x0D => some (.andi g (.ofBits x))
  | 0x0E => some (.or g (.ofBits x))
  | 0x0F => some (.ori g (.ofBits x))
  | 0x10 => some (.xor g (.ofBits x))
  | 0x11 => some (.xori g (.ofBits x))
  | 0x12 => some (.andn g (.ofBits x))
  | 0x13 => some (.shl g (.ofBits x))
  | 0x14 => some (.shli g (.ofBits x))
  | 0x15 => some (.shr g (.ofBits x))
  | 0x16 => some (.shri g (.ofBits x))
  | 0x17 => some (.sar g (.ofBits x))
  | 0x18 => some (.sari g (.ofBits x))
  | 0x19 => some (.rol g (.ofBits x))
  | 0x1A => some (.roli g (.ofBits x))
  | 0x1B => some (.min g (.ofBits x))
  | 0x1C => some (.minn g (.ofBits x))
  | 0x1D => some (.max g (.ofBits x))
  | 0x1E => some (.maxn g (.ofBits x))
  | 0x1F => some (.clz g (.ofBits x))
  | 0x20 => some (.ctz g (.ofBits x))
  | 0x21 => some (.popc g (.ofBits x))
  | 0x22 => some (.bfx g (.ofBits x))
  | 0x23 => some (.bfi g (.ofBits x))
  | 0x24 => some (.sel g (.ofBits x))
  | 0x25 => some (.movi g (.ofBits x))
  | 0x26 => some (.movhi g (.ofBits x))
  | 0x28 => some (.cmp g (.ofBits x))
  | 0x29 => some (.cmpi g (.ofBits x))
  | 0x2A => some (.plog g (.ofBits x))
  | 0x2B => if x.getLsbD 16 then some (.pmovUnpack g (.ofBits x)) else some (.pmovPack g (.ofBits x))
  | 0x30 => some (.br g (.ofBits x))
  | 0x31 => some (.brx g (.ofBits x))
  | 0x32 => some (.call g (.ofBits x))
  | 0x33 => some (.ret g (.ofBits x))
  | 0x34 => some (.lrec g (.ofBits x))
  | 0x35 => some (.loop g (.ofBits x))
  | 0x36 => some (.lfor g (.ofBits x))
  | 0x37 => some (.lnext g (.ofBits x))
  | 0x38 => some (.lidx g (.ofBits x))
  | 0x39 => if x.getLsbD 19 then some (.pfldW g (.ofBits x)) else some (.pfld g (.ofBits x))
  | 0x3A => some (.halt g (.ofBits x))
  | 0x3B => some (.trap g (.ofBits x))
  | 0x3C => some (.nop g (.ofBits x))
  | 0x40 => some (.sld g (.ofBits x))
  | 0x41 => some (.sst g (.ofBits x))
  | 0x48 => some (.lset g (.ofBits x))
  | 0x49 => some (.lget g (.ofBits x))
  | 0x4A => some (.rinit g (.ofBits x))
  | 0x4B => some (.racq g (.ofBits x))
  | 0x4C => some (.rrel g (.ofBits x))
  | 0x4D => some (.launch g (.ofBits x))
  | 0x50 => some (.sems g (.ofBits x))
  | 0x51 => some (.semw g (.ofBits x))
  | 0x52 => some (.semr g (.ofBits x))
  | 0x53 => some (.wpop g (.ofBits x))
  | 0x54 => some (.cyc g (.ofBits x))
  | 0x58 => some (.fence g (.ofBits x))
  | 0x59 => some (.xfence g (.ofBits x))
  | 0x5A => some (.ifence g (.ofBits x))
  | 0x5B => some (.drain g (.ofBits x))
  | 0x60 => some (.crd g (.ofBits x))
  | 0x61 => some (.cwr g (.ofBits x))
  | 0x62 => some (.tmark g (.ofBits x))
  | _ => none

/-- The function codes of class 1 (Table 03-18). -/
def decodeClassL (fn : Nat) (g : Guard) (x : BitVec 66) : Option Instr :=
  match fn with
  | 0x01 => some (.vld g (.ofBits x))
  | 0x02 => some (.vldx g (.ofBits x))
  | 0x03 => some (.vldb g (.ofBits x))
  | 0x04 => some (.pld g (.ofBits x))
  | 0x05 => some (.vfeed g (.ofBits x))
  | 0x06 => some (.scld g (.ofBits x))
  | 0x70 => some (.semwEngine .L g (.ofBits x))
  | 0x71 => some (.semsEngine .L g (.ofBits x))
  | 0x78 => some (.fenceEngine .L g (.ofBits x))
  | _ => none

/-- The function codes of class 2 (Table 03-19). -/
def decodeClassA (fn : Nat) (g : Guard) (x : BitVec 66) : Option Instr :=
  match fn with
  | 0x01 => some (.vadd g (.ofBits x))
  | 0x02 => some (.vaddi g (.ofBits x))
  | 0x03 => some (.vsub g (.ofBits x))
  | 0x04 => some (.vadds g (.ofBits x))
  | 0x05 => some (.vsubs g (.ofBits x))
  | 0x06 => some (.vmul g (.ofBits x))
  | 0x07 => some (.vmulh g (.ofBits x))
  | 0x08 => some (.vmad g (.ofBits x))
  | 0x09 => some (.vmin g (.ofBits x))
  | 0x0A => some (.vmax g (.ofBits x))
  | 0x0B => some (.vabs g (.ofBits x))
  | 0x0C => some (.vand g (.ofBits x))
  | 0x0D => some (.vor g (.ofBits x))
  | 0x0E => some (.vxor g (.ofBits x))
  | 0x0F => some (.vandn g (.ofBits x))
  | 0x10 => some (.vshl g (.ofBits x))
  | 0x11 => some (.vshr g (.ofBits x))
  | 0x12 => some (.vsar g (.ofBits x))
  | 0x13 => some (.vclz g (.ofBits x))
  | 0x14 => some (.vpopc g (.ofBits x))
  | 0x20 => some (.vfadd g (.ofBits x))
  | 0x21 => some (.vfsub g (.ofBits x))
  | 0x22 => some (.vfmul g (.ofBits x))
  | 0x23 => some (.vfma g (.ofBits x))
  | 0x24 => some (.vfnma g (.ofBits x))
  | 0x25 => some (.vfmin g (.ofBits x))
  | 0x26 => some (.vfmax g (.ofBits x))
  | 0x27 => some (.vfabs g (.ofBits x))
  | 0x28 => some (.vfneg g (.ofBits x))
  | 0x29 => some (.vfrcp g (.ofBits x))
  | 0x2A => some (.vfrsq g (.ofBits x))
  | 0x2B => some (.vfsqrt g (.ofBits x))
  | 0x2C => some (.vfdiv g (.ofBits x))
  | 0x2D => some (.vfexp2 g (.ofBits x))
  | 0x2E => some (.vflog2 g (.ofBits x))
  | 0x2F => some (.vftanh g (.ofBits x))
  | 0x30 => some (.vfexpo g (.ofBits x))
  | 0x38 => some (.vcmp g (.ofBits x))
  | 0x39 => some (.vcmpi g (.ofBits x))
  | 0x3A => some (.vfcmp g (.ofBits x))
  | 0x3B => some (.vfclass g (.ofBits x))
  | 0x40 => some (.vcvt g (.ofBits x))
  | 0x41 => some (.vfcvt g (.ofBits x))
  | 0x42 => some (.vqnt g (.ofBits x))
  | 0x43 => some (.vdqnt g (.ofBits x))
  | 0x48 => some (.vmov g (.ofBits x))
  | 0x49 => some (.vbcst g (.ofBits x))
  | 0x4A => some (.viota g (.ofBits x))
  | 0x4B => some (.vperm g (.ofBits x))
  | 0x4C => some (.vrmrg g (.ofBits x))
  | 0x4D => some (.vsel g (.ofBits x))
  | 0x4E => some (.vtog g (.ofBits x))
  | 0x50 => some (.vred g (.ofBits x))
  | 0x51 => some (.vfred g (.ofBits x))
  | 0x52 => some (.vscan g (.ofBits x))
  | 0x53 => some (.vfscan g (.ofBits x))
  | 0x58 => some (.vspcmp g (.ofBits x))
  | 0x59 => some (.vspexp g (.ofBits x))
  | 0x60 => some (.vplog g (.ofBits x))
  | 0x61 => some (.vpcnt g (.ofBits x))
  | 0x62 => some (.vpfind g (.ofBits x))
  | 0x63 => some (.vpmov g (.ofBits x))
  | 0x70 => some (.semwEngine .A g (.ofBits x))
  | 0x71 => some (.semsEngine .A g (.ofBits x))
  | 0x78 => some (.fenceEngine .A g (.ofBits x))
  | _ => none

/-- The function codes of class 3 (Table 03-18). -/
def decodeClassW (fn : Nat) (g : Guard) (x : BitVec 66) : Option Instr :=
  match fn with
  | 0x01 => some (.vst g (.ofBits x))
  | 0x02 => some (.vstx g (.ofBits x))
  | 0x03 => some (.pst g (.ofBits x))
  | 0x04 => some (.vstc g (.ofBits x))
  | 0x70 => some (.semwEngine .W g (.ofBits x))
  | 0x71 => some (.semsEngine .W g (.ofBits x))
  | 0x78 => some (.fenceEngine .W g (.ofBits x))
  | _ => none

/-- The function codes of class 4 (Table 03-20). -/
def decodeClassM (fn : Nat) (g : Guard) (x : BitVec 66) : Option Instr :=
  match fn with
  | 0x01 => some (.mzero g (.ofBits x))
  | 0x02 => some (.mma g (.ofBits x))
  | 0x03 => some (.mmas g (.ofBits x))
  | 0x04 => some (.mdrain g (.ofBits x))
  | 0x05 => some (.mload g (.ofBits x))
  | 0x70 => some (.semwEngine .M g (.ofBits x))
  | 0x71 => some (.semsEngine .M g (.ofBits x))
  | _ => none

/-- The function codes of class 5 (Table 03-20). -/
def decodeClassX (fn : Nat) (g : Guard) (x : BitVec 66) : Option Instr :=
  match fn with
  | 0x01 => some (.xcopy g (.ofBits x))
  | 0x02 => some (.xgath g (.ofBits x))
  | 0x03 => some (.xscat g (.ofBits x))
  | 0x04 => some (.xtran g (.ofBits x))
  | 0x05 => some (.xconv g (.ofBits x))
  | 0x06 => some (.xmcst g (.ofBits x))
  | 0x07 => some (.xred g (.ofBits x))
  | 0x08 => some (.xatom g (.ofBits x))
  | 0x09 => some (.xapnd g (.ofBits x))
  | 0x0A => some (.xsig g (.ofBits x))
  | 0x0B => some (.xwait g (.ofBits x))
  | 0x0C => some (.xpref g (.ofBits x))
  | 0x10 => some (.xcomp g (.ofBits x))
  | 0x11 => some (.xmrg g (.ofBits x))
  | 0x12 => some (.xsnap g (.ofBits x))
  | 0x13 => some (.xhdr g (.ofBits x))
  | 0x18 => some (.xtld g (.ofBits x))
  | 0x19 => some (.xfst g (.ofBits x))
  | _ => none

/-- The word's class and function code before its other bits are checked: `none` where E or F is not assigned. -/
def decodeRaw (w : Slot) : Option Instr :=
  let fn := (w.extractLsb' 86 7).toNat
  let g := Guard.ofSlot w
  let x := w.extractLsb' 0 66
  match (w.extractLsb' 93 3).toNat with
  | 0 => decodeClassS fn g x
  | 1 => decodeClassL fn g x
  | 2 => decodeClassA fn g x
  | 3 => decodeClassW fn g x
  | 4 => decodeClassM fn g x
  | 5 => decodeClassX fn g x
  | _ => none

/-- The decoder: total on every slot, rejecting by name (R72). -/
def decode (w : Slot) : Except DecodeError Instr :=
  if 6 ≤ (w.extractLsb' 93 3).toNat then .error .noClass
  else
    match decodeRaw w with
    | none => .error .unassigned
    | some i => if i.wf then .ok i else .error .badBits

/-- The class field E of a slot (R47). -/
def slotClass (w : Slot) : Nat := (w.extractLsb' 93 3).toNat

/-- A slot from its bytes, byte 0 holding bits [7:0] (R46). -/
def slotOfBytes : List Byte → Slot
  | [] => 0
  | b :: bs => b.setWidth 96 ||| (slotOfBytes bs <<< 8)

/-- The twelve bytes of a slot, little-endian (R46). -/
def bytesOfSlot (w : Slot) : List Byte :=
  (List.range 12).map fun k => w.extractLsb' (8 * k) 8

/-- The instruction the decoder reads from a slot numbered as the table numbers its bits: the slot is laid out as its twelve
bytes and read back as the fetch reads it. A slot is 96 bits whatever the row's width. -/
def decodeTableWord (_nbits w : Nat) : Option Instr :=
  match decode (slotOfBytes (bytesOfSlot (BitVec.ofNat 96 w))) with
  | .ok i => some i
  | .error _ => none

/-- A section header (Table 03-15). -/
structure Header where
  eng : BitVec 3
  num : BitVec 8
  len : BitVec 10
  dep1 : BitVec 8
  dep2 : BitVec 8
  dep3 : BitVec 8
  dep4 : BitVec 8
  dep5 : BitVec 8
  rsv : BitVec 2
  gfence : BitVec 1
  deriving DecidableEq, Repr

/-- The fields of a header at their bit positions. -/
def Header.ofBits (x : BitVec 64) : Header where
  eng := x.extractLsb' 61 3
  num := x.extractLsb' 53 8
  len := x.extractLsb' 43 10
  dep1 := x.extractLsb' 35 8
  dep2 := x.extractLsb' 27 8
  dep3 := x.extractLsb' 19 8
  dep4 := x.extractLsb' 11 8
  dep5 := x.extractLsb' 3 8
  rsv := x.extractLsb' 1 2
  gfence := x.extractLsb' 0 1

/-- A header laid out from the high bit down. -/
def Header.toBits (h : Header) : BitVec 64 :=
  h.eng ++ h.num ++ h.len ++ h.dep1 ++ h.dep2 ++ h.dep3 ++ h.dep4 ++ h.dep5 ++ h.rsv ++ h.gfence

/-- The slot of a header: class 7, bits [92:64] zero (R67). -/
def Header.toSlot (h : Header) : Slot := (0xE0000000 : BitVec 32) ++ h.toBits

/-- A slot read as a header. The error is the case number of the header fault in TRAP_DATA (cause 0x03 of Table 19-1): 5 no
header, 1 engine, 2 number, 3 length, 4 reserved bits; the first that holds in that order (log 21). -/
def decodeHeader (w : Slot) : Except Nat Header :=
  let h := Header.ofBits (w.extractLsb' 0 64)
  if w.extractLsb' 64 32 != 0xE0000000 then .error 5
  else if 6 ≤ h.eng.toNat then .error 1
  else if h.num == 255 then .error 2
  else if h.len == 0 then .error 3
  else if h.rsv != 0 then .error 4
  else .ok h

/-- The dependences of a header as (engine, number), in the order S, L, A, W, M, X with the section's own engine left out;
255 is no dependence (R67). -/
def Header.deps (h : Header) (own : Engine) : List (Engine × Nat) :=
  (([Engine.S, .L, .A, .W, .M, .X].filter (· != own)).zip [h.dep1, h.dep2, h.dep3, h.dep4, h.dep5]).filterMap
    fun (e, n) => if n == 255 then none else some (e, n.toNat)

/-- The encoder: the slot of an instruction word, from the same tables; an event has none. -/
def encode : Instr → Option Slot
  | .add g f => some (wordOf 0 0x01 g f.toBits)
  | .addi g f => some (wordOf 0 0x02 g f.toBits)
  | .sub g f => some (wordOf 0 0x03 g f.toBits)
  | .mul g f => some (wordOf 0 0x04 g f.toBits)
  | .muli g f => some (wordOf 0 0x05 g f.toBits)
  | .mulh g f => some (wordOf 0 0x06 g f.toBits)
  | .mulhn g f => some (wordOf 0 0x07 g f.toBits)
  | .div g f => some (wordOf 0 0x08 g f.toBits)
  | .divn g f => some (wordOf 0 0x09 g f.toBits)
  | .rem g f => some (wordOf 0 0x0A g f.toBits)
  | .remn g f => some (wordOf 0 0x0B g f.toBits)
  | .and g f => some (wordOf 0 0x0C g f.toBits)
  | .andi g f => some (wordOf 0 0x0D g f.toBits)
  | .or g f => some (wordOf 0 0x0E g f.toBits)
  | .ori g f => some (wordOf 0 0x0F g f.toBits)
  | .xor g f => some (wordOf 0 0x10 g f.toBits)
  | .xori g f => some (wordOf 0 0x11 g f.toBits)
  | .andn g f => some (wordOf 0 0x12 g f.toBits)
  | .shl g f => some (wordOf 0 0x13 g f.toBits)
  | .shli g f => some (wordOf 0 0x14 g f.toBits)
  | .shr g f => some (wordOf 0 0x15 g f.toBits)
  | .shri g f => some (wordOf 0 0x16 g f.toBits)
  | .sar g f => some (wordOf 0 0x17 g f.toBits)
  | .sari g f => some (wordOf 0 0x18 g f.toBits)
  | .rol g f => some (wordOf 0 0x19 g f.toBits)
  | .roli g f => some (wordOf 0 0x1A g f.toBits)
  | .min g f => some (wordOf 0 0x1B g f.toBits)
  | .minn g f => some (wordOf 0 0x1C g f.toBits)
  | .max g f => some (wordOf 0 0x1D g f.toBits)
  | .maxn g f => some (wordOf 0 0x1E g f.toBits)
  | .clz g f => some (wordOf 0 0x1F g f.toBits)
  | .ctz g f => some (wordOf 0 0x20 g f.toBits)
  | .popc g f => some (wordOf 0 0x21 g f.toBits)
  | .bfx g f => some (wordOf 0 0x22 g f.toBits)
  | .bfi g f => some (wordOf 0 0x23 g f.toBits)
  | .sel g f => some (wordOf 0 0x24 g f.toBits)
  | .movi g f => some (wordOf 0 0x25 g f.toBits)
  | .movhi g f => some (wordOf 0 0x26 g f.toBits)
  | .cmp g f => some (wordOf 0 0x28 g f.toBits)
  | .cmpi g f => some (wordOf 0 0x29 g f.toBits)
  | .plog g f => some (wordOf 0 0x2A g f.toBits)
  | .pmovPack g f => some (wordOf 0 0x2B g f.toBits)
  | .pmovUnpack g f => some (wordOf 0 0x2B g f.toBits)
  | .br g f => some (wordOf 0 0x30 g f.toBits)
  | .brx g f => some (wordOf 0 0x31 g f.toBits)
  | .call g f => some (wordOf 0 0x32 g f.toBits)
  | .ret g f => some (wordOf 0 0x33 g f.toBits)
  | .lrec g f => some (wordOf 0 0x34 g f.toBits)
  | .loop g f => some (wordOf 0 0x35 g f.toBits)
  | .lfor g f => some (wordOf 0 0x36 g f.toBits)
  | .lnext g f => some (wordOf 0 0x37 g f.toBits)
  | .lidx g f => some (wordOf 0 0x38 g f.toBits)
  | .pfld g f => some (wordOf 0 0x39 g f.toBits)
  | .pfldW g f => some (wordOf 0 0x39 g f.toBits)
  | .halt g f => some (wordOf 0 0x3A g f.toBits)
  | .trap g f => some (wordOf 0 0x3B g f.toBits)
  | .nop g f => some (wordOf 0 0x3C g f.toBits)
  | .sld g f => some (wordOf 0 0x40 g f.toBits)
  | .sst g f => some (wordOf 0 0x41 g f.toBits)
  | .crd g f => some (wordOf 0 0x60 g f.toBits)
  | .cwr g f => some (wordOf 0 0x61 g f.toBits)
  | .tmark g f => some (wordOf 0 0x62 g f.toBits)
  | .lset g f => some (wordOf 0 0x48 g f.toBits)
  | .lget g f => some (wordOf 0 0x49 g f.toBits)
  | .rinit g f => some (wordOf 0 0x4A g f.toBits)
  | .racq g f => some (wordOf 0 0x4B g f.toBits)
  | .rrel g f => some (wordOf 0 0x4C g f.toBits)
  | .rrelComplete _ _ _ => none
  | .launch g f => some (wordOf 0 0x4D g f.toBits)
  | .sems g f => some (wordOf 0 0x50 g f.toBits)
  | .semw g f => some (wordOf 0 0x51 g f.toBits)
  | .semr g f => some (wordOf 0 0x52 g f.toBits)
  | .semsEngine e g f => some (wordOf (BitVec.ofNat 3 e.code) 0x71 g f.toBits)
  | .semwEngine e g f => some (wordOf (BitVec.ofNat 3 e.code) 0x70 g f.toBits)
  | .wpop g f => some (wordOf 0 0x53 g f.toBits)
  | .cyc g f => some (wordOf 0 0x54 g f.toBits)
  | .fence g f => some (wordOf 0 0x58 g f.toBits)
  | .fenceEngine e g f => some (wordOf (BitVec.ofNat 3 e.code) 0x78 g f.toBits)
  | .xfence g f => some (wordOf 0 0x59 g f.toBits)
  | .ifence g f => some (wordOf 0 0x5A g f.toBits)
  | .drain g f => some (wordOf 0 0x5B g f.toBits)
  | .vadd g f => some (wordOf 2 0x01 g f.toBits)
  | .vaddi g f => some (wordOf 2 0x02 g f.toBits)
  | .vsub g f => some (wordOf 2 0x03 g f.toBits)
  | .vadds g f => some (wordOf 2 0x04 g f.toBits)
  | .vsubs g f => some (wordOf 2 0x05 g f.toBits)
  | .vmul g f => some (wordOf 2 0x06 g f.toBits)
  | .vmulh g f => some (wordOf 2 0x07 g f.toBits)
  | .vmad g f => some (wordOf 2 0x08 g f.toBits)
  | .vmin g f => some (wordOf 2 0x09 g f.toBits)
  | .vmax g f => some (wordOf 2 0x0A g f.toBits)
  | .vabs g f => some (wordOf 2 0x0B g f.toBits)
  | .vand g f => some (wordOf 2 0x0C g f.toBits)
  | .vor g f => some (wordOf 2 0x0D g f.toBits)
  | .vxor g f => some (wordOf 2 0x0E g f.toBits)
  | .vandn g f => some (wordOf 2 0x0F g f.toBits)
  | .vshl g f => some (wordOf 2 0x10 g f.toBits)
  | .vshr g f => some (wordOf 2 0x11 g f.toBits)
  | .vsar g f => some (wordOf 2 0x12 g f.toBits)
  | .vclz g f => some (wordOf 2 0x13 g f.toBits)
  | .vpopc g f => some (wordOf 2 0x14 g f.toBits)
  | .vfadd g f => some (wordOf 2 0x20 g f.toBits)
  | .vfsub g f => some (wordOf 2 0x21 g f.toBits)
  | .vfmul g f => some (wordOf 2 0x22 g f.toBits)
  | .vfma g f => some (wordOf 2 0x23 g f.toBits)
  | .vfnma g f => some (wordOf 2 0x24 g f.toBits)
  | .vfmin g f => some (wordOf 2 0x25 g f.toBits)
  | .vfmax g f => some (wordOf 2 0x26 g f.toBits)
  | .vfabs g f => some (wordOf 2 0x27 g f.toBits)
  | .vfneg g f => some (wordOf 2 0x28 g f.toBits)
  | .vfrcp g f => some (wordOf 2 0x29 g f.toBits)
  | .vfrsq g f => some (wordOf 2 0x2A g f.toBits)
  | .vfsqrt g f => some (wordOf 2 0x2B g f.toBits)
  | .vfdiv g f => some (wordOf 2 0x2C g f.toBits)
  | .vfexp2 g f => some (wordOf 2 0x2D g f.toBits)
  | .vflog2 g f => some (wordOf 2 0x2E g f.toBits)
  | .vftanh g f => some (wordOf 2 0x2F g f.toBits)
  | .vfexpo g f => some (wordOf 2 0x30 g f.toBits)
  | .longLatencyComplete _ _ => none
  | .vcmp g f => some (wordOf 2 0x38 g f.toBits)
  | .vcmpi g f => some (wordOf 2 0x39 g f.toBits)
  | .vfcmp g f => some (wordOf 2 0x3A g f.toBits)
  | .vfclass g f => some (wordOf 2 0x3B g f.toBits)
  | .vcvt g f => some (wordOf 2 0x40 g f.toBits)
  | .vfcvt g f => some (wordOf 2 0x41 g f.toBits)
  | .vqnt g f => some (wordOf 2 0x42 g f.toBits)
  | .vdqnt g f => some (wordOf 2 0x43 g f.toBits)
  | .vmov g f => some (wordOf 2 0x48 g f.toBits)
  | .vbcst g f => some (wordOf 2 0x49 g f.toBits)
  | .viota g f => some (wordOf 2 0x4A g f.toBits)
  | .vperm g f => some (wordOf 2 0x4B g f.toBits)
  | .vrmrg g f => some (wordOf 2 0x4C g f.toBits)
  | .vsel g f => some (wordOf 2 0x4D g f.toBits)
  | .vtog g f => some (wordOf 2 0x4E g f.toBits)
  | .vtogComplete _ _ => none
  | .vred g f => some (wordOf 2 0x50 g f.toBits)
  | .vfred g f => some (wordOf 2 0x51 g f.toBits)
  | .vscan g f => some (wordOf 2 0x52 g f.toBits)
  | .vfscan g f => some (wordOf 2 0x53 g f.toBits)
  | .vspcmp g f => some (wordOf 2 0x58 g f.toBits)
  | .vspexp g f => some (wordOf 2 0x59 g f.toBits)
  | .vplog g f => some (wordOf 2 0x60 g f.toBits)
  | .vpcnt g f => some (wordOf 2 0x61 g f.toBits)
  | .vpfind g f => some (wordOf 2 0x62 g f.toBits)
  | .vpmov g f => some (wordOf 2 0x63 g f.toBits)
  | .vld g f => some (wordOf 1 0x01 g f.toBits)
  | .vldx g f => some (wordOf 1 0x02 g f.toBits)
  | .vldb g f => some (wordOf 1 0x03 g f.toBits)
  | .pld g f => some (wordOf 1 0x04 g f.toBits)
  | .vfeed g f => some (wordOf 1 0x05 g f.toBits)
  | .scld g f => some (wordOf 1 0x06 g f.toBits)
  | .vst g f => some (wordOf 3 0x01 g f.toBits)
  | .vstx g f => some (wordOf 3 0x02 g f.toBits)
  | .pst g f => some (wordOf 3 0x03 g f.toBits)
  | .vstc g f => some (wordOf 3 0x04 g f.toBits)
  | .queuePush _ _ => none
  | .mzero g f => some (wordOf 4 0x01 g f.toBits)
  | .mma g f => some (wordOf 4 0x02 g f.toBits)
  | .mmas g f => some (wordOf 4 0x03 g f.toBits)
  | .mmaStep _ => none
  | .mdrain g f => some (wordOf 4 0x04 g f.toBits)
  | .mdrainRegisterFull _ _ => none
  | .mload g f => some (wordOf 4 0x05 g f.toBits)
  | .xcopy g f => some (wordOf 5 0x01 g f.toBits)
  | .xgath g f => some (wordOf 5 0x02 g f.toBits)
  | .xscat g f => some (wordOf 5 0x03 g f.toBits)
  | .xtran g f => some (wordOf 5 0x04 g f.toBits)
  | .xconv g f => some (wordOf 5 0x05 g f.toBits)
  | .xmcst g f => some (wordOf 5 0x06 g f.toBits)
  | .xred g f => some (wordOf 5 0x07 g f.toBits)
  | .xatom g f => some (wordOf 5 0x08 g f.toBits)
  | .xapnd g f => some (wordOf 5 0x09 g f.toBits)
  | .xsig g f => some (wordOf 5 0x0A g f.toBits)
  | .xwait g f => some (wordOf 5 0x0B g f.toBits)
  | .xpref g f => some (wordOf 5 0x0C g f.toBits)
  | .xcomp g f => some (wordOf 5 0x10 g f.toBits)
  | .xmrg g f => some (wordOf 5 0x11 g f.toBits)
  | .xsnap g f => some (wordOf 5 0x12 g f.toBits)
  | .xhdr g f => some (wordOf 5 0x13 g f.toBits)
  | .xtld g f => some (wordOf 5 0x18 g f.toBits)
  | .xfst g f => some (wordOf 5 0x19 g f.toBits)
  | .sectionForward _ => none
  | .sectionStart _ _ => none
  | .commandAccept _ => none
  | .elementPerform _ _ => none
  | .faultRecordEnter _ => none
  | .migrationRewalk _ => none
  | .commandRetire _ => none
  | .writeQueueOperation _ _ => none
  | .writeQueueDrain _ _ => none
  | .eccCorrected _ => none
  | .uncorrectableSoftError _ => none
  | .shootdownAck _ => none
  | .bar2Write _ _ _ => none
  | .bar2Read _ _ _ => none
  | .bar4Write _ _ _ _ => none
  | .bar4Read _ _ _ => none
  | .orderingPointRelease _ => none
  | .claim _ => none
  | .handover _ _ => none
  | .submit _ _ => none
  | .gangSubmit _ _ => none
  | .shootCtlStart _ _ => none
  | .shootCtlClearLost _ _ => none
  | .resumeRetry _ _ => none
  | .resumeFail _ _ => none
  | .resumeClearStray _ _ => none
  | .slotCtlResume _ _ _ => none
  | .slotCtlKill _ _ _ => none
  | .slotCtlPark _ _ _ => none
  | .ringCfgWrite _ _ _ => none
  | .ringHeadWrite _ _ _ => none
  | .lcReqReset _ _ => none
  | .lcReqAdvance _ _ => none
  | .lcStateTripClear _ _ => none
  | .attest _ _ => none
  | .pwrCap _ _ => none
  | .thresh _ _ _ => none
  | .perfCtl _ _ => none
  | .replayCtl _ _ => none
  | .quenchCtl _ _ => none
  | .temper _ _ => none
  | .blazeCtl _ _ => none
  | .controlWrite _ _ _ => none
  | .launchSlotFree _ => none
  | .listLaunchStart _ _ => none
  | .pointFire _ _ => none
  | .pointStart _ => none
  | .pointComplete _ => none
  | .clearing _ => none
  | .workListDeadlock _ => none
  | .contextSave _ => none
  | .contextRestore _ _ => none
  | .checkpointMark => none
  | .prepare _ => none
  | .ready _ _ => none
  | .refuse _ _ => none
  | .commit _ => none
  | .abort _ => none
  | .gangPrepareTimeout _ => none
  | .gangMemberLost _ _ => none
  | .mark _ => none
  | .marked _ _ => none
  | .gangResume _ => none
  | .blazeMarker _ _ => none
  | .quenchEdge => none
  | .temperRestart => none
  | .inflightWrite _ _ => none
  | .powerOn => none
  | .perst _ => none
  | .functionLevelReset _ => none
  | .clockStep => none
  | .thermalThrottle _ => none
  | .thermalTrip _ => none
  | .linkDown _ => none
  | .linkUp _ _ => none
  | .scheduleCycleTick => none
  | .powerOff => none
  | .wipeEnd => none
  | .thermalRelease => none
  | .attestationReport => none
  | .gangCompletion _ _ => none
  | .remotePageAccess _ _ _ _ => none
  | .completionTimeout _ _ => none

end Sys2Proof
end

