-- ==== Sys2Proof/Machine/State.lean ====
section
/-! DEFINITION. The whole state of one HX-4 module as plain data: its 896 tiles, its eight transfer dies, the I/O die with the
launch processor and the control space, module memory, and what the outside has been shown. Tables indexed by number are
association lists in canonical form (Machine/Assoc.lean): strictly rising keys, no entry equal to the default. -/

namespace Sys2Proof.Machine

/-- Why a step stops. -/
inductive Fault where
  /-- Raised by `step` alone: the module has no power and the agenda's next item is not POWER_ON. Safe: a machine without
  power executes nothing (R17), so no claim about a next state is made. -/
  | noPower
  deriving DecidableEq, Repr

/-- Why an instruction has no meaning here. -/
inductive Refusal where
  /-- Raised by an arm of `exec` whose instruction is not modelled yet. Safe: nothing is claimed of it. -/
  | notModelled (mnemonic : String)
  deriving DecidableEq, Repr

/-- The values captured with a forwarded word (R66, R373). -/
structure Capture where
  /-- bit n is the captured value of predicate name n (R57): c0-c7 for M and X words, s0-s7 in bits 8-15 -/
  preds : BitVec 16 := 0
  /-- gx, gy, gz of a VM word; gn of an SY word; sx, sy, dx, dy, cnt of an XC word -/
  vals : List W64 := []
  sl : BitVec 512 := 0
  dl : BitVec 512 := 0
  /-- RAND_SEED at forwarding (R255) -/
  seed : W32 := 0
  /-- X words forwarded before this one since point start (R255) -/
  q : Nat := 0
  /-- the four physical registers of MDRAIN and MLOAD (R53) -/
  regs : List Nat := []
  /-- RB at forwarding, for the register number a trap reports (log 16); 0 after a restore -/
  rb : BitVec 7 := 0
  deriving DecidableEq, Repr

/-- A word of a forwarded section: its bits with every vector register field replaced by the physical number (R87, R373), its
word address, and its captured values. -/
structure FwdWord where
  slot : Slot
  addr : Nat
  cap : Capture
  deriving DecidableEq, Repr

/-- A forwarded section that has not retired (R22, R67, R373). -/
structure Section where
  eng : Engine
  hdr : Header
  hdrAddr : Nat
  /-- sequence number: sections forwarded by the point before this one (R373) -/
  seq : Nat
  /-- generation tag of 8 bits (R71) -/
  tag : Nat
  /-- the loop records active at forwarding, by instance, with their counts (R71) -/
  gens : List (Nat × Nat)
  /-- sequence numbers of the sections its header depends on (R68) -/
  deps : List Nat
  started : Bool := false
  /-- index in `words` of the next word -/
  idx : Nat := 0
  /-- index in the original section of the first word held (R373) -/
  first : Nat := 0
  words : List FwdWord
  deriving DecidableEq, Repr

/-- Which long-latency producer a pending result belongs to (R63), or the entry kind of Table 20-4 of one that only a dump
record names: 3 accumulator, 4 predicate pair, 5 row, 6 FP_FLAGS. -/
inductive InKind where
  | longLat | vtog | mdrain
  | entry (kind : Nat)
  deriving DecidableEq, Repr

/-- A result issued and not yet written (R131, R155, R168, R213). -/
structure InFlight where
  kind : InKind
  eng : Engine
  /-- physical vector register, or general register for VTOG -/
  tgt : Nat
  /-- what the destination will hold (R391) -/
  payload : VReg
  /-- the register rows that the word writes (R98) -/
  rows : BitVec 16 := 0xFFFF
  flags : BitVec 6 := 0
  seq : Nat
  tag : Nat
  addr : Nat
  /-- 0 outside a quench; in a quenched tile the cycles from the edge (R391); after its temper one more than the cycle at whose end it
  is written (R392) -/
  rem : Nat := 0
  /-- the payload of an entry of kind 3 to 6 -/
  bytes : List Byte := []
  /-- the cycle at whose end it is due (R147, R163, R179, R218), 0 where no table gives it -/
  due : Nat := 0
  /-- place and class of a row access that a quench has found on its way (R206) -/
  row : Option (Nat × Nat) := none
  deriving DecidableEq, Repr

/-- One register write of an A, L or M word that has issued: a row of a vector register, a row of a lane predicate, or an
accumulator (R98). -/
inductive RegOut where
  | vrow (reg row : Nat) (val : BitVec 2048)
  | prow (reg row : Nat) (val : BitVec 64)
  | acc (n : Nat) (val : Acc)
  deriving DecidableEq, Repr

/-- An A, L or M word that has issued and whose register writes are not all made; it retires with the last (R98, R131). -/
structure LateWord where
  eng : Engine
  seq : Nat
  tag : Nat
  addr : Nat
  /-- the cycle at whose end its results are due (R147, R163, R218), 0 where no table gives it -/
  due : Nat
  flags : BitVec 6
  outs : List RegOut
  /-- no lane was enabled: it counts as void (R59, R139) -/
  void : Bool := false
  deriving DecidableEq, Repr

/-- A row access of a store that its word has issued and that has not performed (R206, R293): the word's place in the forwarding
order, its class, its engine, address and tag, the byte address, and the bytes with their enables. -/
structure RowOut where
  pos : Nat
  cls : Nat
  eng : Engine
  seq : Nat
  tag : Nat
  addr : Nat
  due : Nat
  at_ : Nat
  bytes : List (Byte × Bool)
  mask : Option PMask := none
  deriving DecidableEq, Repr

/-- A write to bytes of which older contents may still be read, or to a code row: the writer's party (Table 15-1), its number among the
party's accesses (place in the forwarding order, X word, posted write), its place among all writes marked, for an ordinary access its
class, the classes that a FENCE has ordered behind it (R302), and the releases of it that have reached this tile: semaphore, and the
least scope that contains the home, the releasing party and the bytes (R295). -/
structure CopyMark where
  party : Nat
  key : Nat
  num : Nat := 0
  cls : Nat := 16
  fenced : Nat := 0
  rel : List (Nat × Nat) := []
  deriving DecidableEq, Repr

/-- What makes a write to a code row fetchable before IFENCE (R300): nothing more, a FENCE naming its class on the S engine, or an
acquire that follows a release of it, at a scope that contains its writer. -/
inductive CodeNeed where
  | none
  | fence (cls : Nat)
  | acquire (m : CopyMark)
  deriving DecidableEq, Repr

/-- A write to a code row that no IFENCE has followed (R300): the row's slots as they were before it, how many decodes may still see
them, and what it needs first. -/
structure CodeWrite where
  slots : List (Nat × Slot)
  left : Nat
  need : CodeNeed
  deriving DecidableEq, Repr

/-- Accesses that an acquire has ordered behind writes, where it does not order its whole tile (R294): those of engine eng, for the
channel's X words by their number q and else by their place in the forwarding order, from lo up to hi; and the section of the acquire,
which other sections' headers may name. -/
structure Ended where
  eng : Engine
  lo : Nat
  hi : Option Nat := none
  sec : Option Nat := none
  deriving DecidableEq, Repr

/-- Who may go on reading older contents (Table 15-1): the ordinary domain of a tile, its channel, or the hosts. -/
inductive Reader where
  | ordinary (tile : Nat)
  | channel (tile : Nat)
  | host
  deriving DecidableEq, Repr

/-- Contents that a tile's ordinary domain, its channel's commands, or the hosts may still read, the writes there since they were taken
(R293, R296), how many writes had been marked before, and the accesses that no longer read them. The key names the bytes: of a row
(0, tile * 2^14 + row); of an aligned unit of 2^k bytes of a space its number, the first component being the space in the low 20 bits,
and above them 0 for 64 bytes and else k + 1 (R291). The spaces are those of `Trail`. -/
structure OldCopy where
  chan : Bool
  key : Nat × Nat
  bytes : List Byte
  num : Nat := 0
  marks : List CopyMark := []
  ended : List Ended := []
  deriving DecidableEq, Repr

/-- An access to bytes that the present item of the agenda has made (log 4): a write or a read; its space, 0 the scratchpads with tile
t's bytes from t * 2^22 up, 1 module memory, 2 and 3 the host memory of a port, 16 + m far module m; its first byte and length; and
whether a write to memory is one of the units of R291. -/
structure Trail where
  write : Bool
  space : Nat
  at_ : Nat
  n : Nat
  whole : Bool := false
  /-- a read of the present contents, by an operation that also writes there (R236) -/
  now : Bool := false
  deriving DecidableEq, Repr

/-- The state of a transducer lane (R284). -/
structure Lane where
  q : Nat := 0
  fields : List (List Byte) := [[], [], [], []]
  counter : W32 := 0
  outCount : Nat := 0
  inCount : Nat := 0
  holds : Nat := 0
  failed : Bool := false
  consumed : Nat := 0
  deriving DecidableEq, Repr

/-- A translation fault at which a command is suspended (R228, Table 12-4). -/
structure Suspension where
  kind : Nat
  va : Nat
  access : Nat
  opnd : Nat
  ctx : Nat
  deriving DecidableEq, Repr

/-- A stream push of one element that waits for room (R245, R374). -/
structure HeldPush where
  /-- 0 FIFO A and SQA, 1 FIFO B and SQB -/
  side : Nat
  head : Option (BitVec 16)
  payload : Option (List Byte)
  deriving DecidableEq, Repr

/-- A command of a tile's channel (R242-R246, R374). -/
structure Command where
  cslot : Nat
  word : FwdWord
  num : Nat
  tag : Nat
  seq : Nat
  /-- next element -/
  e : Nat := 0
  /-- number of elements, fixed at acceptance -/
  count : Nat := 0
  accepted : Bool := false
  void : Bool := false
  susp : Option Suspension := none
  /-- the element stalls on a migrating page (R234): context and address, and whether a shootdown that covers the page has
  completed since -/
  stalled : Option (Nat × Nat) := none
  rewalk : Bool := false
  /-- XWAIT that has begun to wait (R261) -/
  waiting : Bool := false
  /-- output position (R286) -/
  outPos : Nat := 0
  held : Option HeldPush := none
  /-- an XAPND element that waits for room in its list, or for the point that has it (R259, R309) -/
  full : Bool := false
  /-- the index read for a row of the walk: the row and the index (R252) -/
  ix : Option (Nat × Int) := none
  /-- the reference read for a block of a tolerant buffer: the block and the line it names (R281) -/
  ref : Option (Nat × Nat) := none
  /-- table word of the transducer lane it holds (R283) -/
  tab : Option Nat := none
  lane : Lane := {}
  /-- tile named by the latest fault record, and whether no RESUME has answered it (R374) -/
  recTile : Option Nat := none
  unanswered : Bool := false
  /-- operations on their way to a write queue (R236) -/
  opsOut : Nat := 0
  /-- nothing is left to perform, apart from operations on their way -/
  done : Bool := false
  /-- the trap taken once older commands have retired: cause and TRAP_DATA (R243, R265); a command that is also `done` retires
  with it (R231) -/
  trap : Option (Nat × W64) := none
  /-- the tiles of XMCST's mask, read at acceptance (R256) -/
  mask : List Nat := []
  /-- the tile that accepted it, by which stochastic rounding is seeded (R255) -/
  vtile : Option Nat := none
  /-- pages and dies already counted for this command (R199) -/
  counted : List (Nat × Nat) := []
  deriving DecidableEq, Repr

/-- A party waiting on a semaphore (R326, R327). -/
structure Waiter where
  eng : Engine
  sem : Nat
  n : Nat
  start : W64
  /-- the value was below n when the wait began (R326) -/
  below : Bool := true
  /-- the unit has served it -/
  served : Bool := false
  deriving DecidableEq, Repr

/-- Who asked a point to stop (R364, R368): its own trap, a pre-emption (R354), SLOT_CTL act 3, or a checkpoint mark. -/
inductive StopWhy where
  | trap | preempt | park | mark
  deriving DecidableEq, Repr

/-- What unretires a word or command that has retired with its trap, where a trap of a lower engine class takes its place (R97). -/
structure Undo where
  /-- the command, or the section at the word -/
  cmd : Option Command := none
  sec : Option Section := none
  /-- its event code -/
  event : Nat
  /-- what it has added to semaphores: tile, semaphore, amount, and who (kind, sid, seng) -/
  sems : List (Nat × Nat × Nat × Nat × Nat × Nat) := []
  deriving DecidableEq, Repr

/-- How a stopping point stops (R363, R364). -/
structure Stop where
  why : StopWhy
  /-- the point has trapped, before or while it stopped (R368) -/
  trapped : Bool
  /-- the engine whose trap the trap registers hold -/
  eng : Option Engine
  /-- stopping generation G, relative to the innermost active loop record (R363, R369), and that record's instance: the S engine may
  enter or end a record while it finishes its section -/
  gen : Int
  inst : Option Nat := none
  /-- the schedule cycle of that trap, in which one of a lower engine class takes its place (R97) -/
  cyc : Option W64 := none
  /-- what retired with that trap (R250, R265, R325) -/
  back : Option Undo := none
  deriving DecidableEq, Repr

/-- The point a tile runs (R18, R19). -/
structure Point where
  slot : Nat
  hdr : BitVec 1024
  col : Nat
  z : Nat
  home : Nat
  started : Bool
  deriving DecidableEq, Repr

/-- One tile: the registers of Table 05-1 and 05-4, its engines' queues, its tables, scratchpad, channel and counters. -/
structure Tile where
  point : Option Point := none
  g : List (Nat × W64) := []
  /-- bit n is 1 when gn is empty (R63) -/
  gEmpty : BitVec 64 := 0
  /-- c0-c7; c0 reads 1 (R48) -/
  c : BitVec 8 := 1
  /-- s0-s7, s0 in bit 0 (R91) -/
  sw : BitVec 8 := 0
  rb : BitVec 7 := 0
  /-- loop-index stack, innermost first (R89), and the instance number of each entry -/
  ks : List (BitVec 128) := []
  kIds : List Nat := []
  /-- the three liveness slots of each entry that is a record whose LREC ran here or was innermost at a save (R56, R375) -/
  kLive : List (Option (BitVec 288)) := []
  nextRec : Nat := 0
  v : List (Nat × VReg) := []
  /-- bit n is 1 when physical register n is empty (R63, R87) -/
  vEmpty : BitVec 192 := 0
  p : List (Nat × PMask) := []
  m : List (Nat × Acc) := []
  /-- lane generator G_l in bits [32l+31 : 32l] (R43) -/
  lg : VReg := 0
  fp : BitVec 6 := 0
  /-- bits of FP_FLAGS that words have set in this schedule cycle (R45) -/
  fpNow : BitVec 6 := 0
  seed : W32 := 0
  priv : BitVec 3 := 0
  bound : BitVec 4 := 0
  launchId : W64 := 0
  pointId : W64 := 0
  trapCause : BitVec 8 := 0
  trapEngine : BitVec 4 := 0
  trapSection : BitVec 16 := 0
  trapWord : BitVec 20 := 0
  trapData : W64 := 0
  waitHead : BitVec 7 := 0
  waitLog : List (Nat × BitVec 128) := []
  /-- debug registers by selector - 0x100 (Table 20-1) -/
  dbg : List (Nat × W64) := []
  pc : BitVec 20 := 0
  /-- the S engine is inside an S section: its header's address, its number, and the address after its last slot -/
  sIn : Bool := false
  sHdr : BitVec 20 := 0
  sNum : Nat := 0
  sEnd : Nat := 0
  halted : Bool := false
  /-- the S word retired last was a LOOP: the boundary of Table 19-3 inside a loop record -/
  atLoop : Bool := false
  /-- a breakpoint at the slot at PC has been taken and is not matched again (R386) -/
  bpPassed : Bool := false
  /-- bit n: schedule-cycle breakpoint n has matched the first slot reached in time (R386) -/
  bpFired : BitVec 4 := 0
  /-- the slot decoded while old copies might be held, at which the S engine stands (R300) -/
  standing : Option Slot := none
  /-- writes to code rows that no IFENCE has followed, oldest first (R300) -/
  codeOld : List CodeWrite := []
  secs : List Section := []
  /-- sections forwarded since point start (R373) -/
  seqNext : Nat := 0
  /-- one more than the sequence number of the latest section of an engine and number, under 256 * class + number (R68) -/
  lastSec : List (Nat × Nat) := []
  /-- X words forwarded since point start (R255) -/
  xq : Nat := 0
  inflight : List InFlight := []
  /-- A, L and M words whose register writes are not all made, oldest first (R98) -/
  late : List LateWord := []
  /-- row accesses of stores that have not performed, oldest first (R293) -/
  rowsOut : List RowOut := []
  /-- rows that the load at which the L engine stands has read, in access order, with their bytes (R206) -/
  rowsIn : List (Nat × List Byte) := []
  /-- that load's enabled lanes and index register, as its first row found them (R210, R213) -/
  loadFix : Option (PMask × VReg) := none
  /-- the point has executed a word (R431) -/
  ran : Bool := false
  /-- older contents that the ordinary domain, or the channel, may still read (R293, R296) -/
  copies : List OldCopy := []
  /-- the S engine stands at a slot whose breakpoint quenches the tile at the end of the cycle (R386) -/
  bpHold : Bool := false
  /-- step count of the MMA or MMAS that is running (R172) -/
  mStep : Option Nat := none
  fifoA : List Byte := []
  fifoB : List Byte := []
  sqa : List (BitVec 16) := []
  sqb : List (BitVec 16) := []
  /-- a VFEED or SCLD push that waits for room: queue code 0 SQA, 1 SQB, 2 FIFO A, 3 FIFO B (R309) -/
  lPush : Option (Nat × List Byte) := none
  /-- bytes the channel has moved beyond the last full 64 (event 0x10 of Table 17-4) -/
  movedRest : Nat := 0
  /-- where the contents of queues 0 to 3 came from, in queue order: runs of bytes or heads, and whether a move command pushed
  them (R396, input code 4) -/
  runs : List (Nat × List (Nat × Bool)) := []
  layout : List (Nat × BitVec 512) := []
  rings : List (Nat × BitVec 128) := []
  /-- pending ring releases: ring, slot, side, and the sections and X words forwarded before it (R189) -/
  relPend : List (Nat × Nat × Nat × Nat × Nat) := []
  sp : List Host.Cell := []
  chan : List Command := []
  /-- work-list state (Table 16-4) -/
  wlCount : Nat := 0
  wlHead : Nat := 0
  wlDone : Bool := false
  wlGone : Bool := false
  pcs : List (Nat × BitVec 48) := []
  /-- the counters as they stood when this schedule cycle began (R337) -/
  pcsPrev : List (Nat × BitVec 48) := []
  perfSel : W64 := 0
  waiters : List Waiter := []
  /-- items, done and gone of the work list as they stood when the tile froze (R392) -/
  wlFrozen : Nat × Bool × Bool := (0, false, false)
  /-- the stopping generation that its dump has (R391), and the saturating BAR4 additions since (R330, R392) -/
  genFrozen : Nat := 0
  ovFrozen : Nat := 0
  /-- semaphores with waiters that have changed since the unit last served them, in this cycle or during a quench: number, skind,
  sid, seng of each change, oldest first (R327, R390) -/
  missed : List (Nat × Nat × Nat × Nat) := []
  /-- why an engine stands at a waiting word (R370), by class: 1 a semaphore, 2 a FIFO or scale queue, 3 an empty register,
  4 a full section queue, 5 the slip rule, 6 WPOP, 7 a fence, a semaphore release, RACQ, LAUNCH or DRAIN, a header that a
  stopping point does not forward, or a trap; 8 a wait that R370 does not list -/
  waits : List (Nat × Nat) := []
  stop : Option Stop := none
  /-- a LAUNCH of a checkpointed launch: 1 it has asked for a mark, 2 the mark has been taken (R381) -/
  markWait : Nat := 0
  quenched : Bool := false
  /-- retired S words of the current replay chunk (R396) -/
  chunk : Nat := 0
  /-- LAUNCH_ID.seq of the launch whose code rows are installed (R85) -/
  codeOf : Option Nat := none
  /-- translation context of the tile's last point (R21) -/
  lastCtx : Option Nat := none
  deriving DecidableEq, Repr

/-- A leaf held by a transfer die (R225). -/
structure TlbEntry where
  ctx : Nat
  va : Nat
  /-- log2 of the page size: 16, 29 or 42 -/
  lg : Nat
  pte : W64
  deriving DecidableEq, Repr

/-- An XRED or XATOM operation on its way to a write queue (R236). -/
structure WqOp where
  tile : Nat
  cslot : Nat
  e : Nat
  /-- physical addresses of its bytes -/
  pas : List Nat
  /-- type code and operation: 0 add, 1 min, 2 max, 3 and, 4 or, 5 xor, 6 swap -/
  ty : Nat
  op : Nat
  x : W64
  /-- XATOM with ret: tile and scratchpad byte address of the return write (R258) -/
  ret : Option (Nat × Nat)
  slot : Nat
  q : Nat
  wid : W64
  /-- it was sent after its die's cut in the present blaze (R393) -/
  cut : Bool := false
  deriving DecidableEq, Repr

/-- One transfer die (R6). -/
structure Die where
  tlb : List TlbEntry := []
  /-- cached context descriptors (R221) -/
  descs : List (Nat × BitVec 512) := []
  acnt : List (Nat × W64) := []
  thresh : BitVec 16 := 256
  /-- transducer table SRAM by byte address (R200) -/
  tsram : List Host.Cell := []
  wqIn : List WqOp := []
  /-- pending write-queue entries: line number (PA / 64) and its 64 bytes (R236) -/
  wq : List (Nat × BitVec 512) := []
  /-- translation fault records that wait for the fault ring, each with its number in the order of arrival (R311) -/
  faultWait : List (Nat × List W64) := []
  /-- the die has still to acknowledge the current shootdown (R226) -/
  shootPend : Bool := false
  undoBase : W64 := 0
  undoIval : BitVec 32 := 0
  undoEarly : Bool := false
  undoUsed : Nat := 0
  /-- lines logged in the current interval (R379) -/
  undoLines : List Nat := []
  eccCount : Nat := 0
  deriving DecidableEq, Repr

/-- Where a fired point of a launch is. -/
inductive PtPlace where
  | onTile (t : Nat)
  | parked (idx : Nat)
  | trapped (idx : Nat)
  /-- fired and not started when its frontier was saved: it is fired again (R351) -/
  | refire
  deriving DecidableEq, Repr

/-- What is kept of a saved command beside its record (log 31): the number of its section (R373), the tile that accepted it (R255), and
its mask (R256). -/
structure KeptCmd where
  cslot : Nat
  seq : Nat
  vtile : Option Nat := none
  mask : List Nat := []
  deriving DecidableEq, Repr

/-- A fired point that is not complete (R349, R365). -/
structure LPoint where
  col : Nat
  z : Nat
  home : Nat
  place : PtPlace
  /-- number of its latest placement on a tile (R354) -/
  ord : Nat := 0
  /-- parked with its S engine at a waiting WPOP and no append outstanding (R318, R319) -/
  wpop : Bool := false
  /-- what the module keeps of a saved point beside its record (log 31): its event codes (R336), its chunk, and who pushed what its
  queues hold (R396) -/
  perf : Option W64 := none
  chunk : Nat := 0
  runs : List (Nat × List (Nat × Bool)) := []
  /-- and of the sections it forwarded, their count (R373), and of its commands what their records do not hold -/
  seqNext : Nat := 0
  cmds : List KeptCmd := []
  /-- bytes its channel has moved beyond the last full 64 (R336) -/
  moved : Nat := 0
  /-- its kind 1 breakpoints that have matched, whether the slot at PC has been passed, and whether act 1 has resumed it from a trap
  (R366, R386) -/
  bpFired : BitVec 4 := 0
  bpPassed : Bool := false
  resumed : Bool := false
  /-- items of its accepted appends that are still to be written, by launch slot (R318) -/
  apps : List (Nat × Nat) := []
  deriving DecidableEq, Repr

/-- A launch that holds a slot, or waits for one (R345). -/
structure Launch where
  hdrVA : Nat
  hdr : BitVec 1024
  seq : Nat
  /-- the node it belongs to, its words, its context and privilege (R342) -/
  node : Nat
  nodeW : BitVec 512
  nodeCtx : Nat
  nodePriv : BitVec 3
  /-- the saved area held a frontier of its header when its node ran (R432) -/
  saved : Bool := false
  /-- SLOT_STAT.state: 1 running, 2 stopping, 3 parked whole, 4 rolling back (Table 19-2) -/
  state : Nat := 1
  ntrap : Nat := 0
  /-- it is killed, with this SLOT_STAT.why, and what its commands have sent to the write queues is still to be performed, or its
  completion word to be written (R367, R379) -/
  dying : Option Nat := none
  cols : List (Nat × BitVec 64) := []
  layImg : List Byte := []
  ringImg : List Byte := []
  /-- context and VA of the code-row segment its header points at (R84, log 5) -/
  codeAt : Option (Nat × Nat) := none
  /-- fired points, in the order of their latest placement -/
  pts : List LPoint := []
  /-- list launch: it holds its tiles (R314); counts A and C (R318); the clearing; idle cycles (R321) -/
  started : Bool := false
  cntA : Nat := 0
  cntC : Nat := 0
  cleared : Bool := false
  idle : Nat := 0
  /-- every point is complete and the completion word waits for a mark (R381) -/
  held : Bool := false
  /-- every point is complete and the completion word waits for its page, for a link or for room in the undo log (R235, R379, R406) -/
  ending : Bool := false
  gang : Option Nat := none
  /-- REPLAY_CTL mode at its start: 0 off, 1 record, 2 replay (R395) -/
  replay : BitVec 2 := 0
  /-- gang member that has reserved and not committed (R357), and the tiles it reserved, until its first point is placed -/
  reserved : Bool := false
  resTiles : List Nat := []
  /-- a list launch's points and their records as the last mark saved them (R380, R382) -/
  markPts : Option (List LPoint) := none
  /-- the same of a gang's mark that has not been resumed (R383) -/
  markNext : Option (List LPoint) := none
  deriving DecidableEq, Repr

/-- A decrement the graph executor has still to apply (R192): node VA, context and privilege it gives (R342), where it comes
from: 0 SUBMIT, 1 LAUNCH, 2 what these reach, or a completion; the launch's id for a stray record; and the launch slot for which the
executor's writes are logged, where a checkpointed launch has made it (R379). -/
structure Dec where
  node : Nat
  ctx : Nat
  priv : BitVec 3
  src : Nat
  lid : W64
  log : Option Nat := none
  deriving DecidableEq, Repr

/-- The registers of a ring set (Table 16-2). -/
structure Ring where
  base : W64 := 0
  en : Bool := false
  vec : BitVec 11 := 0
  lg : BitVec 5 := 0
  tail : W32 := 0
  head : W32 := 0
  ovf : Bool := false
  drop : W32 := 0
  deriving DecidableEq, Repr

/-- Control-space registers that are not kept elsewhere (Tables 21-3, 21-4, 12-3, 12-5, 18-1, 20-3). -/
structure Ctl where
  owner : BitVec 8 := 255
  /-- the cycle in which the owner's claim was made, until a handover (R405) -/
  claimCyc : Option W64 := none
  abortCnt : W32 := 0
  denied : W32 := 0
  /-- LC_STATE[1:0], held in fuses (R408) -/
  lcState : BitVec 2 := 2
  modnum : Option (BitVec 16) := none
  attestPA : Option W64 := none
  attestDone : Bool := false
  /-- ATTEST_STAT[63] (R410) -/
  recovery : Bool := false
  /-- security version of the running firmware, and the counter of free values at its start, which names its image (R410, R411) -/
  fwVersion : W64 := 0
  fwImage : Nat := 0
  /-- the fused security version (R410) -/
  fwFused : W64 := 0
  /-- the identity key, by the counter of free values at its generation; none before PROVISIONED and from RETURNED on (R408) -/
  idKey : Option Nat := some 0
  pwrCap : BitVec 16 := 5000
  clkMHz : BitVec 16 := 1250
  /-- CLK_STAT[16] (R413) -/
  hot : Bool := false
  ctxBase : W64 := 0
  bar2Ctx : List (Nat × BitVec 16) := []
  bar2Va : List (Nat × W64) := []
  shootVa : W64 := 0
  /-- SHOOT_VA as the current shootdown took it -/
  shootFor : W64 := 0
  shootBusy : Bool := false
  shootLost : Bool := false
  shootScope : BitVec 2 := 0
  shootCtx : BitVec 16 := 0
  resumeStray : Bool := false
  submitCtx : List (Nat × BitVec 16) := []
  perfCtl : W64 := 0
  trapVec : BitVec 11 := 0
  replayMode : BitVec 2 := 0
  replayDiv : Bool := false
  replayIdx : W32 := 0
  /-- DBG_INIT_BP0-3, WP0-3, TRACE by index (R385) -/
  dbgInit : List (Nat × W64) := []
  quenchCyc : W64 := 0
  quenchMask : W64 := 0
  quenchDump : W64 := 0
  quenchBusy : Bool := false
  /-- TEMPER written: the cycle at whose beginning the tiles restart (R392) -/
  temperAt : Option W64 := none
  blazeCtl : W64 := 0
  blazeEn : W64 := 0
  blazeDump : W64 := 0
  /-- SLOT_STAT.why of the last kill in each slot (Table 19-2) -/
  why : List (Nat × Nat) := []
  /-- SLOT_TRAP of each slot: the record of the point trapped most recently (Table 19-2) -/
  slotTrap : List (Nat × Nat) := []
  /-- LINK_PEER: far module, in bit 16 whether the link is up (R406) -/
  links : List (Nat × BitVec 17) := []
  deriving DecidableEq, Repr

/-- A posted host write that has not been acknowledged (R297): its BAR2 offset and bytes, stalled on migration (R234). -/
structure Posted where
  m : Nat
  off : Nat
  data : List Byte
  /-- context and address it was translated with; whether a covering shootdown has completed since -/
  ctx : Nat
  va : Nat
  rewalk : Bool := false
  /-- its number among the writes that reached the ordering point (R297) -/
  num : Nat := 0
  deriving DecidableEq, Repr

/-- What a host's read gets: data, Completer Abort, or Unsupported Request (R402, R238). -/
inductive Completion where
  | data (m : Nat) (bytes : List Byte)
  | abort (m : Nat)
  | unsupported (m : Nat)
  deriving DecidableEq, Repr

/-- Messages of gangs between modules (R357, R383). -/
inductive GangMsg where
  | prepare | ready | refuse | commit | abort | mark | marked | resume | completion
  deriving DecidableEq, Repr

/-- A gang this module is a member of (R356-R358). -/
structure Gang where
  gang : Nat
  rank : Nat
  nmem : Nat
  /-- module numbers of the members, in rank order -/
  mods : List Nat := []
  hdrVA : Nat
  gdone : Nat
  ctx : Nat
  /-- 0 described, 1 prepared, 2 committed, 3 ended -/
  phase : Nat := 0
  /-- its launch, once its header has passed the checks, until it has its slot -/
  cand : Option Launch := none
  /-- LAUNCH_ID of its launch, and where its completion word goes -/
  lid : Nat := 0
  done : Option (Nat × Nat) := none
  slot : Option Nat := none
  readies : List Nat := []
  marked : List Nat := []
  completed : List Nat := []
  /-- it takes part in the present mark (R383) -/
  marking : Bool := false
  /-- a member of another's gang: its rank 0's MARK has come, MARKED has been sent, RESUME has come (R383) -/
  asked : Bool := false
  told : Bool := false
  resumed : Bool := false
  deriving DecidableEq, Repr

/-- A completion word that no slot waits for, still to be written (R194, R357, R358): the slot its write is logged for, the context and
address, LAUNCH_ID, and the status. -/
structure DoneWait where
  log : Option Nat
  ctx : Nat
  va : Nat
  lid : Nat
  status : Nat
  deriving DecidableEq, Repr

/-- A cut taken in a blaze (R394): the die, its SCYC, the blaze's number and output, and what it records: quenched tiles, channel
commands, write-queue entries, undo-log position, launches with their frontiers, queues, and the flits of a link (R393). -/
structure BlazeCut where
  die : Nat
  scyc : W64
  num : Nat := 0
  out : Bool := false
  tiles : List (Nat × Tile) := []
  chans : List (Nat × List Command) := []
  wq : List (Nat × BitVec 512) := []
  undo : Nat := 0
  launches : List (Nat × Launch) := []
  fronts : List (Nat × List Byte) := []
  subQ : List (Nat × Nat) := []
  readyQ : List Launch := []
  parkedQ : List (Nat × Nat) := []
  flits : List (Nat × List Byte) := []
  /-- operations sent before their die's cut that arrived after this one's: the link that brought each, of whose state it is part
  (R393) -/
  ops : List (Nat × WqOp) := []
  /-- links whose marker has arrived -/
  seen : List Nat := []
  deriving DecidableEq, Repr

/-- A launch header that the loader has pointed at its code-row segment (R84): the context and VA of the header, and the VA of the
segment in that context (log 5). -/
structure Image where
  ctx : Nat
  hdrVA : Nat
  codeVA : Nat
  deriving DecidableEq, Repr

/-- One item of the agenda: an engine's turn; its turn with a word whose register writes and row accesses follow on their own, one
register write or row access of such a word, a reader keeping the contents of bytes that it may go on reading, or dropping them (log 4);
an event row; the loader pointing a header at the code-row segment it has placed, or the loader with a whole image and the load addresses
of its directory's entries (R84, log 1, log 5). -/
inductive Act where
  | run (tile : Nat) (e : Engine)
  | runLate (tile : Nat) (e : Engine)
  | land (tile : Nat) (e : Engine) (k : Nat)
  | perform (tile k : Nat)
  | keep (r : Reader) (key : Nat × Nat)
  | drop (r : Reader) (key : Nat × Nat)
  | event (i : Instr)
  | load (img : Image)
  | image (ctx : Nat) (bases : List Nat) (bytes : List Byte)
  deriving DecidableEq, Repr

/-- The word being executed: its tile and engine, address, section, generation tag and captures (log 2). For an S word the
captures are not used. -/
structure Issue where
  tile : Nat := 0
  eng : Engine := .S
  addr : Nat := 0
  num : Nat := 0
  tag : Nat := 0
  seq : Nat := 0
  cap : Capture := {}
  /-- cycles from issue to result; 0 where no table gives them (R147, R163, R179, R218) -/
  lat : Nat := 0
  /-- its row accesses are issued and perform later (R293) -/
  late : Bool := false
  deriving DecidableEq, Repr

/-- The HX-4 module. -/
structure State where
  on : Bool
  /-- the wipe after a reset or a life-cycle change is still running (R238) -/
  wiping : Bool
  scyc : W64
  tiles : List (Nat × Tile)
  dies : List (Nat × Die)
  mem : List Host.Cell
  /-- host memory by port * 2^64 + bus address (R227) -/
  hostMem : List Host.Cell
  /-- far modules' memory by module * 2^40 + PA (R406) -/
  farMem : List Host.Cell
  /-- transfer die of tile t in bits [3t+2 : 3t] (R10) -/
  place : BitVec 2688
  /-- which of its transfer die's two compute dies tile t is on, in bit t (R7, R10) -/
  half : BitVec 896
  images : List Image
  launches : List (Nat × Launch)
  /-- launches accepted since module reset (R94) -/
  launchSeq : Nat
  /-- slot served last by the round-robin of R353 -/
  lastServed : Nat
  /-- placements made on tiles so far, by which the most recent one is known (R354) -/
  placed : Nat
  subQ : List (Nat × Nat)
  readyQ : List Launch
  /-- parked points in the order they entered: launch slot and record index (R308) -/
  parkedQ : List (Nat × Nat)
  graphQ : List Dec
  /-- completion words that wait for their page or for a link (R235, R406) -/
  doneWait : List DoneWait
  ctl : Ctl
  fq : Ring
  nq : Ring
  tr : Ring
  rl : Ring
  /-- replay: seq of the first recorded launch (R396), entries of the log consumed in replay (R397) -/
  rlFirst : Option Nat
  rlNext : Nat
  posted : List Posted
  /-- writes held at the ordering point, oldest first, each with its number among the writes that reached it (R297) -/
  heldQ : List (Nat × Instr)
  /-- writes that have reached the ordering point -/
  hostNum : Nat
  /-- fault records that have arrived at the I/O die and found no room (R311) -/
  faultNum : Nat
  /-- acts 1 of SLOT_CTL that wait for room in the undo log: launch slot and record index (R366, R379) -/
  resumeWait : List (Nat × Nat)
  /-- saved commands that a held RESUME fails at their restore: launch slot, record index, command slot (R232) -/
  heldFail : List (Nat × Nat × Nat)
  /-- kinds of the faults at which saved commands are suspended: launch slot, record index, command slot, kind (R231, R232) -/
  savedKind : List (Nat × Nat × Nat × Nat)
  /-- MSI-X vectors raised, oldest first -/
  msix : List Nat
  /-- completions returned to hosts, oldest first -/
  cpl : List Completion
  gangs : List (Nat × Gang)
  /-- PREPAREs held for a GANG_SUBMIT that has not arrived (R357) -/
  prepHeld : List Nat
  /-- gang messages sent: message, gang, destination module (R357) -/
  outbox : List (GangMsg × Nat × Nat)
  cuts : List BlazeCut
  /-- compute dies that a blaze's marker has reached in this cycle: the die, the blaze's number and output, and the marker's link (R394) -/
  cutsDue : List (Nat × Nat × Bool × List Nat)
  /-- dump records streamed out of the management port, oldest first: the tile, and the pieces that are not zero (R393) -/
  streamed : List (Nat × List (Nat × List Byte))
  /-- tiles that a blaze has quenched, until the cycle ends (R394) -/
  blazeThaw : List Nat
  /-- module links on which a blaze marker has been sent, oldest first (R393) -/
  markersOut : List Nat
  /-- schedule cycles at which tiles were told to quench: tile, and the edge's cycle (R386, R389) -/
  quenchAt : List (Nat × W64)
  /-- a checkpoint mark has been asked for (R338, R381) -/
  markAsked : Bool
  /-- where a mark stands: 0 none, 1 its points stop, 2 saved and waiting for the gang's RESUME (R380, R383) -/
  markPhase : Nat
  /-- dies at or above 95 degrees while the clock is held (R413) -/
  hotDies : List Nat
  /-- thermal-trip record of the flash: SCYC and die (R409); outlives power -/
  flashTrip : Option (W64 × Nat)
  /-- older contents that the hosts may still read (R293, R296) -/
  hostOld : List OldCopy
  /-- completion words that have been written: the space, the first byte, and the launch's number (R24) -/
  doneAt : List (Nat × Nat × Nat)
  /-- writes that have been marked on older contents -/
  stamp : Nat
  /-- the accesses that the present item of the agenda has made -/
  trail : List Trail
  agenda : List Act
  /-- tile whose S engine runs when the agenda is empty (log 1) -/
  focus : Nat
  issue : Issue
  /-- counter that makes each free value a fresh one (log 8) -/
  fresh : Nat
  deriving DecidableEq, Repr

/-- The placement named at reset: tile t on die t / 112 (DESIGN CHOICE, log 6). -/
def State.resetPlace : BitVec 2688 :=
  BitVec.ofNat 2688 ((List.range 896).foldr (fun t a => a + (t / 112) * 2 ^ (3 * t)) 0)

/-- The compute die named at reset: the first 56 tiles of a transfer die on the even one (DESIGN CHOICE, log 6). -/
def State.resetHalf : BitVec 896 :=
  BitVec.ofNat 896 ((List.range 896).foldr (fun t a => a + (t % 112 / 56) * 2 ^ t) 0)

/-- The module right after reset, its wipe ended (R17, R238, R407): every memory, table and queue empty, SCYC 0, OWNER 0xFF,
THRESH 256, no launch. Values the spec does not state are those of log 3, 6, 7 and 20. -/
def State.reset : State where
  on := true
  wiping := false
  scyc := 0
  tiles := []
  dies := []
  mem := []
  hostMem := []
  farMem := []
  place := State.resetPlace
  half := State.resetHalf
  images := []
  launches := []
  launchSeq := 0
  lastServed := 63
  placed := 0
  subQ := []
  readyQ := []
  parkedQ := []
  graphQ := []
  doneWait := []
  ctl := {}
  fq := {}
  nq := {}
  tr := {}
  rl := {}
  rlFirst := none
  rlNext := 0
  posted := []
  heldQ := []
  hostNum := 0
  faultNum := 0
  resumeWait := []
  heldFail := []
  savedKind := []
  msix := []
  cpl := []
  gangs := []
  prepHeld := []
  outbox := []
  cuts := []
  cutsDue := []
  streamed := []
  blazeThaw := []
  markersOut := []
  quenchAt := []
  markAsked := false
  markPhase := 0
  hotDies := []
  flashTrip := none
  hostOld := []
  doneAt := []
  stamp := 0
  trail := []
  agenda := []
  focus := 0
  issue := {}
  fresh := 0

end Sys2Proof.Machine
end

