-- ==== Sys2Proof/Machine/Tile.lean ====
section
/-! DEFINITION. Reading and writing the pieces of a tile: registers with their hard-wired values (R48, R86), scratchpad rows and
the code rows in them (R46, R203, R300), semaphores (R204), performance counters (R336), and which sections and accesses have
not ended (R68, R206). -/

namespace Sys2Proof.Machine

/-- A tile on which nothing has run. -/
def Tile.idle : Tile := {}

/-- A transfer die after reset. -/
def Die.idle : Die := {}

/-- Tile t of the module. -/
def State.tile (s : State) (t : Nat) : Tile := Assoc.get Tile.idle t s.tiles

/-- The module with tile t replaced. -/
def State.setTile (s : State) (t : Nat) (x : Tile) : State := { s with tiles := Assoc.set Tile.idle t x s.tiles }

/-- Transfer die d. -/
def State.die (s : State) (d : Nat) : Die := Assoc.get Die.idle d s.dies

/-- The module with transfer die d replaced. -/
def State.setDie (s : State) (d : Nat) (x : Die) : State := { s with dies := Assoc.set Die.idle d x s.dies }

/-- Every tile that differs from an idle one changed. -/
def State.mapTiles (s : State) (f : Tile → Tile) : State := s.tiles.foldl (fun s' p => s'.setTile p.1 (f p.2)) s

/-- Every transfer die changed. -/
def State.mapDies (s : State) (f : Die → Die) : State :=
  (List.range Config.numDies).foldl (fun s' d => s'.setDie d (f (s.die d))) s

/-- The transfer die of a tile's channel (R7, R10). -/
def State.dieOf (s : State) (t : Nat) : Nat := bits s.place.toNat (3 * t) 3

/-- The compute die of a tile (R7, R10). -/
def State.cdOf (s : State) (t : Nat) : Nat := 2 * s.dieOf t + ofBool (s.half.getLsbD t)

/-- The least scope of home tile u that contains tile t's channel (Table 15-2). -/
def State.scopeOf (s : State) (u t : Nat) : Nat := if u = t then 0 else if s.cdOf u = s.cdOf t then 1 else 2

/-- A die's cut in the present blaze; dies are numbered as in Table 20-2. -/
def State.cut? (s : State) (die : Nat) : Option BlazeCut := s.cuts.find? fun c => c.die == die

/-- The next transfer die on the ring from die a to die b: the shorter way round, and the ascending one where both are equally long
(R8). -/
def ringNext (a b : Nat) : Nat := if (b + 8 - a) % 8 ≤ 4 then (a + 1) % 8 else (a + 7) % 8

/-- The hops of the way from die a to die b, n at most: from a die to its neighbour. -/
def ringWay (b : Nat) : (n : Nat) → (a : Nat) → List (Nat × Nat)
  | 0, _ => []
  | n + 1, a => if a = b then [] else (a, ringNext a b) :: ringWay b n (ringNext a b)

/-- The link between two neighbours on the ring, as links are numbered: 16 + n is XDn to the next (Table 01-2). -/
def ringLink (p : Nat × Nat) : Nat := 16 + if p.2 = (p.1 + 1) % 8 then p.1 else p.2

/-- The hops of an operation from its channel's transfer die to the die that serves its line. -/
def State.opWay (s : State) (die : Nat) (o : WqOp) : List (Nat × Nat) := ringWay die 4 (s.dieOf o.tile)

/-- An operation recorded as part of the state of the link that brings it to a die whose cut is taken (R393). -/
def State.noteFlit (s : State) (p : Nat × Nat) (o : WqOp) : State :=
  { s with cuts := s.cuts.map fun c => if c.die == 16 + p.2 then { c with ops := c.ops ++ [(ringLink p, o)] } else c }

/-- An operation is sent to the die of its line (R8, R236). It passes the dies between at once, and stands on the last link of its way. Of
a cut in progress it is part where it was sent before its own die's: of the state of the link by which it reaches a die between that has
its cut already, and from there on it follows that die's markers (R393, log 14). -/
def State.sendOp (s : State) (die : Nat) (o : WqOp) : State :=
  let put (s1 : State) (o1 : WqOp) : State := s1.setDie die { s1.die die with wqIn := (s1.die die).wqIn ++ [o1] }
  match (if o.cut then none else (s.opWay die o).dropLast.find? fun p => (s.cut? (16 + p.2)).isSome) with
  | some p => put (s.noteFlit p o) { o with cut := true }
  | none => put s o

/-- A choice the spec leaves open, and the state with the next choice's number (log 8). -/
def State.choose (s : State) : Bool × State := (Config.freeBool s.fresh, { s with fresh := s.fresh + 1 })

/-- A value the spec leaves open. -/
def State.freshWord (s : State) : W64 × State := (Config.freeWord s.fresh, { s with fresh := s.fresh + 1 })

/-! ### Registers -/

/-- g0 reads 0 (R86). -/
def Tile.readG (x : Tile) (n : Nat) : W64 := if n = 0 then 0 else Assoc.get 0 n x.g

/-- Writes to g0 are discarded (R86). -/
def Tile.writeG (x : Tile) (n : Nat) (v : W64) : Tile := if n = 0 then x else { x with g := Assoc.set 0 n v x.g }

/-- Whether general register n is empty; g0 is always full (R63). -/
def Tile.emptyG (x : Tile) (n : Nat) : Bool := n != 0 && x.gEmpty.getLsbD n

/-- General register n marked empty or full; g0 stays full (R63, R155). -/
def Tile.markG (x : Tile) (n : Nat) (e : Bool) : Tile :=
  if n = 0 then x
  else { x with gEmpty := if e then x.gEmpty ||| (1#64 <<< n) else x.gEmpty &&& ~~~(1#64 <<< n) }

/-- Scalar predicate n; c0 reads 1 (R48). -/
def Tile.readC (x : Tile) (n : Nat) : Bool := n == 0 || x.c.getLsbD n

/-- A write to c0 is discarded (R48). -/
def Tile.writeC (x : Tile) (n : Nat) (b : Bool) : Tile :=
  if n = 0 then x
  else { x with c := if b then x.c ||| (1#8 <<< n) else x.c &&& ~~~(1#8 <<< n) }

/-- A predicate of the S name space of Table 03-13. -/
def Tile.readCS (x : Tile) (n : Nat) : Bool := if n < 8 then x.readC n else x.sw.getLsbD (n - 8)

/-- Physical vector register n (R87). -/
def Tile.readV (x : Tile) (n : Nat) : VReg := Assoc.get 0 n x.v

/-- Physical vector register n written. -/
def Tile.writeV (x : Tile) (n : Nat) (v : VReg) : Tile := { x with v := Assoc.set 0 n v x.v }

/-- Whether physical vector register n is empty (R63, R87). -/
def Tile.emptyV (x : Tile) (n : Nat) : Bool := x.vEmpty.getLsbD n

/-- Physical vector register n marked empty or full. -/
def Tile.markV (x : Tile) (n : Nat) (e : Bool) : Tile :=
  { x with vEmpty := if e then x.vEmpty ||| (1#192 <<< n) else x.vEmpty &&& ~~~(1#192 <<< n) }

/-- Lane predicate n; p0 is all ones (R48). -/
def Tile.readP (x : Tile) (n : Nat) : PMask := if n = 0 then BitVec.allOnes 1024 else Assoc.get 0 n x.p

/-- A write to p0 is discarded (R48). -/
def Tile.writeP (x : Tile) (n : Nat) (v : PMask) : Tile := if n = 0 then x else { x with p := Assoc.set 0 n v x.p }

/-- Accumulator n (R164). -/
def Tile.readM (x : Tile) (n : Nat) : Acc := Assoc.get 0 n x.m

/-- Accumulator n written. -/
def Tile.writeM (x : Tile) (n : Nat) (v : Acc) : Tile := { x with m := Assoc.set 0 n v x.m }

/-- The physical number a vector register field names (R87). -/
def physReg (rb : BitVec 7) (n : Nat) : Nat := if n < 64 then n else 64 + (n - 64 + rb.toNat) % 128

/-- FP_FLAGS bits set by a word (R45). -/
def Tile.orFlags (x : Tile) (fl : Nat) : Tile :=
  { x with fp := x.fp ||| BitVec.ofNat 6 fl, fpNow := x.fpNow ||| BitVec.ofNat 6 fl }

/-! ### Layout and ring tables -/

/-- Layout entry k (R181). -/
def Tile.readLay (x : Tile) (k : Nat) : Nat := (Assoc.get 0 k x.layout).toNat

/-- Layout entry k written. -/
def Tile.writeLay (x : Tile) (k v : Nat) : Tile := { x with layout := Assoc.set 0 k (BitVec.ofNat 512 v) x.layout }

/-- Ring entry b: configuration word in [63:0], state word in [127:64] (R185). -/
def Tile.readRing (x : Tile) (b : Nat) : Nat := (Assoc.get 0 b x.rings).toNat

/-- Ring entry b written. -/
def Tile.writeRing (x : Tile) (b v : Nat) : Tile := { x with rings := Assoc.set 0 b (BitVec.ofNat 128 v) x.rings }

/-! ### The launch header in force (Table 10-5) -/

/-- A field of a launch header: word w, bits [lo+len-1 : lo]. -/
def hdrField (h : BitVec 1024) (w lo len : Nat) : Nat := bits h.toNat (64 * w + lo) len

/-- The header of the tile's point; all zero where it runs none. -/
def Tile.hdr (x : Tile) : BitVec 1024 := match x.point with | some p => p.hdr | none => 0

def Tile.codeRow (x : Tile) : Nat := hdrField x.hdr 4 20 14
def Tile.ncode (x : Tile) : Nat := hdrField x.hdr 4 34 14
def Tile.wlRow (x : Tile) : Nat := hdrField x.hdr 5 0 14
def Tile.nwl (x : Tile) : Nat := hdrField x.hdr 5 14 14
def Tile.isList (x : Tile) : Bool := x.point.isSome && hdrField x.hdr 0 0 1 == 1
def Tile.tctx (x : Tile) : Nat := hdrField x.hdr 13 0 16

/-- Slip depth D (R71). -/
def Tile.slipD (x : Tile) : Nat := hdrField x.hdr 0 4 4 + 1

/-! ### Scratchpad -/

def rowBytes : Nat := 256
def spBytes : Nat := 2 ^ 22

/-- Byte address of the slot at a word address (R46). -/
def Tile.slotByte (x : Tile) (a : Nat) : Nat := 256 * (x.codeRow + a / 21) + 12 * (a % 21)

/-- Whether a word address lies in the code-row range (R46). -/
def Tile.inCode (x : Tile) (a : Nat) : Bool := a < 21 * x.ncode

/-- The slot at a word address as the scratchpad holds it (R46). -/
def Tile.slotAt (x : Tile) (a : Nat) : Slot := BitVec.ofNat 96 (Memory.readLE x.sp (x.slotByte a) 12)

/-- The word addresses of the slots of a row, where it is a code row. -/
def Tile.slotsOfRow (x : Tile) (r : Nat) : List Nat :=
  if x.codeRow ≤ r ∧ r < x.codeRow + x.ncode then (List.range 21).map fun i => 21 * (r - x.codeRow) + i else []

/-- Before a write to bytes of a row, those of which `on` holds: its slots of which it writes a byte, as they are, may still be decoded, each
of up to 64 decodes once the write is performed, until IFENCE (R300). -/
def Tile.noteCode (x : Tile) (r : Nat) (on : Nat → Bool) (need : CodeNeed) : Tile :=
  match (x.slotsOfRow r).filter fun a => (List.range 12).any fun j => on (x.slotByte a + j) with
  | [] => x
  | as => { x with codeOld := x.codeOld ++ [{ slots := as.map fun a => (a, x.slotAt a), left := 64, need := need }] }

/-- Writes to code rows of a kind become performed (R300). -/
def Tile.codeDone (x : Tile) (ok : CodeNeed → Bool) : Tile :=
  { x with codeOld := x.codeOld.map fun w => if ok w.need then { w with need := .none } else w }

/-! The parties of Table 15-1 as the marks of older contents number them. -/

/-- The ordinary domain of a tile, its channel in the engine domain, the host behind a master, and any other. -/
def ordParty (t : Nat) : Nat := 2 * t
def chanParty (t : Nat) : Nat := 2 * t + 1
def hostParty (m : Nat) : Nat := 4096 + m
def otherParty : Nat := 8191

/-- The number under which a tile's work list stands among its semaphores in a release by XAPND and its acquire by WPOP (R315, R316). -/
def listSem : Nat := 256

/-- The number of a ring slot among them, in the release by which an RREL.f completes and its acquire by RACQ.d (R189). -/
def ringSem (b i : Nat) : Nat := 260 + 16 * b + i

/-- The number, among what hosts acquire, of semaphore n of tile t, and of the completion of a launch (R298, R24). -/
def hostSem (t n : Nat) : Nat := 1024 * (t + 1) + n
def doneSem (seq : Nat) : Nat := 2 ^ 21 + seq

/-- The bytes that a key names: the space, the first byte, and how many (R291). -/
def keySpan (key : Nat × Nat) : Nat × Nat × Nat :=
  let space := key.1 % 2 ^ 20
  let k := key.1 / 2 ^ 20
  let n := if k = 0 then (if space = 0 then 256 else 64) else 2 ^ (k - 1)
  (space, n * key.2, n)

/-- An access touches a byte of a key's. -/
def Trail.meets (w : Trail) (key : Nat × Nat) : Bool :=
  let (space, a, n) := keySpan key
  w.space == space && decide (w.at_ < a + n) && decide (a < w.at_ + w.n)

/-- All that it touches are bytes of a key's. -/
def Trail.inside (w : Trail) (key : Nat × Nat) : Bool :=
  let (space, a, n) := keySpan key
  w.space == space && decide (a ≤ w.at_) && decide (w.at_ + w.n ≤ a + n)

/-- Two accesses share a byte. -/
def Trail.overlaps (v w : Trail) : Bool := v.space == w.space && decide (v.at_ < w.at_ + w.n) && decide (w.at_ < v.at_ + v.n)

/-- An access is noted among those of the present item (log 4). -/
def State.note (s : State) (ws : List Trail) : State := { s with trail := s.trail ++ ws }

/-- What the present item has noted is not performed by it. -/
def State.forget (s : State) : State := { s with trail := [] }

/-- Bytes of tile t's scratchpad in an access. -/
def spTrail (write : Bool) (t a n : Nat) : Trail := { write := write, space := 0, at_ := t * 2 ^ 22 + a, n := n }

/-- Tile t's ordinary domain has read rows. -/
def State.noteRows (s : State) (t : Nat) (rows : List Nat) : State := s.note (rows.map fun q => spTrail false t (256 * q) 256)

/-- Contents kept of some bytes by one reader are no longer read: the oldest of them. -/
def dropOld (chan : Bool) (key : Nat × Nat) (l : List OldCopy) : List OldCopy := l.eraseP fun c => c.chan == chan && c.key == key

/-- A release has reached semaphore n of this tile: the marks it covers, each with the scope that its bytes need, or none (R295). -/
def Tile.released (x : Tile) (n : Nat) (need : Nat × Nat → CopyMark → Option Nat) (row : Nat × Nat) : Tile :=
  let mark (key : Nat × Nat) (m : CopyMark) : CopyMark :=
    match need key m with
    | some s => { m with rel := (n, s) :: m.rel }
    | none => m
  { x with
    copies := x.copies.map fun c => { c with marks := c.marks.map (mark c.key) }
    codeOld := x.codeOld.map fun w => { w with need := match w.need with | .acquire m => .acquire (mark row m) | r => r } }

/-- A mark has been released on a semaphore at a scope that an acquire's scope contains (R295). -/
def CopyMark.covered (m : CopyMark) (n scope : Nat) : Bool := m.rel.any fun r => r.1 == n && r.2 ≤ scope

/-- Further accesses no longer find contents that were kept, where a release on semaphore n at a scope has ordered a write to them. -/
def OldCopy.endBy (c : OldCopy) (n scope : Nat) (rs : List Ended) : OldCopy :=
  if c.marks.any fun m => m.covered n scope then { c with ended := c.ended ++ rs } else c

/-- The ordinary accesses that follow a word of the S engine: of words forwarded later, and its own. -/
def Tile.laterOrd (x : Tile) : List Ended := [{ eng := .L, lo := 2048 * x.seqNext }, { eng := .S, lo := 1 }]

/-- All accesses that follow it: those of X words forwarded later too (R294). -/
def Tile.laterAll (x : Tile) : List Ended := { eng := .X, lo := x.xq } :: x.laterOrd

/-- Code rows written before a release that an acquire on semaphore n at a scope has observed are performed for the tile (R300). -/
def Tile.codeAcquired (x : Tile) (n scope : Nat) : Tile :=
  x.codeDone fun r => match r with | .acquire m => m.covered n scope | _ => false

/-- An acquire by the S engine on semaphore n at a scope: every access forwarded after it finds what a release on it has ordered (R294,
R295), and so do code rows (R300). -/
def Tile.acquired (x : Tile) (n scope : Nat) : Tile :=
  let y : Tile := { x with copies := x.copies.map fun c => c.endBy n scope x.laterAll }
  y.codeAcquired n scope

/-- A RACQ.d has bound a ring slot whose RREL.f has completed: the ordinary accesses forwarded after it find what that ordered (R189). -/
def Tile.ringAcquired (x : Tile) (b i : Nat) : Tile :=
  { x with copies := x.copies.map fun c => if c.chan then c else c.endBy (ringSem b i) 0 x.laterOrd }

/-- The same for XWAIT, X word q, which orders the younger commands of its channel alone (R294). -/
def Tile.chanAcquired (x : Tile) (q n scope : Nat) : Tile :=
  { x with copies := x.copies.map fun c => if c.chan then c.endBy n scope [{ eng := .X, lo := q + 1 }] else c }

/-- The places of a section's accesses: numbers of X words, or places in the forwarding order. -/
def Section.span (c : Section) : Ended :=
  let q := match c.words with | w :: _ => w.cap.q | [] => 0
  if c.eng = .X then { eng := .X, lo := q, hi := some (q + c.words.length) }
  else { eng := c.eng, lo := 2048 * c.seq, hi := some (2048 * (c.seq + 1)) }

/-- One of some sections is that of an acquire that has ordered a write there. -/
def OldCopy.follows (named : List Nat) (c : OldCopy) : Bool :=
  c.ended.any fun i => match i.sec with | some q => named.contains q | none => false

/-- A section whose header names some sections, an acquire's among them, no longer finds what the acquire has ordered (R294). -/
def OldCopy.follow (named : List Nat) (r : Ended) (c : OldCopy) : OldCopy :=
  if c.follows named then { c with ended := c.ended ++ [r] } else c

/-- The same for an S section that begins: its words (from place 0), and no longer those of an earlier one. -/
def OldCopy.beginS (named : List Nat) (c : OldCopy) : OldCopy :=
  OldCopy.follow named { eng := .S, lo := 0 } { c with ended := c.ended.filter fun r => r.eng != .S || r.lo != 0 }

/-- An access of engine e at a place no longer finds contents that were kept. -/
def OldCopy.endedFor (c : OldCopy) (e : Engine) (p : Nat) : Bool :=
  c.ended.any fun r => r.eng == e && decide (r.lo ≤ p) && match r.hi with | some h => decide (p < h) | none => true

/-- A FENCE over a class mask has retired: the ordinary accesses behind it find the writes of its classes (R302). -/
def Tile.fenced (x : Tile) (t mask : Nat) : Tile :=
  { x with copies := x.copies.map fun c => { c with
      marks := c.marks.map fun m => if m.party == ordParty t && bit mask m.cls then { m with fenced := m.fenced ||| mask } else m } }

/-- XFENCE over a class mask has retired: commands forwarded after it find the tile's stores of its classes (R303). -/
def Tile.xfenced (x : Tile) (t mask : Nat) : Tile :=
  { x with copies := x.copies.map fun c =>
      if c.chan && c.marks.any (fun m => m.party == ordParty t && bit mask m.cls) then { c with ended := c.ended ++ [{ eng := .X, lo := x.xq }] }
      else c }

/-- Contents kept by a reader, without those older than a write of tile t. -/
def withoutOf (t : Nat) (l : List OldCopy) : List OldCopy :=
  l.filter fun c => !c.marks.any fun m => m.party == ordParty t || m.party == chanParty t

/-- What tile t's words and commands have written is performed at module scope (R23, R290, R305): no tile reads what was there before. -/
def State.moduleDone (s : State) (t : Nat) : State :=
  s.mapTiles fun x => { x with copies := withoutOf t x.copies }

/-- The least scope of a semaphore's home u that contains a party, and some bytes by their key (Table 15-2, R295). -/
def State.partyScope (s : State) (u party : Nat) : Nat := if party < 4096 then s.scopeOf u (party / 2) else 3
def State.keyScope (s : State) (u : Nat) (key : Nat × Nat) : Nat :=
  let k := keySpan key
  if k.1 = 0 then s.scopeOf u (k.2.1 / 2 ^ 22) else if k.1 = 1 then 2 else 3

/-- What hosts keep, once a release of the writes that `covers` names has reached what they acquire under number n. -/
def State.releaseHost (s : State) (n : Nat) (covers : CopyMark → Bool) : State :=
  { s with hostOld := s.hostOld.map fun c => { c with
      marks := c.marks.map fun m => if covers m then { m with rel := (n, 3) :: m.rel } else m } }

/-- A host's acquire under number n: no host reads what a release there has ordered as it was before (R24, R298). -/
def State.hostAcquired (s : State) (n : Nat) : State :=
  { s with hostOld := s.hostOld.filter fun c => !c.marks.any fun m => m.covered n 3 }

/-- A release of the writes that `covers` names reaches semaphore n of tile u: those whose party, and whose bytes, its scope contains
(R294, R295); one at system scope reaches the hosts (R298). -/
def State.releaseTo (s : State) (u n scope : Nat) (covers : CopyMark → Bool) : State :=
  let s1 := s.setTile u ((s.tile u).released n (fun key m =>
    let need := max (s.keyScope u key) (s.partyScope u m.party)
    if covers m && need ≤ scope then some need else none) (0, u * 2 ^ 14))
  if scope = 3 then s1.releaseHost (hostSem u n) covers else s1

/-- A release by tile t's ordinary domain, by its channel's X words that `ok` names, which follow an XFENCE of what the tile has stored,
and by a host. -/
def CopyMark.byTile (t : Nat) (m : CopyMark) : Bool := m.party == ordParty t
def CopyMark.byChan (t : Nat) (ok : Nat → Bool) (m : CopyMark) : Bool := m.party == ordParty t || (m.party == chanParty t && ok m.key)
def CopyMark.byHost (n : Nat) (m : CopyMark) : Bool := m.party == hostParty n

/-- What the completion of an RREL orders (R189): the stores of the sections forwarded before it, and the writes of the first xq X words. -/
def CopyMark.byRing (t q xq : Nat) (m : CopyMark) : Bool :=
  (m.party == ordParty t && m.key % 2 == 0 && decide (m.key < 2048 * q)) || (m.party == chanParty t && decide (m.key < xq))

/-- Bytes written by the tile's ordinary domain at a scratchpad address where their flags are set, within one row (R203). -/
def Tile.writeRow (x : Tile) (a : Nat) (need : CodeNeed) (bs : List (Byte × Bool)) : Tile :=
  let x' := x.noteCode (a / 256) (fun b => decide (a ≤ b) && (bs.getD (b - a) (0, false)).2) need
  { x' with sp := Memory.writeMasked x'.sp a bs }

/-- Bytes written at a scratchpad address within one row. -/
def Tile.writeBytes (x : Tile) (a : Nat) (need : CodeNeed) (bs : List Byte) : Tile :=
  let x' := x.noteCode (a / 256) (fun b => decide (a ≤ b) && decide (b < a + bs.length)) need
  { x' with sp := Memory.writeN x'.sp a bs }

/-- Bytes written by a move element of X word q of a tile's channel within one row. -/
def Tile.moveBytes (x : Tile) (a writer q : Nat) (bs : List Byte) : Tile :=
  x.writeBytes a (.acquire { party := chanParty writer, key := q }) bs

/-- The bytes of the scratchpad from an address up. -/
def Tile.readBytes (x : Tile) (a n : Nat) : List Byte := Memory.readN x.sp a n

/-- Semaphore n: bytes [4(n mod 64)+3 : 4(n mod 64)] of row n div 64 (R204). -/
def Tile.sem (x : Tile) (n : Nat) : Nat := Memory.readLE x.sp (4 * n) 4

/-- Semaphore n set. -/
def Tile.setSem (x : Tile) (n v : Nat) : Tile := { x with sp := Memory.writeLE x.sp (4 * n) 4 v }

/-! ### Performance counters (R336) -/

/-- Every counter whose event code is in force for this event adds n, modulo 2^48. -/
def Tile.count (x : Tile) (code n : Nat) : Tile :=
  if code = 0 then x else { x with pcs := (List.range 8).foldr (fun k l =>
      if bits x.perfSel.toNat (8 * k) 8 = code then
        Assoc.set 0 k (Assoc.get 0 k l + BitVec.ofNat 48 n) l else l) x.pcs }

/-- Why engine e waits; 0 when it does not. -/
def Tile.waitWhy (x : Tile) (e : Engine) : Nat := Assoc.get 0 e.code x.waits

/-- The engine stands at a waiting word, or no longer does when why is 0. -/
def Tile.setWait (x : Tile) (e : Engine) (why : Nat) : Tile := { x with waits := Assoc.set 0 e.code why x.waits }

/-! ### Sections and accesses that have not ended -/

/-- Whether the section of this sequence number has not retired: words to issue, results to write, or commands in the channel
(R68, R131, R242). -/
def Tile.live (x : Tile) (q : Nat) : Bool :=
  x.secs.any (fun c => c.seq == q) || x.inflight.any (fun c => c.seq == q) || x.late.any (fun c => c.seq == q) ||
    x.chan.any (fun c => c.seq == q)

/-- Whether a section has issued all its words and everything it issued has ended. -/
def Tile.ended (x : Tile) (c : Section) : Bool :=
  c.started && c.idx ≥ c.words.length && !(x.inflight.any fun i => i.seq == c.seq) &&
    !(x.late.any fun i => i.seq == c.seq) && !(x.chan.any fun i => i.seq == c.seq)

/-- Nothing the S engine forwarded is still to retire (R69). -/
def Tile.drained (x : Tile) : Bool := x.secs.isEmpty && x.inflight.isEmpty && x.late.isEmpty && x.chan.isEmpty

/-- Nothing the S engine forwarded is still to retire, and every write is performed (R23, R305). -/
def Tile.settled (x : Tile) : Bool := x.drained && x.rowsOut.isEmpty

/-- Sections that have ended leave (R68). -/
def Tile.sweep (x : Tile) : Tile := { x with secs := x.secs.filter fun c => !x.ended c }

/-- The section an engine runs or runs next: the first with words to issue (R68). -/
def Tile.headSec (x : Tile) (e : Engine) : Option Section :=
  x.secs.find? fun c => c.eng == e && c.idx < c.words.length

/-- The sections of an engine that count against its queue (R308). -/
def Tile.queued (x : Tile) (e : Engine) : List Section :=
  x.secs.filter fun c => c.eng == e && (e != .X || c.idx < c.words.length)

/-- The section of a sequence number replaced. -/
def Tile.setSec (x : Tile) (q : Nat) (f : Section → Section) : Tile :=
  { x with secs := x.secs.map fun c => if c.seq == q then f c else c }

/-- The ordering class of a VM word of the L or W engine (Table 03-8). -/
def FwdWord.vmClass? (e : Engine) (w : FwdWord) : Option Nat :=
  if (e == .L || e == .W) && bits w.slot.toNat 86 7 < 0x70 then some (bits w.slot.toNat 12 4) else none

/-- The class mask of an engine form of FENCE (R301). -/
def FwdWord.fenceMask? (w : FwdWord) : Option Nat :=
  if bits w.slot.toNat 86 7 == 0x78 then some (bits w.slot.toNat 50 16) else none

/-- The layout entry a VM word names (Table 03-8). -/
def FwdWord.vmLay? (e : Engine) (w : FwdWord) : Option Nat :=
  if (e == .L || e == .W) && bits w.slot.toNat 86 7 < 0x70 then some (bits w.slot.toNat 50 8) else none

/-- The bits of a guard name that its word may find (Table 03-13): a lane predicate other than p0 may still change. -/
def FwdWord.guardBits (e : Engine) (w : FwdWord) (n : Nat) : List Bool :=
  if e == .L || e == .A || e == .W then
    (if n = 0 then [true] else if n < 8 then [false, true] else [w.cap.preds.getLsbD n])
  else [w.cap.preds.getLsbD n]

/-- The lane predicates that an A or L word names as destinations, p0 left out (Tables 03-5 to 03-8). -/
def FwdWord.pDests (e : Engine) (w : FwdWord) : List Nat :=
  let fn := bits w.slot.toNat 86 7
  (match e with
   | .A => if (0x38 ≤ fn && fn < 0x40) || (0x60 ≤ fn && fn < 0x70) then [bits w.slot.toNat 63 3, bits w.slot.toNat 60 3] else []
   | .L => if fn = 4 then [bits w.slot.toNat 58 3] else []
   | _ => []).filter (· != 0)

/-- A predicate of the L, A and W name space of Table 03-13, a bit for each lane. -/
def Tile.lanePred (x : Tile) (cap : Capture) (n : Nat) : PMask :=
  if n < 8 then x.readP n else if cap.preds.getLsbD n then BitVec.allOnes 1024 else 0

/-- The lanes at which a truth table over three lane predicates holds. -/
def ttMask (tt : Nat) (a b c : PMask) : PMask :=
  (List.range 8).foldr (fun i acc =>
    if bit tt i then
      acc ||| ((if bit i 2 then a else ~~~a) &&& (if bit i 1 then b else ~~~b) &&& (if bit i 0 then c else ~~~c))
    else acc) 0

/-- The enabled lanes of an L, A or W word. -/
def Tile.lanes (x : Tile) (cap : Capture) (g : Guard) : PMask :=
  ttMask g.tt.toNat (x.lanePred cap g.ga.toNat) (x.lanePred cap g.gb.toNat) (x.lanePred cap g.gc.toNat)

/-- A forwarded word is void whatever its lane predicates will be (R59). -/
def FwdWord.sureVoid (e : Engine) (w : FwdWord) : Bool :=
  let g := Guard.ofSlot w.slot
  !(w.guardBits e g.ga.toNat).any fun a => (w.guardBits e g.gb.toNat).any fun b => (w.guardBits e g.gc.toNat).any fun c =>
    bit g.tt.toNat (4 * ofBool a + 2 * ofBool b + ofBool c)

/-- A place in the forwarding order of the tile: that of the next word of section q, or of the S engine, which lies behind every
section forwarded (R124, R302). -/
def Tile.posOf (x : Tile) (q : Nat) (e : Engine) : Nat :=
  if e = .S then 2048 * x.seqNext + 1
  else 2048 * q + 2 * (match x.secs.find? fun c => c.seq == q with | some c => c.idx | none => 0) + 2

/-- Words that have been forwarded and have not executed, with their engines and places. -/
def Tile.openWords (x : Tile) : List (Nat × Engine × FwdWord) :=
  x.secs.flatMap fun c => (c.words.drop c.idx).zipIdx.map fun w => (2048 * c.seq + 2 * (c.idx + w.2) + 2, c.eng, w.1)

/-- Lane predicate n stays as it is until every word forwarded has executed: none of them writes it, and nothing issued does. -/
def Tile.fixedP (x : Tile) (n : Nat) : Bool :=
  n == 0 || 8 ≤ n ||
    !((x.openWords.any fun w => (w.2.2.pDests w.2.1).contains n) || x.inflight.any (fun i => i.kind == .entry 4) ||
      x.late.any fun w => w.outs.any fun o => match o with | .prow k _ _ => k == n | _ => false)

/-- A forwarded word of the L, A or W engine will be void: whatever its lane predicates will be, or because those that its guard names
stay as they are; `one` where the guard is the single value of lane 0 (R59, R301). -/
def Tile.voidYet (x : Tile) (e : Engine) (w : FwdWord) (one : Bool) : Bool :=
  let g := Guard.ofSlot w.slot
  w.sureVoid e || ((e == .L || e == .A || e == .W) && x.fixedP g.ga.toNat && x.fixedP g.gb.toNat && x.fixedP g.gc.toNat &&
    if one then !(x.lanes w.cap g).getLsbD 0 else x.lanes w.cap g == 0)

/-- The feeding word at which the L engine stands has read its rows and waits to push them (R309). -/
def Tile.feedRead (x : Tile) (p : Nat) : Bool :=
  x.lPush.isSome && match x.headSec .L with | some c => p == 2048 * c.seq + 2 * c.idx + 2 | none => false

/-- Ordinary accesses that have been forwarded and have not performed, as place and class (R206): of words that have not executed, and
row accesses of stores on their way. -/
def Tile.openAccesses (x : Tile) : List (Nat × Nat) :=
  (x.openWords.filterMap fun w =>
    if x.feedRead w.1 || x.voidYet w.2.1 w.2.2 false then none else (w.2.2.vmClass? w.2.1).map fun k => (w.1, k)) ++
    (x.rowsOut.map fun r => (r.pos, r.cls)) ++ x.inflight.filterMap fun i => i.row

/-- Engine forms of FENCE that have been forwarded and have not retired, as place and mask; a void one orders nothing (R301). -/
def Tile.openFences (x : Tile) : List (Nat × Nat) :=
  x.openWords.filterMap fun w => if x.voidYet w.2.1 w.2.2 true then none else w.2.2.fenceMask?.map fun k => (w.1, k)

/-- A row write that software has put into a dump record is still to be made: it has no class (Table 20-4). -/
def Tile.rowEntry (x : Tile) : Bool := x.inflight.any fun i => i.kind == .entry 5 && i.row.isNone

/-- Some access before a place, of a class in the mask, has not performed. -/
def Tile.openAt (x : Tile) (p mask : Nat) : Bool :=
  (mask != 0 && x.rowEntry) || x.openAccesses.any fun a => a.1 < p && bit mask a.2

/-- Some access forwarded before the word of engine e in section q, of a class in the mask, has not performed. -/
def Tile.openBefore (x : Tile) (q : Nat) (e : Engine) (mask : Nat) : Bool := x.openAt (x.posOf q e) mask

/-- An access of class k by engine e in section q waits: an earlier access of its class has not performed (R206), or an earlier
FENCE of its class waits for an access forwarded before it (R302). -/
def Tile.classHold (x : Tile) (q : Nat) (e : Engine) (k : Nat) : Bool :=
  x.openBefore q e (2 ^ k) || x.openFences.any fun f => f.1 < x.posOf q e && bit f.2 k && x.openAt f.1 f.2

/-- An acquire on semaphore n at a scope by the word of engine e at which its section q stands: it orders the later words of its engine and
the sections whose header names q (R294), and what it covers of code rows has been performed for the tile (R300). An S word orders all
that follows. -/
def Tile.acquiredBy (x : Tile) (e : Engine) (q n scope : Nat) : Tile :=
  if e = .S then x.acquired n scope
  else
    let rs : List Ended := { eng := e, lo := x.posOf q e + 1, sec := some q } :: (x.secs.filter fun d => d.deps.contains q).map Section.span
    let y : Tile := { x with copies := x.copies.map fun c => c.endBy n scope rs }
    y.codeAcquired n scope

/-- A load of engine e and of a class, at a place in the forwarding order, may still find contents that the ordinary domain of tile t has
kept: no acquire orders it behind a write there (R294), and every such write is another party's, or a store of another class that no
FENCE orders before it (R206, R293, R302). -/
def Tile.mayFind (x : Tile) (t : Nat) (e : Engine) (cls pos : Nat) (c : OldCopy) : Bool :=
  !c.endedFor e pos && c.marks.all fun m => m.party != ordParty t || (m.cls != cls && !bit m.fenced cls &&
    !x.openFences.any fun f => f.1 < pos && m.key < f.1 && bit f.2 cls && bit f.2 m.cls)

/-- The scratchpad as a load of the ordinary domain of tile t reads it: the oldest that it may find of what was kept of a row stands for the
row (R296). -/
def Tile.ordinary (x : Tile) (t : Nat) (e : Engine) (cls pos : Nat) : Tile :=
  let old := x.copies.filter fun c => !c.chan && x.mayFind t e cls pos c
  { x with sp := old.foldr (fun c m => Memory.writeN m (256 * (c.key.2 % 2 ^ 14)) c.bytes) x.sp }

/-- A sequence number later than every section forwarded: the position of the S engine (R124, R302). -/
def Tile.nowSeq (x : Tile) : Nat := x.seqNext

/-! ### Loop records and generations (R71, R89) -/

def kValid (k : BitVec 128) : Bool := k.getLsbD 127
def kRec (k : BitVec 128) : Bool := k.getLsbD 126
def kStg (k : BitVec 128) : Nat := bits k.toNat 123 3
def kExit (k : BitVec 128) : Nat := bits k.toNat 84 20
def kBody (k : BitVec 128) : Nat := bits k.toNat 64 20
def kIdx (k : BitVec 128) : Nat := bits k.toNat 32 32
def kLim (k : BitVec 128) : Nat := bits k.toNat 0 32

/-- A loop-index stack entry from its fields (Table 05-2). -/
def kMake (rec : Bool) (stg exit body idx lim : Nat) : BitVec 128 :=
  BitVec.ofNat 128 (2 ^ 127 + ofBool rec * 2 ^ 126 + stg % 8 * 2 ^ 123 + exit % 2 ^ 20 * 2 ^ 84 + body % 2 ^ 20 * 2 ^ 64 +
    idx % 2 ^ 32 * 2 ^ 32 + lim % 2 ^ 32)

/-- The active loop records, innermost first, by instance with their counts (R71). -/
def Tile.records (x : Tile) : List (Nat × Nat) :=
  ((x.kIds.zip x.ks).filter fun p => kRec p.2).map fun p => (p.1, kIdx p.2)

/-- The instance of the innermost active loop record. -/
def Tile.inner (x : Tile) : Option Nat := x.records.head?.map fun p => p.1

/-- The generation tag of a section forwarded now (R71). -/
def Tile.tagNow (x : Tile) : Nat := match x.records with | [] => 0 | (_, n) :: _ => n % 256

/-- A section's generation relative to record instance id (R71). -/
def Section.relGen (c : Section) (id : Nat) : Int :=
  match c.gens.find? (fun p => p.1 == id) with
  | some (_, n) => n
  | none => -1

/-- The slip rule holds forwarding back (R71): sections alone hold it, not restored commands (log 68). -/
def Tile.slipHold (x : Tile) : Bool :=
  match x.records with
  | [] => false
  | (id, g) :: _ => x.secs.any fun c => decide (c.relGen id ≤ (g : Int) - x.slipD)

end Sys2Proof.Machine
end

