-- ==== Sys2Proof/Machine/Walk.lean ====
section
/-! DEFINITION. Module memory with its write-queue entries (R219, R237) and undo logs (R379), the page-table walk (R221-R224,
R406), and the launch processor's accesses by virtual address. -/

namespace Sys2Proof.Machine

/-! ### Physical memory -/

/-- Where a byte of module memory lies (R219): transfer die T`die`, stack H`stack`, channel of the stack, and place in the channel. -/
structure Granule where
  die : Nat
  stack : Nat
  ch : Nat
  loc : Nat
  deriving DecidableEq, Repr

/-- PlaceGranule (R219). -/
def placeGranule (pa : Nat) : Granule :=
  let g := pa / 4096
  let n := bits g 0 3 ^^^ bits g 3 3 ^^^ bits g 6 3
  let c := bits g 3 6
  { die := n, stack := 2 * n + c / 32, ch := c % 32, loc := g / 512 * 4096 + pa % 4096 }

/-- The die that serves a line. -/
def dieOfLine (line : Nat) : Nat := (placeGranule (line * 64)).die

/-- A byte of module memory as a read sees it: a pending write-queue entry first (R237); addresses above 768 GiB hold nothing. -/
def State.readPA1 (s : State) (pa : Nat) : Byte :=
  match Tab.get? (pa / 64) (s.die (dieOfLine (pa / 64))).wq with
  | some l => BitVec.ofNat 8 (elemNat 8 l.toNat (pa % 64))
  | none => if pa < Config.memBytes then Memory.read s.mem pa else 0

/-- n bytes of module memory. -/
def State.readPA (s : State) (pa : Nat) : Nat → List Byte
  | 0 => []
  | n + 1 => s.readPA1 pa :: State.readPA s (pa + 1) n

/-- The 64 bytes of a line. -/
def State.readLine (s : State) (line : Nat) : BitVec 512 := BitVec.ofNat 512 (ofBytes (s.readPA (64 * line) 64))

/-- A byte of module memory written: into the pending entry where the line has one (R237). -/
def State.writePA1 (s : State) (pa : Nat) (b : Byte) : State :=
  let d := dieOfLine (pa / 64)
  match Tab.get? (pa / 64) (s.die d).wq with
  | some l =>
    let i := 8 * (pa % 64)
    let l' := l.toNat - bits l.toNat i 8 * 2 ^ i + b.toNat * 2 ^ i
    s.setDie d { s.die d with wq := Tab.put (pa / 64) (BitVec.ofNat 512 l') (s.die d).wq }
  | none => if pa < Config.memBytes then { s with mem := Memory.write s.mem pa b } else s

/-- Bytes of module memory written, lowest address first, with no log entry. -/
def State.pokePA (s : State) (pa : Nat) : List Byte → State
  | [] => s
  | b :: bs => State.pokePA (s.writePA1 pa b) (pa + 1) bs

/-- The 8-byte little-endian word at a physical address. -/
def State.wordPA (s : State) (pa : Nat) : Nat := ofBytes (s.readPA pa 8)

/-! ### Undo logs (R338, R379) -/

def undoMax : Nat := 2 ^ 30
def undoEarlyAt : Nat := 0x30000000

/-- The old contents of a line logged before its first write of the interval; none when the log is full and the write waits. -/
def State.logLine (s : State) (slot line : Nat) : Option State :=
  let d := dieOfLine line
  let x := s.die d
  if x.undoLines.contains line then some s
  else if x.undoUsed + 72 > undoMax then none
  else
    let entry := toBytes 8 (64 * line % 2 ^ 40 + slot % 64 * 2 ^ 40) ++ s.readPA (64 * line) 64
    let s1 := s.pokePA (x.undoBase.toNat + x.undoUsed) entry
    let y := s1.die d
    let early := decide (y.undoUsed + 72 ≥ undoEarlyAt)
    some { s1.setDie d { y with undoUsed := y.undoUsed + 72, undoLines := line :: y.undoLines,
                                undoEarly := y.undoEarly || early } with
           markAsked := s1.markAsked || early }

/-- The lines a run of bytes touches. -/
def linesOf (pa n : Nat) : List Nat :=
  if n = 0 then [] else (List.range ((pa + n - 1) / 64 - pa / 64 + 1)).map fun i => pa / 64 + i

/-- Every line of a list logged. -/
def State.logLines (s : State) (slot : Nat) : List Nat → Option State
  | [] => some s
  | l :: ls => (s.logLine slot l).bind fun s' => State.logLines s' slot ls

/-- Bytes of module memory written; a writer of a checkpointed launch logs the old lines first (R379), and waits (none) while
the log is full. -/
def State.writePA (s : State) (log : Option Nat) (pa : Nat) (bs : List Byte) : Option State :=
  match log with
  | none => some (s.pokePA pa bs)
  | some slot => (s.logLines slot (linesOf pa bs.length)).map fun s' => s'.pokePA pa bs

/-! ### Translation -/

/-- Where an access lands. -/
inductive Place where
  | mem (pa : Nat)
  | host (port addr : Nat)
  | far (modnum pa : Nat)
  deriving DecidableEq, Repr

/-- The space and the first byte of a place, as `Trail` numbers them. -/
def Place.spaceAt : Place → Nat × Nat
  | .mem pa => (1, pa)
  | .host port a => (2 + port, a)
  | .far m pa => (16 + m, pa)

inductive Access where
  | read | write | atomic
  deriving DecidableEq, Repr

/-- A leaf: its page-table entry, log2 of its page size, and the port of its context's host pages. -/
structure Leaf where
  pte : Nat
  lg : Nat
  port : Nat
  deriving DecidableEq, Repr

def pteV (e : Nat) : Bool := bit e 0
def pteR (e : Nat) : Bool := bit e 1
def pteW (e : Nat) : Bool := bit e 2
def pteLeaf (e : Nat) : Bool := bit e 3
def pteHost (e : Nat) : Bool := bit e 4
def pteMig (e : Nat) : Bool := bit e 5
def pteCnt (e : Nat) : Bool := bit e 6
def pteTol (e : Nat) : Bool := bit e 7
def pteFrame (e : Nat) : Nat := bits e 16 48 * 65536

/-- A context's descriptor (Table 12-1). -/
def State.readDesc (s : State) (ctx : Nat) : BitVec 512 :=
  BitVec.ofNat 512 (ofBytes (s.readPA (s.ctl.ctxBase.toNat + 64 * ctx) 64))

/-- The walk of R223 from level lvl down, at the table whose address is given; a fault is its kind. -/
def State.walkGo (s : State) (va port : Nat) : (lvl : Nat) → (table : Nat) → Except Nat Leaf
  | 0, _ => .error 4
  | lvl + 1, table =>
    let idx := bits va (16 + 13 * lvl) 13
    if table + 8 * idx + 8 > Config.memBytes then .error 4
    else
      let e := s.wordPA (table + 8 * idx)
      if !pteV e then .error 1
      else if pteLeaf e then
        let lg := 16 + 13 * lvl
        if pteFrame e % 2 ^ lg ≠ 0 then .error 4
        else if !pteHost e && pteFrame e + 2 ^ lg > Config.memBytes then .error 4
        else .ok ⟨e, lg, port⟩
      else if lvl = 0 then .error 4
      else State.walkGo s va port lvl (pteFrame e)

/-- The walk of R223 with a descriptor: the leaf, before the checks of R224. -/
def State.walk (s : State) (desc : BitVec 512) (va : Nat) : Except Nat Leaf :=
  let d := desc.toNat
  if !bit d 256 then .error 1
  else
    let e := bits d (64 * bits va 55 2) 64
    if !pteV e then .error 1
    else if pteLeaf e then .error 4
    else s.walkGo va (bits d 257 1) 3 (pteFrame e)

/-- The checks of R224, in its order. -/
def checkLeaf (e : Nat) (k : Access) : Option Nat :=
  if k == .atomic && pteHost e then some 6
  else if !pteR e && (k == .read || k == .atomic) then some 2
  else if !pteW e && (k == .write || k == .atomic) then some 3
  else none

/-- Where a leaf sends a virtual address (R223, R227, R406). -/
def Leaf.place (l : Leaf) (va : Nat) : Place :=
  let a := pteFrame l.pte + va % 2 ^ l.lg
  if !pteHost l.pte then .mem a
  else if bits l.pte 56 8 == 0xFE then .far (bits l.pte 40 16) (bits a 0 40)
  else .host l.port a

/-- The leaf of context 0, which is physical (R222): readable, writable, neither counted nor migrating. -/
def physLeaf (va : Nat) : Except Nat Leaf :=
  if va < Config.memBytes then .ok ⟨va / 65536 * 65536 + 0xF, 16, 0⟩ else .error 4

/-- A fresh walk in a context, with its checks: the launch processor's own, and what a transfer die does on a miss. -/
def State.translate (s : State) (ctx va : Nat) (k : Access) : Except Nat Leaf :=
  let va := va % 2 ^ 57
  if ctx = 0 then physLeaf va
  else match s.walk (s.readDesc ctx) va with
    | .error f => .error f
    | .ok l => match checkLeaf l.pte k with
      | some f => .error f
      | none => .ok l

/-- Key of a byte of host memory, and of a far module's memory. -/
def hostKey (port addr : Nat) : Nat := port * 2 ^ 64 + addr
def farKey (m pa : Nat) : Nat := m * 2 ^ 40 + pa

/-- Some link that is up reaches a module (R406). -/
def State.linkTo (s : State) (m : Nat) : Bool :=
  s.ctl.links.any fun l => l.2.toNat == 2 ^ 16 + m % 2 ^ 16

/-- A byte of a far module: what this module has written there, else the free value of log 7. -/
def State.farByte (s : State) (m pa : Nat) : Byte :=
  match Tab.get? (farKey m pa) s.farMem with
  | some b => b
  | none => Config.farByte m pa

/-- A far module gives its bytes (R406): a link that is up leads to it, the bytes lie in its module memory, and it does not refuse
(log 7). -/
def State.farReads (s : State) (m pa n : Nat) : Bool :=
  s.linkTo m && decide (pa + n ≤ Config.memBytes) && !Config.farRefuses m pa s.fresh

/-- The bytes at a place; none where a read of a remote page fails (kind 5, R406). -/
def State.readPlace (s : State) (p : Place) (n : Nat) : Option (List Byte) :=
  match p with
  | .mem pa => some (s.readPA pa n)
  | .host port a => some (Memory.readN s.hostMem (hostKey port a) n)
  | .far m pa => if s.farReads m pa n then some ((List.range n).map fun i => s.farByte m (pa + i)) else none

/-- Bytes written at a place; none while the undo log is full, or while no link that is up reaches a far module: the write is performed
when the far memory acknowledges it (R406), which it does for bytes it has (log 7). -/
def State.writePlace (s : State) (log : Option Nat) (p : Place) (bs : List Byte) : Option State :=
  match p with
  | .mem pa => s.writePA log pa bs
  | .host port a => some { s with hostMem := Memory.writeN s.hostMem (hostKey port a) bs }
  | .far m pa =>
    if s.linkTo m && pa + bs.length ≤ Config.memBytes then
      some { s with farMem := (bs.zipIdx).foldl (fun l b => Tab.put (farKey m (pa + b.2)) b.1 l) s.farMem }
    else none

/-- A run of bytes cut at 64 KiB pages: address and length of each piece. -/
def pagePieces : (fuel : Nat) → (va n : Nat) → List (Nat × Nat)
  | 0, _, _ => []
  | fuel + 1, va, n =>
    if n = 0 then []
    else
      let k := min n (65536 - va % 65536)
      (va, k) :: pagePieces fuel (va + k) (n - k)

/-- The pieces of a run of bytes. -/
def piecesOf (va n : Nat) : List (Nat × Nat) := pagePieces (n / 65536 + 2) va n

/-- The launch processor reads n bytes by virtual address; none where a page does not translate. -/
def State.readVA (s : State) (ctx va n : Nat) : Option (List Byte) :=
  (piecesOf va n).foldr (fun p acc =>
    match s.translate ctx p.1 .read with
    | .error _ => none
    | .ok l => match s.readPlace (l.place (p.1 % 2 ^ 57)) p.2, acc with
      | some bs, some r => some (bs ++ r)
      | _, _ => none) (some [])

/-- Whether every page of a run of bytes translates. -/
def State.mapped (s : State) (ctx va n : Nat) (k : Access) : Bool :=
  (piecesOf va n).all fun p => match s.translate ctx p.1 k with | .ok _ => true | .error _ => false

/-- The writes of a list of pieces, translated already; none while one must wait: on a page that migrates, to which nothing is written
until its leaf names the new frame (R234, R235), for the undo log, or for a link. -/
def State.writePieces (s : State) (log : Option Nat) (ctx : Nat) (bs : List Byte) : List (Nat × Nat) → Option State
  | [] => some s
  | p :: ps =>
    match s.translate ctx p.1 .write with
    | .error _ => none
    | .ok l =>
      if pteMig l.pte then none
      else match s.writePlace log (l.place (p.1 % 2 ^ 57)) (bs.take p.2) with
      | none => none
      | some s' => State.writePieces s' log ctx (bs.drop p.2) ps

/-- The launch processor writes bytes by virtual address; none where a page does not translate, or must be waited for, and nothing is then
written. -/
def State.writeVA (s : State) (log : Option Nat) (ctx va : Nat) (bs : List Byte) : Option State :=
  if s.mapped ctx va bs.length .write then s.writePieces log ctx bs (piecesOf va bs.length) else none

/-- The 8-byte word at a virtual address. -/
def State.wordVA (s : State) (ctx va : Nat) : Option Nat := (s.readVA ctx va 8).map ofBytes

end Sys2Proof.Machine
end

