-- ==== Sys2Proof/Machine/Rings.lean ====
section
/-! DEFINITION. The rings in module memory (R310, R311, R388, R395), the records written into them (R312, Tables 16-3, 20-2),
and MSI-X vectors. -/

namespace Sys2Proof.Machine

/-- The ring of a name. -/
def State.ring (s : State) : RingName → Ring
  | .fq => s.fq | .nq => s.nq | .tr => s.tr | .rl => s.rl

/-- The ring of a name replaced. -/
def State.setRing (s : State) (n : RingName) (r : Ring) : State :=
  match n with
  | .fq => { s with fq := r } | .nq => { s with nq := r } | .tr => { s with tr := r } | .rl => { s with rl := r }

/-- Bytes of a record (R310, R388, R395). -/
def ringSize : RingName → Nat
  | .nq => 16 | _ => 32

/-- Records in a ring, modulo 2^32. -/
def Ring.held (r : Ring) : Nat := (r.tail - r.head).toNat

/-- The ring is enabled and has room (R310). -/
def Ring.room (r : Ring) : Bool := r.en && decide (r.held < 2 ^ r.lg.toNat)

/-- Records that fit. -/
def Ring.free (r : Ring) : Nat := if r.en then 2 ^ r.lg.toNat - r.held else 0

/-- Physical address of record n (R310). -/
def Ring.slotPA (r : Ring) (size n : Nat) : Nat := r.base.toNat / 4096 * 4096 + size * (n % 2 ^ r.lg.toNat)

/-- An MSI-X vector is raised. -/
def State.raise (s : State) (vec : Nat) : State := { s with msix := s.msix ++ [vec] }

/-- The 64-bit words of a record as bytes. -/
def recBytes (ws : List Nat) : List Byte := ws.flatMap (toBytes 8)

/-- A record is lost: ovf and drop say so (R311). -/
def State.dropRecord (s : State) (n : RingName) : State :=
  let r := s.ring n
  s.setRing n { r with ovf := true, drop := if r.drop == BitVec.allOnes 32 then r.drop else r.drop + 1 }

/-- A record is written, then tail advances, and the vector is raised where the ring was empty (R310); without room it is
dropped (R311, R388). -/
def State.pushRing (s : State) (n : RingName) (ws : List Nat) : State :=
  let r := s.ring n
  if r.room then
    let s1 := s.pokePA (r.slotPA (ringSize n) r.tail.toNat) (recBytes ws)
    let s2 := s1.setRing n { r with tail := r.tail + 1 }
    if r.tail == r.head then s2.raise r.vec.toNat else s2
  else s.dropRecord n

/-- W1 of a trace record (R388). -/
def traceW1 (kind tile lo : Nat) : Nat := kind * 2 ^ 58 + tile * 2 ^ 48 + lo % 2 ^ 48

/-- A trace record (Table 20-2). -/
def State.trace (s : State) (kind tile lo w2 w3 : Nat) : State :=
  s.pushRing .tr [s.scyc.toNat, traceW1 kind tile lo, w2, w3]

/-- A fault-queue record of the kinds that are dropped without room (Table 16-3). -/
def State.faultRecord (s : State) (kind w0 w1 w2 : Nat) : State :=
  s.pushRing .fq [kind * 2 ^ 60 + w0 % 2 ^ 57, w1, w2, 0]

/-- Kind 8: stray decrement (R192, R341). -/
def State.recStray (s : State) (node w1 lid : Nat) : State := s.faultRecord 8 node w1 lid

/-- Kind 9: rejected launch, failed restore or failed node (R194, R197, R344). -/
def State.recRejected (s : State) (va cond lid : Nat) : State := s.faultRecord 9 va cond lid

/-- Kind 11: completion word not written (R24). -/
def State.recNoDone (s : State) (va status lid : Nat) : State := s.faultRecord 11 va status lid

end Sys2Proof.Machine
end

