-- ==== Sys2Proof/Machine/LaunchOps.lean ====
section
/-! DEFINITION. What several launch-processor events share: completion words (R24, R194), freeing tiles and slots, a kill
(R367), the replay identity of a point (R396), and when an interval of checkpoints runs (R378). -/

namespace Sys2Proof.Machine

/-- The launch in a slot. -/
def State.launch? (s : State) (slot : Nat) : Option Launch := Tab.get? slot s.launches

/-- The launch in a slot replaced. -/
def State.setLaunch (s : State) (slot : Nat) (l : Launch) : State := { s with launches := Tab.put slot l s.launches }

/-- The launch of the point a tile runs. -/
def State.launchOf (s : State) (t : Nat) : Option Launch :=
  match (s.tile t).point with
  | some p => s.launch? p.slot
  | none => none

def Launch.ctxVA (l : Launch) : Nat := hdrField l.hdr 12 0 64
def Launch.tctx (l : Launch) : Nat := hdrField l.hdr 13 0 16
def Launch.done (l : Launch) : Nat := hdrField l.hdr 10 0 64
def Launch.prio (l : Launch) : Nat := hdrField l.hdr 0 1 3
def Launch.isList (l : Launch) : Bool := hdrField l.hdr 0 0 1 == 1
def Launch.maxt (l : Launch) : Nat := hdrField l.hdr 0 24 10
def Launch.mint (l : Launch) : Nat := hdrField l.hdr 0 14 10
def Launch.ndep (l : Launch) : Nat := hdrField l.hdr 0 8 3
def Launch.priv (l : Launch) : BitVec 3 := BitVec.ofNat 3 (hdrField l.hdr 0 11 3)
def Launch.ext0 (l : Launch) : Nat := hdrField l.hdr 2 0 17
def Launch.ext1 (l : Launch) : Nat := hdrField l.hdr 2 17 17
def Launch.extz (l : Launch) : Nat := hdrField l.hdr 2 34 24
def Launch.ncol (l : Launch) : Nat := l.ext0 * l.ext1

/-- A launch with ckpt ≠ 0 and a context area is checkpointed (R378). -/
def Launch.checkpointed (l : Launch) : Bool := hdrField l.hdr 11 32 32 != 0 && l.ctxVA != 0

/-- The launch slot whose writes are logged: that of a checkpointed launch (R379). -/
def State.logOf (s : State) (slot : Nat) : Option Nat :=
  match s.launch? slot with
  | some l => if l.checkpointed then some slot else none
  | none => none

/-- LAUNCH_ID (Table 05-4). -/
def lidOf (seq slot : Nat) : Nat := seq * 256 + slot

/-- The tiles that run a point of a slot, in ascending number. -/
def State.tilesOf (s : State) (slot : Nat) : List Nat :=
  (s.tiles.filter fun p => match p.2.point with | some q => q.slot == slot | none => false).map fun p => p.1

/-- The tile's point ends: its sections, commands, queues, waits and stop are gone; scratchpad and tables stay (R19, R21). The
rows are then those of its context; a point that never started has left the rows of the point before it. -/
def Tile.vacate (x : Tile) : Tile :=
  { x with
    point := none, secs := [], inflight := [], chan := [], fifoA := [], fifoB := [], sqa := [], sqb := [], lPush := none, runs := [],
    late := [], rowsOut := [], rowsIn := [], loadFix := none, copies := [], bpHold := false, relPend := [], waiters := [],
    missed := [], waits := [], stop := none, mStep := none, sIn := false, halted := false, markWait := 0, quenched := false,
    gEmpty := 0, vEmpty := 0, lastCtx := if (x.point.map Point.started).getD false then some x.tctx else x.lastCtx }

/-- A tile is free for the launch in a slot: it runs no point (R20), and no other launch has reserved it (R357). -/
def State.isFree (s : State) (slot t : Nat) : Bool :=
  t < Config.numTiles && (s.tile t).point.isNone && !(s.tile t).quenched &&
    s.launches.all fun p => p.1 == slot || !p.2.resTiles.contains t

/-- Every tile of a list vacated. -/
def State.vacateAll (s : State) : List Nat → State
  | [] => s
  | t :: ts => State.vacateAll (s.setTile t (s.tile t).vacate) ts

/-- A completion word has been written: where hosts find it. One in host memory they may find at once (R24, R299, log 4). -/
def State.noteDone (s : State) (ctx va seq : Nat) : State :=
  match s.translate ctx va .write with
  | .error _ => s
  | .ok l =>
    let (space, a) := (l.place (va % 2 ^ 57)).spaceAt
    if space = 2 || space = 3 then s.hostAcquired (doneSem seq)
    else { s with doneAt := (s.doneAt.filter fun w => !(w.1 == space && w.2.1 == a)) ++ [(space, a, seq)] }

/-- A completion word: LAUNCH_ID with the status in [7:6] (R194). Where its VA does not translate, a kind 11 record takes its
place (R24). None while it must wait: for a page that migrates (R235), for a link to a far module (R406), or for room in the undo log
(R379). -/
def State.putCompletion (s : State) (log : Option Nat) (tctx done lid status : Nat) : Option State :=
  if s.mapped tctx done 8 .write then
    (s.writeVA log tctx done (toBytes 8 (lid + status * 64))).map fun s1 => s1.noteDone tctx done (lid / 256)
  else some (s.recNoDone done status lid)

/-- A completion word that no slot waits for: it is written now, or when it can be. -/
def State.sendCompletion (s : State) (log : Option Nat) (tctx done lid status : Nat) : State :=
  (s.putCompletion log tctx done lid status).getD { s with doneWait := s.doneWait ++ [⟨log, tctx, done, lid, status⟩] }

/-- The completion word of a launch in a slot. -/
def State.writeCompletion (s : State) (l : Launch) (slot status : Nat) : Option State :=
  s.putCompletion (if l.checkpointed then some slot else none) l.tctx l.done (lidOf l.seq slot) status

/-- The slot is free again; what belonged to its launch is gone. -/
def State.freeSlot (s : State) (slot : Nat) : State :=
  { s with
    launches := Assoc.erase slot s.launches, parkedQ := s.parkedQ.filter fun p => p.1 != slot
    resumeWait := s.resumeWait.filter fun p => p.1 != slot
    heldFail := s.heldFail.filter fun p => p.1 != slot, savedKind := s.savedKind.filter fun p => p.1 != slot }

/-- What the commands of a slot's launch have sent to the write queues is still on its way (R236). -/
def State.slotOps (s : State) (slot : Nat) : Bool := s.dies.any fun d => d.2.wqIn.any fun o => o.slot == slot

/-- A kill ends (R367): the completion word gets status 0, no successor is decremented, and the slot is freed; none while what its
commands have sent is still to be performed, or while its completion word must wait. -/
def State.endKill (s : State) (slot why : Nat) (l : Launch) : Option State :=
  if s.slotOps slot then none
  else (s.writeCompletion l slot 0).map fun s2 =>
    let s3 := { s2.freeSlot slot with gangs := match l.gang with | some g => Assoc.erase g s2.gangs | none => s2.gangs }
    let s4 := { s3 with ctl := { s3.ctl with why := Tab.put slot why s3.ctl.why } }
    s4.raise s4.ctl.trapVec.toNat

/-- A kill (R367): every point stops without saving, commands are discarded at element boundaries, and the kill ends once what they
had sent to the write queues is performed; until then SLOT_STAT shows the slot stopping. `why` is SLOT_STAT.why (Table 19-2). -/
def State.kill (s : State) (slot why : Nat) : State :=
  match s.launch? slot with
  | none => s
  | some l =>
    if l.dying.isSome then s
    else
      let s1 := s.vacateAll (s.tilesOf slot)
      (s1.endKill slot why l).getD
        { s1.setLaunch slot { l with dying := some why, state := 2, pts := [] } with parkedQ := s1.parkedQ.filter fun p => p.1 != slot }

/-- A killed launch ends where it can. -/
def State.settleKill (s : State) (slot : Nat) : State :=
  match s.launch? slot with
  | none => s
  | some l => match l.dying with
    | none => s
    | some why => (s.endKill slot why l).getD s

/-- The launch ordinal of a recorded or replayed launch (R396). -/
def State.ordinal (s : State) (seq : Nat) : Nat := match s.rlFirst with | some f => seq - f | none => 0

/-- A point's identity in the replay log: its launch ordinal, and POINT_ID or home number (R396). -/
def State.pointKey (s : State) (t : Nat) : Nat × Nat :=
  let x := s.tile t
  (s.ordinal (x.launchId.toNat / 256),
    if x.isList then (match x.point with | some p => p.home | none => 0) else x.pointId.toNat)

/-- Entry k of the replay log, as four words; none where it has not been fed: its kind is 0 (log 15). -/
def State.logAt (s : State) (k : Nat) : Option (Nat × Nat × Nat × Nat) :=
  let a := s.rl.slotPA 32 k
  let w0 := s.wordPA a
  if bits w0 56 8 = 0 then none else some (w0, s.wordPA (a + 8), s.wordPA (a + 16), s.wordPA (a + 24))

/-- The entry of the replay log that replay takes next. -/
def State.nextLog (s : State) : Option (Nat × Nat × Nat × Nat) := s.logAt s.rlNext

/-- An entry is a chunk end of the point with launch ordinal o and number id. -/
def chunkOf (o id : Nat) (e : Nat × Nat × Nat × Nat) : Bool := bits e.1 56 8 == 1 && e.2.1 / 2 ^ 32 == o % 2 ^ 32 && e.2.2.1 == id

/-- The S words of the point's present chunk, by its next chunk end in the log from entry k on; none where it has not been fed so far. -/
def State.chunkLength (s : State) (o id : Nat) : (fuel : Nat) → (k : Nat) → Option Nat
  | 0, _ => none
  | n + 1, k => match s.logAt k with
    | none => none
    | some e => if chunkOf o id e then some (bits e.1 0 48) else State.chunkLength s o id n (k + 1)

/-- In replay the S engine of a point executes no word beyond its next logged chunk end until that is committed, but for one whose wait
has ended (R397). -/
def State.chunkHold (s : State) (t : Nat) : Bool :=
  match s.launchOf t with
  | none => false
  | some l => l.replay == 2 && !((s.tile t).waiters.any fun w => w.eng == .S && w.served) &&
      match s.chunkLength (s.pointKey t).1 (s.pointKey t).2 (2 ^ s.rl.lg.toNat) s.rlNext with
      | none => true
      | some n => n ≤ (s.tile t).chunk

/-- Replayed points are told to quench, and REPLAY_STAT records the divergence (R397). -/
def State.diverge (s : State) : State :=
  let ts := (s.tiles.filter fun p => match p.2.point with
    | some q => (match s.launch? q.slot with | some l => l.replay == 2 | none => false)
    | none => false).map fun p => (p.1, s.scyc)
  { s with ctl := { s.ctl with replayDiv := true, replayIdx := BitVec.ofNat 32 s.rlNext }, quenchAt := s.quenchAt ++ ts }

/-- What committing an input comes to. -/
inductive Commit where
  /-- committed: the state with its entry written or taken, and the value read -/
  | done (s : State) (v : Nat)
  /-- it must wait: the log is full, or another entry is next -/
  | hold
  /-- the replayed point has diverged -/
  | diverged (s : State)

/-- An entry of the replay log is written, committing an input; a full log holds it (R395). -/
def State.recordLog (s : State) (ws : List Nat) : Option State :=
  if s.rl.en && !s.rl.room then none else some (s.pushRing .rl ws)

/-- A chunk of tile t's point ends at an input of the given code, after `len` retired S words (R396, R397). In replay an input of another
engine than S waits for its entry while the S engine goes on to the end of the chunk (log 15). -/
def State.chunkEnd (s : State) (t : Nat) (isS : Bool) (code len val : Nat) : Commit :=
  match s.launchOf t with
  | none => .done s val
  | some l =>
    let (o, id) := s.pointKey t
    let w0 := 2 ^ 56 + code * 2 ^ 48 + len % 2 ^ 48
    if l.replay == 1 then
      match s.recordLog [w0, o * 2 ^ 32, id, if code = 6 then val else 0] with
      | some s' => .done s' val
      | none => .hold
    else if l.replay == 2 then
      if s.ctl.replayDiv then .hold
      else match s.nextLog with
        | none => .hold
        | some e =>
          if chunkOf o id e then
            if e.1 == w0 then .done { s with rlNext := s.rlNext + 1 } (if code = 6 then e.2.2.2 else val)
            else if isS then .diverged s.diverge else .hold
          else .hold
    else .done s val

/-- The next entry of the log is of the given kind. -/
def State.nextKind (s : State) (kind : Nat) : Bool := match s.nextLog with | some e => bits e.1 56 8 == kind | none => false

/-- The next entry of the log places a point of launch l: its POINT_ID or home number (R397). -/
def State.placeNext (s : State) (l : Launch) : Option Nat :=
  if s.ctl.replayDiv then none
  else s.nextLog.bind fun e => if e.1 == 4 * 2 ^ 56 + s.ordinal l.seq % 2 ^ 48 then some e.2.2.1 else none

/-- Entries from entry k on that place points of launch l, one behind the other. -/
def State.placeRun (s : State) (l : Launch) : (fuel : Nat) → (k : Nat) → Nat
  | 0, _ => 0
  | n + 1, k => match s.logAt k with
    | none => 0
    | some e => if e.1 == 4 * 2 ^ 56 + s.ordinal l.seq % 2 ^ 48 then State.placeRun s l n (k + 1) + 1 else 0

/-- An entry of another kind: written in record mode, awaited in replay mode (R397). -/
def State.logEvent (s : State) (mode : BitVec 2) (ws : List Nat) : Option State :=
  if mode == 1 then s.recordLog ws
  else if mode == 2 then
    if s.ctl.replayDiv then none
    else match s.nextLog with
      | some (e0, e1, e2, e3) => if ws == [e0, e1, e2, e3] then some { s with rlNext := s.rlNext + 1 } else none
      | none => none
  else some s

end Sys2Proof.Machine
end

