-- ==== Sys2Proof/Machine/Ops.lean ====
section
/-! DEFINITION. The operations every word shares: guards (R57-R60), full and empty registers (R63, R64), how a word ends
(retires, transfers, waits, or traps), TAKING A TRAP (R360-R364), watchpoints (R387), and the semaphore unit with its wait
log (R325-R333). -/

namespace Sys2Proof.Machine

/-- The three outcomes of a step of this machine. -/
abbrev Res := Host.Outcome State Fault Refusal

/-! ### Guards (R4, R57, R58) -/

/-- Bit (A << 2) | (B << 1) | C of a truth table. -/
def ttBit (tt : Nat) (a b c : Bool) : Bool := bit tt (4 * ofBool a + 2 * ofBool b + ofBool c)

/-- The guard of an S word, over c0-c7 and s0-s7. -/
def Tile.guardS (x : Tile) (g : Guard) : Bool :=
  ttBit g.tt.toNat (x.readCS g.ga.toNat) (x.readCS g.gb.toNat) (x.readCS g.gc.toNat)

/-- The guard of an M or X word, over captured predicates. -/
def guardCap (cap : Capture) (g : Guard) : Bool :=
  ttBit g.tt.toNat (cap.preds.getLsbD g.ga.toNat) (cap.preds.getLsbD g.gb.toNat) (cap.preds.getLsbD g.gc.toNat)

/-- The single guard value of a word of an engine: Guard(w, 0) for L, A and W words (R301, R324). -/
def Tile.guard0 (x : Tile) (e : Engine) (cap : Capture) (g : Guard) : Bool :=
  match e with
  | .S => x.guardS g
  | .M | .X => guardCap cap g
  | .L | .A | .W => (x.lanes cap g).getLsbD 0

/-! ### How a word ends -/

/-- The tile of the word being executed replaced. -/
def State.putTile (s : State) (x : Tile) : State := s.setTile s.issue.tile x

/-- What executing a word comes to. -/
inductive Ending where
  /-- its effects take place and the next word follows -/
  | retire (s : State)
  /-- its guard is false everywhere (R59) -/
  | void
  /-- S engine: it is taken, ends its section, and fetch goes on at `pc` (R70) -/
  | jump (s : State) (pc : Nat)
  /-- S engine: it is taken, and no slot has its target's address: the illegal-word fault is taken there (R109) -/
  | astray (s : State) (pc : Nat)
  /-- S engine: fetch goes on `n` slots further -/
  | skip (s : State) (n : Nat)
  /-- it waits, and is executed again at its engine's next turn (R4, R370) -/
  | wait (s : State) (why : Nat)
  /-- it traps (R4, R361) -/
  | trap (s : State) (cause data : Nat)
  /-- it retires and then traps (R121, R325) -/
  | retireTrap (s : State) (cause data : Nat)
  /-- it leaves its engine and retires when its result arrives (R155) -/
  | pass (s : State)
  /-- it retires, and the chunk in which its input was resolved before has counted it (R396) -/
  | resolved (s : State)
  /-- it resolves a nondeterministic input (R396), which gives its effect -/
  | input (s : State) (code val why : Nat) (k : Nat → State → State)

/-- The retired word of the S engine: PC, chunk length, counters (R99, R336, R396). `leave` ends the section, and so does a PC that is the
slot after its last; one beyond that slot, after a void LREC whose liveness slots run past the section, leaves the engine in the
section: DESIGN CHOICE (log 57). -/
def Tile.retireS (x : Tile) (pc : Nat) (leave void : Bool) (chunk : Nat) : Tile :=
  let y := { x with
    pc := BitVec.ofNat 20 pc
    sIn := x.sIn && !leave && pc != x.sEnd
    chunk := chunk, atLoop := false, bpPassed := false, standing := none, ran := true }
  let y := (y.setWait .S 0).count 2 1
  if void then y.count 0x11 1 else y

/-- Event code of a retired word of an engine (Table 17-4); 0 counts nothing. -/
def retireEvent : Engine → Nat
  | .S => 2 | .L => 3 | .A => 4 | .W => 5 | .M => 0 | .X => 0

/-- The point has executed a word (R431). -/
def Tile.hasRun (x : Tile) : Tile := { x with ran := true }

/-- Another engine goes on to the next word of its section. -/
def Tile.passE (x : Tile) (e : Engine) (q : Nat) : Tile :=
  (((x.setSec q fun c => { c with idx := c.idx + 1 }).sweep).setWait e 0).hasRun

/-- The retired word of another engine: the next word of its section, which ends with its last (R68). -/
def Tile.retireE (x : Tile) (e : Engine) (q : Nat) (void : Bool) : Tile :=
  let y := (x.passE e q).count (retireEvent e) 1
  if void then y.count 0x11 1 else y

/-- The word being executed retires. -/
def State.retire (s : State) (void : Bool) : State :=
  let t := s.issue.tile
  let x := s.tile t
  if s.issue.eng = .S then s.setTile t (x.retireS (s.issue.addr + 1) false void (x.chunk + 1))
  else s.setTile t (x.retireE s.issue.eng s.issue.seq void)

/-- The word being executed leaves its engine before it retires. -/
def State.pass (s : State) : State := s.setTile s.issue.tile ((s.tile s.issue.tile).passE s.issue.eng s.issue.seq)

/-- The word being executed waits (R370). -/
def State.stay (s : State) (why : Nat) : State :=
  s.setTile s.issue.tile ((s.tile s.issue.tile).setWait s.issue.eng why)

/-! ### Taking a trap -/

/-- The stopping generation of a trap (R363): the count of the innermost record for an S trap, the section's generation
relative to it otherwise; 0 without a record. Where the section has gone, its tag says which of the last 256 it was. -/
def Tile.trapGen (x : Tile) (e : Engine) (q tag : Nat) : Int :=
  match x.records with
  | [] => 0
  | (id, n) :: _ =>
    if e = .S then n
    else match x.secs.find? (fun c => c.seq == q) with
      | some c => c.relGen id
      | none => (n : Int) - ((n + 256 - tag % 256) % 256 : Nat)

/-- A trap of engine e at a cycle is not the one the trap registers get: the point has trapped already, and not in this cycle by
an engine of a higher class (R97, R361). -/
def Tile.trapAgain (x : Tile) (scyc : W64) (e : Engine) : Bool :=
  match x.stop with
  | some st => st.trapped && !(st.cyc == some scyc && match st.eng with | some o => e.code < o.code | none => false)
  | none => false

/-- How the point stops with a trap of engine e: a stop that goes on keeps its own stopping generation (R363). -/
def Tile.trapStop (x : Tile) (scyc : W64) (e : Engine) (gen : Int) : Stop :=
  match x.stop with
  | some o =>
    { why := o.why, trapped := true, eng := some e, gen := if o.why = .trap then gen else o.gen
      inst := if o.why = .trap then x.inner else o.inst, cyc := some scyc }
  | none => { why := .trap, trapped := true, eng := some e, gen := gen, inst := x.inner, cyc := some scyc }

/-- A section put back in the order of forwarding. -/
def putSec (c : Section) : List Section → List Section
  | [] => [c]
  | d :: ds => if d.seq == c.seq then { d with idx := c.idx } :: ds else if c.seq < d.seq then c :: d :: ds else d :: putSec c ds

/-- A word or command stands again where it was before it retired. -/
def Tile.unretire (x : Tile) (b : Undo) : Tile :=
  { x with
    chan := b.cmd.toList ++ x.chan
    secs := match b.sec with | some c => putSec c x.secs | none => x.secs }.count b.event (2 ^ 48 - 1)

/-- An amount added to a semaphore taken back. -/
def State.semBack (s : State) (m : Nat × Nat × Nat × Nat × Nat × Nat) : State :=
  let (u, n, k, b) := m
  let y := (s.tile u).setSem n ((s.tile u).sem n - k)
  s.setTile u { y with missed := y.missed.erase (n, b) }

/-- The trap of tile t in this cycle gives way to one of a lower class: what had retired with it is unretired (R97). -/
def State.giveBack (s : State) (t : Nat) : State :=
  match (s.tile t).stop.bind Stop.back with
  | some b =>
    let s1 := b.sems.foldl State.semBack s
    s1.setTile t ((s1.tile t).unretire b)
  | none => s

/-- The tile's trap remembers what has retired with it. -/
def State.keepBack (s : State) (t : Nat) (b : Undo) : State :=
  s.setTile t { s.tile t with stop := (s.tile t).stop.map fun st => { st with back := some b } }

/-- What has been added to semaphore n of some tiles between two states, and by whom. -/
def semsAdded (s s' : State) (n kind sid seng : Nat) (us : List Nat) : List (Nat × Nat × Nat × Nat × Nat × Nat) :=
  us.map fun u => (u, n, (s'.tile u).sem n - (s.tile u).sem n, kind, sid, seng)

/-- A word of tile t traps, with the stopping generation its trap has (R361, R363, R365). The point's first trap writes the trap
registers and the point starts to stop; the word stays unretired; of the traps of one cycle, that of the lowest engine class is
the first (R97). A later trap changes no trap register, and its engine stands at the word. In a launch without a context area the
trap kills the launch. `fwd` marks a check that failed at forwarding (R72). -/
def State.trapWith (s : State) (w : Issue) (fwd : Bool) (cause data : Nat) (gen : Int) : State :=
  let x := s.tile w.tile
  if x.trapAgain s.scyc w.eng then s.setTile w.tile (x.setWait w.eng 7)
  else
    let slot := match x.point with | some p => p.slot | none => 64
    let noArea := match s.launch? slot with | some l => l.ctxVA == 0 | none => false
    let s0 := s.giveBack w.tile
    let y := { s0.tile w.tile with
      trapCause := BitVec.ofNat 8 cause
      trapEngine := if fwd then 8 else BitVec.ofNat 4 w.eng.code
      trapSection := BitVec.ofNat 16 (w.tag % 256 * 256 + w.num % 256)
      trapWord := BitVec.ofNat 20 w.addr
      trapData := BitVec.ofNat 64 data
      stop := some (x.trapStop s.scyc w.eng gen) }
    let s' := s0.setTile w.tile (y.setWait w.eng 7)
    if noArea then s'.kill slot 2 else s'

/-- A word of tile t traps, as its section stands. -/
def State.takeTrap (s : State) (w : Issue) (fwd : Bool) (cause data : Nat) : State :=
  s.trapWith w fwd cause data ((s.tile w.tile).trapGen w.eng w.seq w.tag)

/-- The word being executed in s retires with the effects of s', and then traps; where the trap is not the first, it does not
retire and has no effect (R121, R325, R361). -/
def State.retireTrap (s s' : State) (cause data : Nat) : State :=
  let w := s.issue
  let x := s.tile w.tile
  let gen := x.trapGen w.eng w.seq w.tag
  if x.trapAgain s.scyc w.eng then s.stay 7
  else if w.eng = .S then (s'.retire false).trapWith w false cause data gen
  else ((s'.retire false).trapWith w false cause data gen).keepBack w.tile
    { sec := x.secs.find? fun c => c.seq == w.seq, event := retireEvent w.eng
      sems := semsAdded s s' (data % 256) 0 0 w.eng.code [w.tile] }

/-- The S word being executed is taken: its section ends, and fetch goes on at `pc` (R70). -/
def State.jumpTo (s : State) (pc : Nat) : State :=
  let x := s.tile s.issue.tile
  s.setTile s.issue.tile (x.retireS (pc % 2 ^ 20) true false (x.chunk + 1))

/-- The ending of a word as the next state. -/
def finish (s : State) (r : Ending) : Res :=
  .next (match r with
    | .retire s' => s'.retire false
    | .void => s.retire true
    | .pass s' => s'.pass
    | .jump s' pc => s'.jumpTo pc
    | .astray s' pc => (s'.jumpTo pc).takeTrap { s'.issue with addr := pc % 2 ^ 20, num := 0 } false 1 0
    | .skip s' n =>
      let x := s'.tile s'.issue.tile
      s'.setTile s'.issue.tile (x.retireS (s'.issue.addr + n) false true (x.chunk + 1))
    | .wait s' why => s'.stay why
    | .trap s' cause data => s'.takeTrap s'.issue false cause data
    | .retireTrap s' cause data => s.retireTrap s' cause data
    | .resolved s' =>
      let s1 := s'.retire false
      if s.issue.eng = .S then s1.setTile s.issue.tile { s1.tile s.issue.tile with chunk := 0 } else s1
    | .input s0 code val why k =>
      let t := s.issue.tile
      let x := s.tile t
      let isS := s.issue.eng == .S
      match s0.chunkEnd t isS code (if isS then x.chunk + 1 else x.chunk) val with
      | .done s1 v =>
        let s2 := (k v s1).retire false
        s2.setTile t { s2.tile t with chunk := 0 }
      | .hold => s.stay why
      | .diverged s1 => s1.stay why)

/-! ### Results and row accesses that follow their word -/

/-- The cycle at whose end a result of the word being executed is due, n cycles behind its first (Table 09-2); 0 where no table
gives it. -/
def State.dueAt (s : State) (n : Nat) : Nat := if s.issue.lat = 0 then 0 else s.scyc.toNat + s.issue.lat + n - 1

/-- Bytes that are all written. -/
def allBytes (bs : List Byte) : List (Byte × Bool) := bs.map fun b => (b, true)

/-- The bytes that a row access writes: of a PST, those of its mask's bits, the other bits being the row's own (R215). -/
def bitsInto (mask : Option PMask) (sp : List Host.Cell) (a : Nat) (bs : List (Byte × Bool)) : List (Byte × Bool) :=
  match mask with
  | none => bs
  | some m =>
    let v : PMask := BitVec.ofNat 1024 (ofBytes (bs.map fun b => b.1))
    let old : PMask := BitVec.ofNat 1024 (Memory.readLE sp a 128)
    allBytes (toBytes 128 ((v &&& m) ||| (old &&& ~~~m)).toNat)

/-- The row accesses of a store being executed, in order, each a byte address with its bytes: they perform at once, or on their own
(R206, R293). -/
def State.storeOut (s : State) (cls : Nat) (need : CodeNeed) (ws : List (Nat × List (Byte × Bool))) (mask : Option PMask := none) :
    State :=
  let w := s.issue
  let x := s.tile w.tile
  if w.late then
    s.putTile { x with rowsOut := x.rowsOut ++ ws.map fun r =>
      { pos := x.posOf w.seq w.eng - ofBool (w.eng == .S), cls := cls, eng := w.eng, seq := w.seq, tag := w.tag, addr := w.addr,
        due := s.dueAt 0, at_ := r.1, bytes := r.2, mask := mask } }
  else (s.putTile (ws.foldl (fun y r => y.writeRow r.1 need (bitsInto mask y.sp r.1 r.2)) x)).note
    (ws.map fun r => spTrail true w.tile r.1 r.2.length)

/-! ### Full and empty registers (R63, R64) -/

/-- TRAP_DATA of the empty-register trap (Table 19-1): register as named, general or vector, operand in field order. -/
def emptyData (n : Nat) (general : Bool) (opnd : Nat) : Nat := n + ofBool general * 256 + opnd * 512

/-- A named general-register source: register, fe bit, operand number. -/
structure GSrc where
  n : Nat
  fe : Bool
  opnd : Nat

/-- The general registers of an S word: an empty source whose fe bit is set traps before anything else; any other empty
source, and an empty register to be written, is waited for (R64, R100). -/
def Tile.gateG (x : Tile) (s : State) (srcs : List GSrc) (full : List Nat) (k : Ending) : Ending :=
  match srcs.find? (fun r => r.fe && x.emptyG r.n) with
  | some r => .trap s 4 (emptyData r.n true r.opnd)
  | none => if srcs.any (fun r => x.emptyG r.n) || full.any x.emptyG then .wait s 3 else k

/-- A named vector source: physical register, number as named, fe bit, operand number. -/
structure VSrc where
  phys : Nat
  name : Nat
  fe : Bool
  opnd : Nat

/-- The vector registers of a word, as `gateG` (R64, R131). -/
def Tile.gateV (x : Tile) (s : State) (srcs : List VSrc) (full : List Nat) (k : Ending) : Ending :=
  match srcs.find? (fun r => r.fe && x.emptyV r.phys) with
  | some r => .trap s 4 (emptyData r.name false r.opnd)
  | none => if srcs.any (fun r => x.emptyV r.phys) || full.any x.emptyV then .wait s 3 else k

/-- The number a vector register was named by, from its physical number and RB at forwarding (R87, log 16). -/
def Capture.nameOf (cap : Capture) (phys : Nat) : Nat :=
  if phys < 64 then phys else 64 + (phys - 64 + 128 - cap.rb.toNat) % 128

/-- An S word: the tile, its guard, and what it does when enabled. -/
def sWord (s : State) (g : Guard) (k : Tile → Ending) : Res :=
  let x := s.tile s.issue.tile
  finish s (if x.guardS g then k x else .void)

/-- A word of another engine with one guard value. -/
def eWord (s : State) (g : Guard) (k : Tile → Ending) : Res :=
  let x := s.tile s.issue.tile
  finish s (if x.guard0 s.issue.eng s.issue.cap g then k x else .void)

/-- The enabled lanes of an L, A or W word; a load that has read a row keeps those it had then (R210, R213). -/
def Tile.lanesNow (x : Tile) (w : Issue) (g : Guard) : PMask :=
  match (if w.eng == .L then x.loadFix else none) with
  | some p => p.1
  | none => x.lanes w.cap g

/-- An L, A or W word with its enabled lanes; with none enabled it is void (R59). -/
def laneWord (s : State) (g : Guard) (k : Tile → PMask → Ending) : Res :=
  let x := s.tile s.issue.tile
  let en := x.lanesNow s.issue g
  finish s (if en = 0 then .void else k x en)

/-! ### Watchpoints and breakpoints (R385-R387) -/

/-- Debug register i of Table 20-1: BP0-BP3 are 0-3, WP0-WP3 4-7, TRACE_CTL 8. -/
def Tile.readDbg (x : Tile) (i : Nat) : Nat := (Assoc.get 0 i x.dbg).toNat

/-- The first watchpoint that matches an access to one of the rows, with its number, the row, and whether it quenches: the
lowest number, then the first row in access order. -/
def Tile.watch (x : Tile) (rows : List Nat) (write engineDomain : Bool) : Option (Nat × Nat × Bool) :=
  (List.range 4).findSome? fun n =>
    let w := x.readDbg (4 + n)
    if bit w 63 && (if write then bit w 61 else bit w 60) && (if engineDomain then bit w 59 else bit w 58) then
      (rows.find? fun r => bits w 0 14 ≤ r && r ≤ bits w 14 14).map fun r => (n, r, bit w 62)
    else none

/-- TRAP_DATA of a watchpoint (R387). -/
def watchData (n : Nat) (write : Bool) (row e : Nat) : Nat :=
  n + ofBool write * 4 + row * 8 + e % 2 ^ 32 * 2 ^ 24

/-- A breakpoint or watchpoint hit emits its record where TRACE_CTL.hits is set (R385). -/
def State.traceHit (s : State) (t addr data : Nat) (watch : Bool) : State :=
  if bit ((s.tile t).readDbg 8) 2 then s.trace 3 t addr data (ofBool watch) else s

/-- A tile quenches at the end of the present cycle (R386, R387). -/
def State.quenchSoon (s : State) (t : Nat) : State :=
  if s.quenchAt.any (fun p => p.1 == t && p.2 == s.scyc) then s
  else { s with quenchAt := s.quenchAt ++ [(t, s.scyc)] }

/-- An ordinary access to rows under the watchpoints: a match traps before any change, or quenches the tile at the end of the
cycle while the word goes on (R387). -/
def watched (s : State) (rows : List Nat) (write : Bool) (k : State → Ending) : Ending :=
  let t := s.issue.tile
  match (s.tile t).watch rows write false with
  | none => k s
  | some (n, row, quench) =>
    let data := watchData n write row 0
    let s' := s.traceHit t s.issue.addr data true
    if quench then k (s'.quenchSoon t) else .trap s' 0x0E data

/-! ### Semaphores (R323-R333) -/

/-- Who changed a semaphore (Table 17-3): skind, sid, seng. -/
structure Setter where
  kind : Nat
  sid : Nat := 0
  seng : Nat := 0

def semMax : Nat := 2 ^ 32 - 1

/-- A wait-log entry (Table 17-3). -/
def waitEntry (start scyc : Nat) (sem weng : Nat) (b : Setter) : Nat :=
  start + 2 ^ 64 * (min (scyc - start) semMax * 2 ^ 32 + sem * 2 ^ 24 + weng * 2 ^ 21 + b.kind * 2 ^ 18 + b.sid * 2 ^ 8 +
    b.seng * 2 ^ 5)

/-- An entry is written at WAITLOG_HEAD.next, and sent to the trace buffer where TRACE_CTL.wlog is set (R331). -/
def State.logWait (s : State) (t e : Nat) : State :=
  let x := s.tile t
  let n := x.waitHead.toNat % 64
  let wrap := bit x.waitHead.toNat 6 || n == 63
  let y := { x with
    waitLog := Assoc.set 0 n (BitVec.ofNat 128 e) x.waitLog
    waitHead := BitVec.ofNat 7 ((n + 1) % 64 + ofBool wrap * 64) }
  let s' := s.setTile t y
  if bit (x.readDbg 8) 1 then s'.trace 2 t 0 (bits e 0 64) (bits e 64 64) else s'

/-- The waiters of a semaphore in the order in which their waits began: each whose n does not exceed the remaining value is
satisfied (R327), which is an input of replay (R396), and one that waited logs its wait with the setter (R326, R332, R333). The
answer says whether replay has held one back (R397). -/
def State.serveGo (s : State) (t n : Nat) (b : Setter) : List Waiter → State × Bool
  | [] => (s, false)
  | w :: ws =>
    let x := s.tile t
    if w.sem == n && !w.served && w.n ≤ x.sem n then
      match s.chunkEnd t (w.eng == .S) (if w.eng == .X then 2 else 1) (if w.eng == .S then x.chunk + 1 else x.chunk) 0 with
      | .done s1 _ =>
        let y := { x.setSem n (x.sem n - w.n) with
          waiters := x.waiters.map fun v => if v.eng == w.eng then { v with served := true } else v
          chunk := 0 }
        let s2 := s1.setTile t y
        let s3 := if w.below then s2.logWait t (waitEntry w.start.toNat s.scyc.toNat n w.eng.code b) else s2
        State.serveGo s3 t n b ws
      | .hold => ((State.serveGo s t n b ws).1, true)
      | .diverged s1 => (s1, true)
    else State.serveGo s t n b ws

/-- A change of semaphore n, which the unit serves at the end of the cycle (R327), or at temper where the tile is quenched
(R390). -/
def State.serve (s : State) (t n : Nat) (b : Setter) : State :=
  let x := s.tile t
  if x.waiters.any fun w => w.sem == n && !w.served then
    s.setTile t { x with missed := x.missed ++ [(n, b.kind, b.sid, b.seng)] }
  else s

/-- The setter of the waits that end now on semaphore n: its last change since the unit last served it (R333); of a wait that began with a
sufficient value none is logged. -/
def Tile.setterOf (x : Tile) (n : Nat) : Setter :=
  match (x.missed.filter fun m => m.1 == n).getLast? with
  | some (_, kind, sid, seng) => { kind := kind, sid := sid, seng := seng }
  | none => { kind := 0 }

/-- The unit serves the waiters of each semaphore of a list once; the setter is the last change (R327, R333, R392). -/
def State.serveSems (s : State) (t : Nat) : List Nat → State
  | [] => s
  | n :: ns =>
    let (s1, held) := s.serveGo t n ((s.tile t).setterOf n) (s.tile t).waiters
    let s2 := if held then s1 else s1.setTile t { s1.tile t with missed := (s1.tile t).missed.filter fun m => m.1 != n }
    State.serveSems s2 t ns

/-- The semaphores that the unit serves at the end of a cycle: those that have changed, and those on which a wait began with a sufficient
value (R327). -/
def Tile.toServe (x : Tile) : List Nat :=
  (x.missed.map (fun m => m.1) ++ (x.waiters.filter fun w => !w.below && !w.served).map fun w => w.sem).eraseDups

/-- The unit serves them. -/
def State.serveTile (s : State) (t : Nat) : State := s.serveSems t (s.tile t).toServe

/-- The amount added to semaphore n, saturating at 2^32 - 1, and whether it would have passed it (R325, R330). Waiters are served after
a change of the value alone (R327). -/
def State.semAdd (s : State) (t n amount : Nat) (b : Setter) : State × Bool :=
  let v := (s.tile t).sem n + amount
  let s1 := s.setTile t ((s.tile t).setSem n (min v semMax))
  (if min v semMax = (s.tile t).sem n then s1 else s1.serve t n b, decide (v > semMax))

/-- A wait begins: waiters stand in the order of their start cycle, and by engine class within a cycle (R327). -/
def addWaiter (w : Waiter) : List Waiter → List Waiter
  | [] => [w]
  | v :: vs => if v.start == w.start && v.eng.code > w.eng.code then w :: v :: vs else v :: addWaiter w vs

/-- A wait of engine e for n begins: behind those that began before it, and logged at its end where the value was below n (R326). -/
def Tile.beginWait (x : Tile) (e : Engine) (sem n : Nat) (scyc : W64) : Tile :=
  { x with waiters := addWaiter { eng := e, sem := sem, n := n, start := scyc, below := decide (x.sem sem < n) } x.waiters }

/-- SEMW of n from a semaphore by engine e (R326): n = 0 retires at once; a served waiter retires; otherwise the engine takes its place
among the waiters, whom the unit serves when the cycle ends, with every increment of the cycle applied (R327). A word whose value suffices
waits for that alone (code 8). With the value taken, or observed where n = 0, it is an acquire at its scope (R294). -/
def semTake (s : State) (e : Engine) (sem scope n : Nat) : Ending :=
  let t := s.issue.tile
  let x := s.tile t
  if n = 0 then .retire (s.setTile t (x.acquiredBy e s.issue.seq sem scope))
  else match x.waiters.find? (fun w => w.eng == e) with
    | some w =>
      if w.served then .resolved (s.setTile t ({ x with waiters := x.waiters.filter fun v => v.eng != e }.acquiredBy e s.issue.seq sem scope))
      else .wait s (if !w.below && w.start == s.scyc then 8 else 1)
    | none => .wait (s.setTile t (x.beginWait e sem n s.scyc)) (if n ≤ x.sem sem then 8 else 1)

/-- SEMS of n to a semaphore by engine e at a scope, its release conditions met: a release of what the tile has stored (R294, R325). -/
def semGive (s : State) (e : Engine) (sem scope n : Nat) : Ending :=
  let t := s.issue.tile
  let r := (s.releaseTo t sem scope (CopyMark.byTile t)).semAdd t sem n { kind := 0, seng := e.code }
  if r.2 then .retireTrap r.1 0x0A (sem + t * 256) else .retire r.1

/-- The count of a semaphore word (R324). -/
def semCount (g imm : Nat) : Nat := (g + imm) % 2 ^ 32

end Sys2Proof.Machine
end

