-- ==== Sys2Proof/Machine/Operands.lean ====
section
/-! DEFINITION. Operand forms: layout entries and Resolve (R181, R182, R209), the source modifier (R62), and the elements of
vector registers, read and written under the guard (R29, R58, R129). -/

namespace Sys2Proof.Machine

/-! ### Layout entries (Table 10-2) -/

def layField (e w lo len : Nat) : Nat := bits e (64 * w + lo) len

def layBase (e : Nat) : Nat := layField e 0 0 64
def layHBase (e : Nat) : Nat := layField e 1 0 64
def laySpace (e : Nat) : Nat := layField e 5 9 2
def layDesc (e : Nat) : Bool := bit e (64 * 5 + 8)
def layFmt (e : Nat) : Nat := layField e 5 0 8
def layRank (e : Nat) : Nat := layField e 5 11 2
def layPeer (e : Nat) : Nat := layField e 0 32 10

/-- Extent of dimension i; 0 means 65,536. -/
def layExt (e i : Nat) : Nat := let n := layField e 2 (16 * i) 16; if n = 0 then 65536 else n

/-- Signed byte stride of dimension i. -/
def layStride (e i : Nat) : Int := signExt 32 (bits e (64 * 3 + 32 * i) 32)

/-- An entry as LSET, the image or RACQ leaves it: reserved bits of W5 to W7 read 0 (R2, R181). -/
def layMask (v : Nat) : Nat :=
  bits v 0 (64 * 5) + 2 ^ 320 * (bits (bits v 320 64) 0 13 + bits (bits v 320 64) 16 5 * 2 ^ 16 + bits (bits v 320 64) 38 10 * 2 ^ 38)

/-- What a layout entry names (R182). -/
inductive Resolved where
  | row (a : Nat)
  | virt (va : Nat)
  | stream (k : Nat)
  deriving DecidableEq, Repr

/-- The first coordinate that is refused: beyond its extent, or nonzero above the rank (R182). -/
def badCoord (e : Nat) (cs : List Int) : Option Nat :=
  (List.range 4).find? fun i =>
    let c := cs.getD i 0
    if i > layRank e then c != 0 else c < 0 || c ≥ layExt e i

/-- The byte offset of coordinates (R182). -/
def layOffset (e : Nat) (cs : List Int) : Int :=
  cs.getD 0 0 * layStride e 0 + cs.getD 1 0 * layStride e 1 + cs.getD 2 0 * layStride e 2 + cs.getD 3 0 * layStride e 3

/-- Resolve (R182) of four signed coordinates; a refusal is the case of R209 and its dimension. -/
def resolve (e : Nat) (cs : List Int) : Except (Nat × Nat) Resolved :=
  if laySpace e = 3 then .ok (.stream (layBase e % 4))
  else match badCoord e cs with
    | some i => .error (1, i)
    | none =>
      let off := layOffset e cs
      if laySpace e = 2 then .ok (.virt (wrap 57 ((layBase e % 2 ^ 57 : Nat) + off)))
      else
        let a := ((layBase e % 2 ^ 22 : Nat) : Int) + off
        if a < 0 || a ≥ 2 ^ 22 then .error (5, 0) else .ok (.row a.toNat)

/-- TRAP_DATA of a layout fault (R209): bits [17:12] hold the access index, bits [19:18] the dimension of case 1. A VFEED of more
than 64 rows that faults at a row 64 or later shows the low six bits of its index (DESIGN CHOICE, log 62: the field is that
wide). -/
def layoutData (entry case t dim : Nat) : Nat := entry + case * 256 + t % 64 * 2 ^ 12 + dim % 4 * 2 ^ 18

/-- The scratchpad byte address of coordinates, or the fault. -/
def resolveRow (e : Nat) (cs : List Int) : Except (Nat × Nat) Nat :=
  match resolve e cs with
  | .ok (.row a) => .ok a
  | .ok _ => .error (2, 0)
  | .error c => .error c

/-- A 64-bit register value as a signed coordinate. -/
def coord (v : W64) : Int := v.toInt

/-! ### Element types (Table 03-6) -/

/-- Storage width of an element type code (R29, R148). -/
def tyWidth (t : Nat) : Nat := WellFormed.typeWidth t

/-- Whether an integer type code is signed. -/
def tySigned (t : Nat) : Bool := t < 4 || (16 ≤ t && t ≤ 22)

/-- An element read as its type says, signed or unsigned (R26). -/
def tyInt (t x : Nat) : Int := if tySigned t then signExt (tyWidth t) x else x % 2 ^ tyWidth t

/-- Width in bits of an element inside a described block, by format code (Table 02-4); 0 for codes that are not listed and for
the zero block. -/
def codeWidth (c : Nat) : Nat :=
  if c == 0x01 then 4 else if c == 0x02 || c == 0x03 then 6 else if c == 0x04 || c == 0x05 then 8
  else if c == 0x08 || c == 0x09 then 16 else if 0x12 ≤ c && c ≤ 0x18 then c - 0x10 else 0

/-- The element type code of a format code (Tables 02-4 and 03-6). -/
def codeType (c : Nat) : Nat :=
  if c == 0x01 then 15 else if c == 0x02 then 14 else if c == 0x03 then 13 else if c == 0x04 then 11
  else if c == 0x05 then 12 else if c == 0x08 then 8 else if c == 0x09 then 9 else c - 0x12 + 16

/-- The format code of an element type code 8, 9, or 11 to 22. -/
def typeCode (t : Nat) : Nat :=
  if t == 15 then 0x01 else if t == 14 then 0x02 else if t == 13 then 0x03 else if t == 11 then 0x04
  else if t == 12 then 0x05 else if t == 8 then 0x08 else if t == 9 then 0x09 else t - 16 + 0x12

/-- Register width of an element of a described block (R211). -/
def codeRegWidth (c : Nat) : Nat := if c == 0x01 then 4 else if c == 0x08 || c == 0x09 then 16 else 8

/-- A w-bit element of a block widened to its register form (R29): BFP mantissas are sign-extended. -/
def widenElem (c x : Nat) : Nat := if 0x12 ≤ c then wrap 8 (signExt (codeWidth c) x) else x % 2 ^ codeWidth c

/-! ### The source modifier (R62) -/

/-- ModLane. -/
def modLane (m l : Nat) : Nat :=
  let cls := bits m 10 2
  let k := bits m 6 4
  let d := bits m 0 6
  let sg := 2 ^ k
  let b := l - l % sg
  if cls = 0 then l
  else if cls = 1 then b + (l % sg + d) % sg
  else if cls = 2 then l ^^^ 2 ^ d
  else b + d

/-- Src for all lanes: the register after its modifier (R4, R62). -/
def modReg (v : VReg) (m : BitVec 12) : VReg :=
  if m = 0 then v
  else BitVec.ofNat 32768 (packElems 32 ((List.range 1024).map fun l => elemNat 32 v.toNat (modLane m.toNat l)))

/-! ### Elements of a register -/

/-- Elements of w bits in a register (R129). -/
def numElems (w : Nat) : Nat := 32768 / w

/-- Every element of a register. -/
def elemsOf (w : Nat) (v : VReg) : List Nat := unpackElems w (numElems w) v.toNat

/-- The lane of element j of w bits: its guard and its generator are that lane's; a 64-bit element follows its even lane
(R29, R58). -/
def laneOf (w j : Nat) : Nat := w * j / 32

/-- Element j is enabled. -/
def enElem (en : PMask) (w j : Nat) : Bool := en.getLsbD (laneOf w j)

/-- From element j on: an enabled element is replaced, any other stays (R60). -/
def mergeGo (en : PMask) (w : Nat) : (j : Nat) → (old new : List Nat) → List Nat
  | _, [], _ => []
  | _, old, [] => old
  | j, o :: os, n :: ns => (if enElem en w j then n else o) :: mergeGo en w (j + 1) os ns

/-- A register whose enabled elements are replaced. -/
def mergeElems (en : PMask) (w : Nat) (old : VReg) (new : List Nat) : VReg :=
  BitVec.ofNat 32768 (packElems w (mergeGo en w 0 (elemsOf w old) new))

/-- A register whose enabled lanes are replaced by those of another. -/
def mergeLanes (en : PMask) (old new : VReg) : VReg := mergeElems en 32 old (elemsOf 32 new)

/-- Bytes of a register from bit 0 up. -/
def regBytes (v : VReg) : List Byte := toBytes 4096 v.toNat

end Sys2Proof.Machine
end

