-- ==== Sys2Proof/Machine/Flags.lean ====
section
/-! DEFINITION. What A-engine words do with their results: FP_FLAGS of enabled elements (R45, R60), the random words of
stochastic rounding (R42, R43), predicate pairs (R61), and results that arrive later (R63, R131). -/

namespace Sys2Proof.Machine

/-- FP_FLAGS bits of the enabled elements from element j on (R60). -/
def flagsGo (en : PMask) (w : Nat) : (j : Nat) → List FRes → Nat
  | _, [] => 0
  | j, r :: rs => (if enElem en w j then r.2 else 0) ||| flagsGo en w (j + 1) rs

/-- Results written to a vector register with their flags (R129). -/
def Tile.writeElems (x : Tile) (en : PMask) (w vd : Nat) (rs : List FRes) : Tile :=
  (x.writeV vd (mergeElems en w (x.readV vd) (rs.map fun r => r.1))).orFlags (flagsGo en w 0 rs)

/-! ### Random words (R43) -/

/-- State of lane generator l. -/
def Tile.gen (x : Tile) (l : Nat) : Nat := elemNat 32 x.lg.toNat l

/-- The random word of element j of w bits: a lane draws for its elements in ascending order. -/
def Tile.randOf (x : Tile) (w j : Nat) : Nat :=
  bits (xorshiftN (j % max 1 (32 / w) + 1) (x.gen (laneOf w j))) 16 16

/-- Elements below n that lie in a lane. -/
def elemsInLane (w n l : Nat) : Nat :=
  if w = 64 then (if l % 2 = 0 && l / 2 < n then 1 else 0) else min (32 / w) (n - l * (32 / w))

/-- The generators after a word that computes n elements of w bits: each enabled element draws once. -/
def Tile.draw (x : Tile) (en : PMask) (w n : Nat) : Tile :=
  { x with lg := BitVec.ofNat 32768 (packElems 32 ((List.range 1024).map fun l =>
      if en.getLsbD l then xorshiftN (elemsInLane w n l) (x.gen l) else x.gen l)) }

/-- The generators after a word with rounding mode rnd: only mode 4 draws. -/
def Tile.drawIf (x : Tile) (rnd : Nat) (en : PMask) (w n : Nat) : Tile := if rnd = 4 then x.draw en w n else x

/-- The random word an element rounds with; 0 where its mode is not stochastic. -/
def Tile.randIf (x : Tile) (rnd w j : Nat) : Nat := if rnd = 4 then x.randOf w j else 0

/-- Every generator seeded (R43). -/
def seedGens (seed : Nat) : VReg := BitVec.ofNat 32768 (packElems 32 ((List.range 1024).map fun l => genSeed seed l))

/-! ### Predicate pairs (R61) -/

/-- The pair (pt, pf) of a compare: enabled lanes take the outcome and its negation; other lanes clear in the .z form. Where
both name one predicate it takes the false destination's value. -/
def Tile.writePair (x : Tile) (pt pf : Nat) (z : Bool) (en cond : PMask) : Tile :=
  let keep (old new : PMask) : PMask := (new &&& en) ||| (if z then 0 else old &&& ~~~en)
  let y := x.writeP pt (keep (x.readP pt) cond)
  y.writeP pf (keep (x.readP pf) (~~~cond))

/-- A compare word, which in its .z form has an effect even with no lane enabled (R139): both destinations clear. -/
def pairWord (s : State) (g : Guard) (pt pf : Nat) (z : Bool) (k : Tile → PMask → Ending) : Res :=
  let t := s.issue.tile
  let x := s.tile t
  let en := x.lanes s.issue.cap g
  if en = 0 && z then .next ((s.setTile t (x.writePair pt pf true 0 0)).retire true)
  else finish s (if en = 0 then .void else k x en)

/-! ### Results that arrive later (R63, R131) -/

/-- The register rows that hold an enabled lane. -/
def enRows (en : PMask) : BitVec 16 := BitVec.ofNat 16 (maskOf (fun j => bits en.toNat (64 * j) 64 != 0) 16)

/-- A register with some of its rows replaced (R98). -/
def mergeRows (rows : BitVec 16) (old new : VReg) : VReg :=
  if rows = 0xFFFF then new
  else BitVec.ofNat 32768 (packElems 2048 ((List.range 16).map fun j =>
    elemNat 2048 (if rows.getLsbD j then new else old).toNat j))

/-- A long-latency word issues: its destination is marked empty and its result, of some rows, is in flight; it goes on to its next word. -/
def State.issueLong (s : State) (kind : InKind) (tgt : Nat) (payload : VReg) (flags : Nat) (rows : BitVec 16) : State :=
  let t := s.issue.tile
  let x := s.tile t
  let y := x.markV tgt true
  s.setTile t { y with inflight := y.inflight ++
    [{ kind := kind, eng := s.issue.eng, tgt := tgt, payload := payload, rows := rows, flags := BitVec.ofNat 6 flags, seq := s.issue.seq,
       tag := s.issue.tag, addr := s.issue.addr, due := s.dueAt 0 }] }

/-- The k-th result in flight of a tile is written: its destination is full again, and its section ends with its last result
(R131, R155, R168). A VTOG retires with it. -/
def Tile.landResult (x : Tile) (k : Nat) : Tile :=
  match x.inflight[k]? with
  | none => x
  | some r =>
    let y := { x with inflight := x.inflight.eraseIdx k }
    let z := match r.kind with
      | .vtog => ((y.writeG r.tgt (BitVec.ofNat 64 r.payload.toNat)).markG r.tgt false).count (retireEvent .A) 1
      | _ => ((y.writeV r.tgt (mergeRows r.rows (y.readV r.tgt) r.payload)).orFlags r.flags.toNat).markV r.tgt false
    z.sweep

end Sys2Proof.Machine
end

