-- ==== Sys2Proof/Machine/SInt.lean ====
section
/-! DEFINITION. The S engine's integer arithmetic and logic, compares, and predicate words (R99-R108). -/

namespace Sys2Proof.Machine

/-- The named general-register sources of format S with their fe bits (Table 03-11). -/
def srcA (f : FmtS) : GSrc := ⟨f.ga.toNat, f.feA == 1, 0⟩
def srcB (f : FmtS) : GSrc := ⟨f.gb.toNat, f.feB == 1, 1⟩

/-- SignExt(imm32, 32). -/
def immS (imm : BitVec 32) : W64 := imm.signExtend 64

/-- G[gd] written by an S word. -/
def State.putG (s : State) (n : Nat) (v : W64) : State := s.setTile s.issue.tile ((s.tile s.issue.tile).writeG n v)

/-- A word gd, ga, gb (Table 06-1). -/
def sReg (s : State) (g : Guard) (f : FmtS) (val : W64 → W64 → W64) : Res :=
  sWord s g fun x => x.gateG s [srcA f, srcB f] [f.gd.toNat]
    (.retire (s.putG f.gd.toNat (val (x.readG f.ga.toNat) (x.readG f.gb.toNat))))

/-- A word gd, ga, imm32. -/
def sImm (s : State) (g : Guard) (f : FmtS) (val : W64 → W64 → W64) : Res :=
  sWord s g fun x => x.gateG s [srcA f] [f.gd.toNat]
    (.retire (s.putG f.gd.toNat (val (x.readG f.ga.toNat) (immS f.imm))))

/-- A word gd, ga. -/
def sUn (s : State) (g : Guard) (f : FmtS) (val : W64 → W64) : Res :=
  sWord s g fun x => x.gateG s [srcA f] [f.gd.toNat] (.retire (s.putG f.gd.toNat (val (x.readG f.ga.toNat))))

/-- A shift or rotate amount: b[5:0]. -/
def shAmt (b : W64) : Nat := b.toNat % 64

/-- Quotient truncating toward zero, all ones for a zero divisor (R102). -/
def divS (a b : W64) : W64 := if b = 0 then BitVec.allOnes 64 else a.sdiv b
def divN (a b : W64) : W64 := if b = 0 then BitVec.allOnes 64 else a / b

/-- Remainder with the sign of the dividend, the dividend for a zero divisor (R102). -/
def remS (a b : W64) : W64 := if b = 0 then a else a.srem b
def remN (a b : W64) : W64 := if b = 0 then a else a % b

def mulhS (a b : W64) : W64 := BitVec.ofInt 64 (a.toInt * b.toInt / (2 ^ 64 : Nat))
def mulhN (a b : W64) : W64 := BitVec.ofNat 64 (a.toNat * b.toNat / 2 ^ 64)

/-- ADD (R101). -/
def execAdd (g : Guard) (f : FmtS) (s : State) : Res := sReg s g f fun a b => a + b
/-- ADDI (R101). -/
def execAddi (g : Guard) (f : FmtS) (s : State) : Res := sImm s g f fun a b => a + b
/-- SUB (R101). -/
def execSub (g : Guard) (f : FmtS) (s : State) : Res := sReg s g f fun a b => a - b
/-- MUL (R101). -/
def execMul (g : Guard) (f : FmtS) (s : State) : Res := sReg s g f fun a b => a * b
/-- MULI (R101). -/
def execMuli (g : Guard) (f : FmtS) (s : State) : Res := sImm s g f fun a b => a * b
/-- MULH (R101). -/
def execMulh (g : Guard) (f : FmtS) (s : State) : Res := sReg s g f mulhS
/-- MULHN (R101). -/
def execMulhn (g : Guard) (f : FmtS) (s : State) : Res := sReg s g f mulhN
/-- DIV (R102). -/
def execDiv (g : Guard) (f : FmtS) (s : State) : Res := sReg s g f divS
/-- DIVN (R102). -/
def execDivn (g : Guard) (f : FmtS) (s : State) : Res := sReg s g f divN
/-- REM (R102). -/
def execRem (g : Guard) (f : FmtS) (s : State) : Res := sReg s g f remS
/-- REMN (R102). -/
def execRemn (g : Guard) (f : FmtS) (s : State) : Res := sReg s g f remN
/-- AND (R101). -/
def execAnd (g : Guard) (f : FmtS) (s : State) : Res := sReg s g f fun a b => a &&& b
/-- ANDI (R101). -/
def execAndi (g : Guard) (f : FmtS) (s : State) : Res := sImm s g f fun a b => a &&& b
/-- OR (R101). -/
def execOr (g : Guard) (f : FmtS) (s : State) : Res := sReg s g f fun a b => a ||| b
/-- ORI (R101). -/
def execOri (g : Guard) (f : FmtS) (s : State) : Res := sImm s g f fun a b => a ||| b
/-- XOR (R101). -/
def execXor (g : Guard) (f : FmtS) (s : State) : Res := sReg s g f fun a b => a ^^^ b
/-- XORI (R101). -/
def execXori (g : Guard) (f : FmtS) (s : State) : Res := sImm s g f fun a b => a ^^^ b
/-- ANDN (R101). -/
def execAndn (g : Guard) (f : FmtS) (s : State) : Res := sReg s g f fun a b => a &&& ~~~b
/-- SHL (R101). -/
def execShl (g : Guard) (f : FmtS) (s : State) : Res := sReg s g f fun a b => a <<< shAmt b
/-- SHLI (R101). -/
def execShli (g : Guard) (f : FmtS) (s : State) : Res := sImm s g f fun a b => a <<< shAmt b
/-- SHR (R101). -/
def execShr (g : Guard) (f : FmtS) (s : State) : Res := sReg s g f fun a b => a >>> shAmt b
/-- SHRI (R101). -/
def execShri (g : Guard) (f : FmtS) (s : State) : Res := sImm s g f fun a b => a >>> shAmt b
/-- SAR (R101). -/
def execSar (g : Guard) (f : FmtS) (s : State) : Res := sReg s g f fun a b => a.sshiftRight (shAmt b)
/-- SARI (R101). -/
def execSari (g : Guard) (f : FmtS) (s : State) : Res := sImm s g f fun a b => a.sshiftRight (shAmt b)
/-- ROL (R101). -/
def execRol (g : Guard) (f : FmtS) (s : State) : Res := sReg s g f fun a b => a.rotateLeft (shAmt b)
/-- ROLI (R101). -/
def execRoli (g : Guard) (f : FmtS) (s : State) : Res := sImm s g f fun a b => a.rotateLeft (shAmt b)
/-- MIN (R101). -/
def execMin (g : Guard) (f : FmtS) (s : State) : Res := sReg s g f fun a b => if a.slt b then a else b
/-- MINN (R101). -/
def execMinn (g : Guard) (f : FmtS) (s : State) : Res := sReg s g f fun a b => if a.ult b then a else b
/-- MAX (R101). -/
def execMax (g : Guard) (f : FmtS) (s : State) : Res := sReg s g f fun a b => if a.slt b then b else a
/-- MAXN (R101). -/
def execMaxn (g : Guard) (f : FmtS) (s : State) : Res := sReg s g f fun a b => if a.ult b then b else a
/-- CLZ (R101). -/
def execClz (g : Guard) (f : FmtS) (s : State) : Res := sUn s g f fun a => BitVec.ofNat 64 (clzNat 64 a.toNat)
/-- CTZ (R101). -/
def execCtz (g : Guard) (f : FmtS) (s : State) : Res := sUn s g f fun a => BitVec.ofNat 64 (ctzNat a.toNat 64)
/-- POPC (R101). -/
def execPopc (g : Guard) (f : FmtS) (s : State) : Res := sUn s g f fun a => BitVec.ofNat 64 (popCount a.toNat 64)

/-- lsb and width of BFX and BFI (R103). -/
def bfLsb (imm : BitVec 32) : Nat := bits imm.toNat 0 6
def bfWidth (imm : BitVec 32) : Nat := bits imm.toNat 6 7

/-- The value of BFI: a's low bits over the field of d (R103). -/
def bfInsert (imm : BitVec 32) (d a : W64) : W64 :=
  let mask : W64 := BitVec.ofNat 64 (2 ^ bfWidth imm - 1)
  (d &&& ~~~(mask <<< bfLsb imm)) ||| ((a &&& mask) <<< bfLsb imm)

/-- BFX (R103). -/
def execBfx (g : Guard) (f : FmtS) (s : State) : Res :=
  sUn s g f fun a => (a >>> bfLsb f.imm) &&& BitVec.ofNat 64 (2 ^ bfWidth f.imm - 1)

/-- BFI (R103): gd is also read, without an fe bit. -/
def execBfi (g : Guard) (f : FmtS) (s : State) : Res :=
  sWord s g fun x => x.gateG s [srcA f] [f.gd.toNat]
    (.retire (s.putG f.gd.toNat (bfInsert f.imm (x.readG f.gd.toNat) (x.readG f.ga.toNat))))

/-- SEL (R104). -/
def execSel (g : Guard) (f : FmtS) (s : State) : Res :=
  sWord s g fun x => x.gateG s [srcA f, srcB f] [f.gd.toNat]
    (.retire (s.putG f.gd.toNat (if x.readC f.ct.toNat then x.readG f.ga.toNat else x.readG f.gb.toNat)))

/-- MOVI (R104). -/
def execMovi (g : Guard) (f : FmtS) (s : State) : Res :=
  sWord s g fun x => x.gateG s [] [f.gd.toNat] (.retire (s.putG f.gd.toNat (immS f.imm)))

/-- MOVHI (R104): gd's low half stays. -/
def execMovhi (g : Guard) (f : FmtS) (s : State) : Res :=
  sWord s g fun x => x.gateG s [] [f.gd.toNat]
    (.retire (s.putG f.gd.toNat (f.imm ++ (x.readG f.gd.toNat).extractLsb' 0 32)))

/-! ### Compares and predicate logic -/

/-- The outcome of a condition code (Table 03-7); the codes 10 to 15 are refused when the word is fetched. -/
def condS (c : Nat) (a b : W64) : Bool :=
  match c with
  | 0 => a == b
  | 1 => a != b
  | 2 => a.slt b
  | 3 => a.sle b
  | 4 => b.slt a
  | 5 => b.sle a
  | 6 => a.ult b
  | 7 => a.ule b
  | 8 => b.ult a
  | _ => b.ule a

/-- The pair (ct, cf) written (R61). -/
def Tile.writeCPair (x : Tile) (ct cf : Nat) (cond : Bool) : Tile := (x.writeC ct cond).writeC cf (!cond)

/-- A CMP word: the .z form with a false guard clears both predicates and does nothing else (R106). -/
def cmpWord (s : State) (g : Guard) (f : FmtS) (srcs : List GSrc) (b : Tile → W64) : Res :=
  let t := s.issue.tile
  let x := s.tile t
  let z := f.cs.getLsbD 4
  if z && !x.guardS g then
    .next ((s.setTile t ((x.writeC f.ct.toNat false).writeC f.cf.toNat false)).retire true)
  else sWord s g fun x => x.gateG s srcs []
    (.retire (s.setTile t (x.writeCPair f.ct.toNat f.cf.toNat (condS (f.cs.toNat % 16) (x.readG f.ga.toNat) (b x)))))

/-- CMP (R105). -/
def execCmp (g : Guard) (f : FmtS) (s : State) : Res := cmpWord s g f [srcA f, srcB f] fun x => x.readG f.gb.toNat
/-- CMPI (R105). -/
def execCmpi (g : Guard) (f : FmtS) (s : State) : Res := cmpWord s g f [srcA f] fun _ => immS f.imm

/-- PLOG (R107). -/
def execPlog (g : Guard) (f : FmtS) (s : State) : Res :=
  sWord s g fun x =>
    let i := f.imm.toNat
    .retire (s.setTile s.issue.tile (x.writeC f.ct.toNat
      (ttBit (bits i 0 8) (x.readCS (bits i 8 4)) (x.readCS (bits i 12 4)) (x.readCS (bits i 16 4)))))

/-- PMOV to a general register (R108): bit 0 reads 1. -/
def execPmovPack (g : Guard) (f : FmtS) (s : State) : Res :=
  sWord s g fun x => x.gateG s [] [f.gd.toNat]
    (.retire (s.putG f.gd.toNat (BitVec.zeroExtend 64 (x.sw ++ (x.c ||| 1)))))

/-- PMOV from a general register (R108): c0 stays 1. -/
def execPmovUnpack (g : Guard) (f : FmtS) (s : State) : Res :=
  sWord s g fun x => x.gateG s [srcA f] []
    (.retire (s.setTile s.issue.tile { x with c := (x.readG f.ga.toNat).extractLsb' 0 8 ||| 1 }))

end Sys2Proof.Machine
end

