-- ==== Sys2Proof/Machine/VInt.lean ====
section
/-! DEFINITION. The A engine's V3 and VI words in general (R129-R131), and its integer words (R132, R133). -/

namespace Sys2Proof.Machine

/-- The named vector sources of format V3 with their fe bits (Table 03-2). -/
def v3A (cap : Capture) (f : FmtV3) : VSrc := ⟨f.va.toNat, cap.nameOf f.va.toNat, f.fe.getLsbD 2, 0⟩
def v3B (cap : Capture) (f : FmtV3) : VSrc := ⟨f.vb.toNat, cap.nameOf f.vb.toNat, f.fe.getLsbD 1, 1⟩
def v3C (cap : Capture) (f : FmtV3) : VSrc := ⟨f.vc.toNat, cap.nameOf f.vc.toNat, f.fe.getLsbD 0, 2⟩

/-- Src(va, moda) and Src(vb, modb); vc is read at lane position (R133, R134). -/
def Tile.srcVA (x : Tile) (f : FmtV3) : VReg := modReg (x.readV f.va.toNat) f.moda
def Tile.srcVB (x : Tile) (f : FmtV3) : VReg := modReg (x.readV f.vb.toNat) f.modb

/-- The results of elements from j on. -/
def mapElems (val : Nat → Nat → Nat → Nat → FRes) : (j : Nat) → (as bs cs : List Nat) → List FRes
  | j, a :: as, b :: bs, c :: cs => val j a b c :: mapElems val (j + 1) as bs cs
  | _, _, _, _ => []

/-- Which sources an elementwise word names. -/
inductive Arity where
  | one | two | three
  deriving DecidableEq, Repr

/-- The sources that are checked for emptiness. -/
def v3Srcs (cap : Capture) (f : FmtV3) : Arity → List VSrc
  | .one => [v3A cap f]
  | .two => [v3A cap f, v3B cap f]
  | .three => [v3A cap f, v3B cap f, v3C cap f]

/-- The results of an elementwise V3 word, `val j a b c` being element j; a source that is not named gives 0. -/
def Tile.v3Results (x : Tile) (f : FmtV3) (ar : Arity) (val : Nat → Nat → Nat → Nat → FRes) : List FRes :=
  let w := tyWidth f.ty.toNat
  let zeros := List.replicate (numElems w) 0
  mapElems val 0 (elemsOf w (x.srcVA f))
    (if ar = .one then zeros else elemsOf w (x.srcVB f))
    (if ar = .three then elemsOf w (x.readV f.vc.toNat) else zeros)

/-- An elementwise V3 word (R129): with `rounds`, its rnd field draws random words in mode 4 (R43). -/
def v3Word (s : State) (g : Guard) (f : FmtV3) (ar : Arity) (rounds : Bool) (val : Tile → Nat → Nat → Nat → Nat → FRes) :
    Res :=
  laneWord s g fun x en => x.gateV s (v3Srcs s.issue.cap f ar) [f.vd.toNat]
    (let w := tyWidth f.ty.toNat
     let y := x.writeElems en w f.vd.toNat (x.v3Results f ar (val x))
     .retire (s.putTile (if rounds then y.drawIf f.rnd.toNat en w (numElems w) else y)))

/-- An integer V3 word: no rounding (R132). -/
def vInt (s : State) (g : Guard) (f : FmtV3) (ar : Arity) (val : Nat → Nat → Nat → FRes) : Res :=
  v3Word s g f ar false fun _ _ a b c => val a b c

/-- A result mod 2^w, without a flag. -/
def wrapRes (t : Nat) (v : Int) : FRes := (wrap (tyWidth t) v, 0)

/-- Sat(t, v) with its flag. -/
def satRes (t : Nat) (v : Int) : FRes :=
  let r := satInt (tyWidth t) (tySigned t) v
  (wrap (tyWidth t) r.1, r.2)

/-- VADD (R132). -/
def execVadd (g : Guard) (f : FmtV3) (s : State) : Res :=
  vInt s g f .two fun a b _ => wrapRes f.ty.toNat (a + b : Nat)

/-- The immediate of VADDI (R133). -/
def vaddiImm (t : Nat) (imm : BitVec 32) : Int := if t = 3 then imm.toInt else imm.toNat

/-- VADDI (R132, R133). -/
def execVaddi (g : Guard) (f : FmtVI) (s : State) : Res :=
  laneWord s g fun x en =>
    x.gateV s [⟨f.va.toNat, s.issue.cap.nameOf f.va.toNat, f.fe == 1, 0⟩] [f.vd.toNat]
      (let t := f.ty.toNat
       let as := elemsOf (tyWidth t) (modReg (x.readV f.va.toNat) f.moda)
       .retire (s.putTile (x.writeElems en (tyWidth t) f.vd.toNat
         (as.map fun (a : Nat) => wrapRes t ((a : Int) + vaddiImm t f.imm)))))

/-- VSUB (R132). -/
def execVsub (g : Guard) (f : FmtV3) (s : State) : Res :=
  vInt s g f .two fun a b _ => wrapRes f.ty.toNat ((a : Int) - b)
/-- VADDS (R132, R133). -/
def execVadds (g : Guard) (f : FmtV3) (s : State) : Res :=
  vInt s g f .two fun a b _ => satRes f.ty.toNat (tyInt f.ty.toNat a + tyInt f.ty.toNat b)
/-- VSUBS (R132, R133). -/
def execVsubs (g : Guard) (f : FmtV3) (s : State) : Res :=
  vInt s g f .two fun a b _ => satRes f.ty.toNat (tyInt f.ty.toNat a - tyInt f.ty.toNat b)
/-- VMUL (R132). -/
def execVmul (g : Guard) (f : FmtV3) (s : State) : Res :=
  vInt s g f .two fun a b _ => wrapRes f.ty.toNat (a * b : Nat)
/-- VMULH (R132). -/
def execVmulh (g : Guard) (f : FmtV3) (s : State) : Res :=
  vInt s g f .two fun a b _ =>
    wrapRes f.ty.toNat (tyInt f.ty.toNat a * tyInt f.ty.toNat b / (2 ^ tyWidth f.ty.toNat : Nat))
/-- VMAD (R132, R133). -/
def execVmad (g : Guard) (f : FmtV3) (s : State) : Res :=
  vInt s g f .three fun a b c => wrapRes f.ty.toNat (a * b + c : Nat)
/-- VMIN (R132). -/
def execVmin (g : Guard) (f : FmtV3) (s : State) : Res :=
  vInt s g f .two fun a b _ => (if tyInt f.ty.toNat a ≤ tyInt f.ty.toNat b then a else b, 0)
/-- VMAX (R132). -/
def execVmax (g : Guard) (f : FmtV3) (s : State) : Res :=
  vInt s g f .two fun a b _ => (if tyInt f.ty.toNat a ≤ tyInt f.ty.toNat b then b else a, 0)
/-- VABS (R132, R133): the most negative value stays. -/
def execVabs (g : Guard) (f : FmtV3) (s : State) : Res :=
  vInt s g f .one fun a _ _ => wrapRes f.ty.toNat (tyInt f.ty.toNat a).natAbs
/-- VAND (R132). -/
def execVand (g : Guard) (f : FmtV3) (s : State) : Res := vInt s g f .two fun a b _ => (a &&& b, 0)
/-- VOR (R132). -/
def execVor (g : Guard) (f : FmtV3) (s : State) : Res := vInt s g f .two fun a b _ => (a ||| b, 0)
/-- VXOR (R132). -/
def execVxor (g : Guard) (f : FmtV3) (s : State) : Res := vInt s g f .two fun a b _ => (a ^^^ b, 0)
/-- VANDN (R132). -/
def execVandn (g : Guard) (f : FmtV3) (s : State) : Res :=
  vInt s g f .two fun a b _ => (a &&& ((2 ^ tyWidth f.ty.toNat - 1) ^^^ b), 0)
/-- VSHL (R132, R133). -/
def execVshl (g : Guard) (f : FmtV3) (s : State) : Res :=
  vInt s g f .two fun a b _ => wrapRes f.ty.toNat (a * 2 ^ (b % tyWidth f.ty.toNat) : Nat)
/-- VSHR (R132, R133): always logical. -/
def execVshr (g : Guard) (f : FmtV3) (s : State) : Res :=
  vInt s g f .two fun a b _ => (a / 2 ^ (b % tyWidth f.ty.toNat), 0)
/-- VSAR (R132, R133): always arithmetic. -/
def execVsar (g : Guard) (f : FmtV3) (s : State) : Res :=
  vInt s g f .two fun a b _ =>
    wrapRes f.ty.toNat (signExt (tyWidth f.ty.toNat) a / (2 ^ (b % tyWidth f.ty.toNat) : Nat))
/-- VCLZ (R132). -/
def execVclz (g : Guard) (f : FmtV3) (s : State) : Res := vInt s g f .one fun a _ _ => (clzNat (tyWidth f.ty.toNat) a, 0)
/-- VPOPC (R132). -/
def execVpopc (g : Guard) (f : FmtV3) (s : State) : Res :=
  vInt s g f .one fun a _ _ => (popCount a (tyWidth f.ty.toNat), 0)

end Sys2Proof.Machine
end

