-- ==== Sys2Proof/Machine/VFp.lean ====
section
/-! DEFINITION. The A engine's floating-point words (R134-R137), the long-latency ones among them (R131, R135), and the
completion of a long-latency result. -/

namespace Sys2Proof.Machine

/-- The format of a V3 floating word's type; the other types are refused when the word is forwarded (R134). -/
def fmtOfTy (t : Nat) : Fmt := (Fmt.ofType? t).getD .f32

/-- A floating word that rounds: `val t u a b c` on exact values, with the element's random word (R134, R43). -/
def vFloat (s : State) (g : Guard) (f : FmtV3) (ar : Arity) (val : Fmt → Nat → Fp → Fp → Fp → FRes) : Res :=
  let t := fmtOfTy f.ty.toNat
  v3Word s g f ar true fun x j a b c =>
    val t (x.randIf f.rnd.toNat (tyWidth f.ty.toNat) j) (t.decode a) (t.decode b) (t.decode c)

/-- A floating word on bit patterns that does not round (R136, R137). -/
def vFloatBits (s : State) (g : Guard) (f : FmtV3) (ar : Arity) (val : Fmt → Nat → Nat → Nat) : Res :=
  let t := fmtOfTy f.ty.toNat
  v3Word s g f ar false fun _ _ a b _ => (val t a b, 0)

/-- A long-latency V3 word: it draws and computes when it issues, and its result arrives later (R131). -/
def v3Long (s : State) (g : Guard) (f : FmtV3) (ar : Arity) (val : Tile → Nat → Nat → Nat → Nat → FRes) : Res :=
  laneWord s g fun x en => x.gateV s (v3Srcs s.issue.cap f ar) [f.vd.toNat]
    (let w := tyWidth f.ty.toNat
     let rs := x.v3Results f ar (val x)
     let s1 := s.putTile (x.drawIf f.rnd.toNat en w (numElems w))
     .retire (s1.issueLong .longLat f.vd.toNat (mergeElems en w (x.readV f.vd.toNat) (rs.map fun r => r.1))
       (flagsGo en w 0 rs) (enRows en)))

/-- A long-latency floating word on exact values. -/
def vFloatLong (s : State) (g : Guard) (f : FmtV3) (ar : Arity) (val : Fmt → Nat → Nat → Nat → FRes) : Res :=
  let t := fmtOfTy f.ty.toNat
  v3Long s g f ar fun x j a b _ => val t (x.randIf f.rnd.toNat (tyWidth f.ty.toNat) j) a b

/-- VFADD (R134). -/
def execVfadd (g : Guard) (f : FmtV3) (s : State) : Res :=
  vFloat s g f .two fun t u a b _ => t.add f.rnd.toNat u a b
/-- VFSUB (R134). -/
def execVfsub (g : Guard) (f : FmtV3) (s : State) : Res :=
  vFloat s g f .two fun t u a b _ => t.add f.rnd.toNat u a b.neg
/-- VFMUL (R134). -/
def execVfmul (g : Guard) (f : FmtV3) (s : State) : Res :=
  vFloat s g f .two fun t u a b _ => t.mul f.rnd.toNat u a b
/-- VFMA (R134). -/
def execVfma (g : Guard) (f : FmtV3) (s : State) : Res :=
  vFloat s g f .three fun t u a b c => t.fma f.rnd.toNat u a b c
/-- VFNMA (R134): c - a * b. -/
def execVfnma (g : Guard) (f : FmtV3) (s : State) : Res :=
  vFloat s g f .three fun t u a b c => t.fma f.rnd.toNat u a.neg b c
/-- VFMIN (R136). -/
def execVfmin (g : Guard) (f : FmtV3) (s : State) : Res := vFloatBits s g f .two fun t a b => t.minmax false a b
/-- VFMAX (R136). -/
def execVfmax (g : Guard) (f : FmtV3) (s : State) : Res := vFloatBits s g f .two fun t a b => t.minmax true a b
/-- VFABS (R136). -/
def execVfabs (g : Guard) (f : FmtV3) (s : State) : Res :=
  vFloatBits s g f .one fun t a _ => if (t.decode a).isNaN then t.nanRes.1 else a % 2 ^ (t.wid - 1)
/-- VFNEG (R136). -/
def execVfneg (g : Guard) (f : FmtV3) (s : State) : Res :=
  vFloatBits s g f .one fun t a _ => if (t.decode a).isNaN then t.nanRes.1 else a ^^^ 2 ^ (t.wid - 1)
/-- VFRCP (R135). -/
def execVfrcp (g : Guard) (f : FmtV3) (s : State) : Res :=
  vFloatLong s g f .one fun t u a _ => t.rcp f.rnd.toNat u (t.decode a)
/-- VFRSQ (R135). -/
def execVfrsq (g : Guard) (f : FmtV3) (s : State) : Res :=
  vFloatLong s g f .one fun t u a _ => t.rsq f.rnd.toNat u (t.decode a)
/-- VFSQRT (R135). -/
def execVfsqrt (g : Guard) (f : FmtV3) (s : State) : Res :=
  vFloatLong s g f .one fun t u a _ => t.sqrt f.rnd.toNat u (t.decode a)
/-- VFDIV (R135). -/
def execVfdiv (g : Guard) (f : FmtV3) (s : State) : Res :=
  vFloatLong s g f .two fun t u a b => t.div f.rnd.toNat u (t.decode a) (t.decode b)
/-- VFEXP2 (R135). -/
def execVfexp2 (g : Guard) (f : FmtV3) (s : State) : Res :=
  vFloatLong s g f .one fun t u a _ => t.exp2 f.ty.toNat f.rnd.toNat u a
/-- VFLOG2 (R135). -/
def execVflog2 (g : Guard) (f : FmtV3) (s : State) : Res :=
  vFloatLong s g f .one fun t u a _ => t.log2 f.ty.toNat f.rnd.toNat u a
/-- VFTANH (R135). -/
def execVftanh (g : Guard) (f : FmtV3) (s : State) : Res :=
  vFloatLong s g f .one fun t u a _ => t.tanh f.ty.toNat f.rnd.toNat u a
/-- VFEXPO (R137): an integer of the element's width. -/
def execVfexpo (g : Guard) (f : FmtV3) (s : State) : Res :=
  vFloatBits s g f .one fun t a _ => wrap t.wid (t.decode a).expo

/-- An earlier word of the engine of a result has still to write a row of the vector register that the result goes to (R131). -/
def Tile.lateWrites (x : Tile) (r : InFlight) : Bool :=
  r.kind != .vtog && x.late.any fun w => w.eng == r.eng && w.outs.any fun o => match o with | .vrow n _ _ => n == r.tgt | _ => false

/-- Result k in flight of a tile is of a kind that a completion row writes, and the tile is not frozen. -/
def State.mayLand (s : State) (tile k : Nat) (kind : InKind) : Bool :=
  let x := s.tile tile
  !x.quenched && (match x.inflight[k]? with | some r => r.kind == kind && r.rem == 0 && !x.lateWrites r | none => false)

/-- A result in flight is written (R131, R155, R168). -/
def State.land (s : State) (tile k : Nat) (kind : InKind) : Res :=
  .next (if s.mayLand tile k kind then s.setTile tile ((s.tile tile).landResult k) else s)

/-- LONG_LATENCY_COMPLETE (R131): the destination, its flags, and full again. -/
def execLongLatencyComplete (tile k : Nat) (s : State) : Res := s.land tile k .longLat

end Sys2Proof.Machine
end

