-- ==== Sys2Proof/Machine/VCmp.lean ====
section
/-! DEFINITION. Vector compares and VFCLASS (R138-R140), and the lane-predicate words (R161, R162). -/

namespace Sys2Proof.Machine

/-- A predicate from one outcome per element: a 64-bit element writes both its lanes (R61). -/
def predOf (w : Nat) (bs : List Bool) : PMask :=
  BitVec.ofNat 1024 (if w = 64 then packElems 2 (bs.map fun b => if b then 3 else 0) else packElems 1 (bs.map ofBool))

/-- The lanes a compare writes: a 64-bit element is enabled with its even lane (R58). -/
def pairLanes (w : Nat) (en : PMask) : PMask :=
  if w = 64 then predOf 64 ((List.range 512).map fun e => en.getLsbD (2 * e)) else en

/-- The named vector sources of format VP (Table 03-4). -/
def vpA (cap : Capture) (f : FmtVP) : VSrc := ⟨f.va.toNat, cap.nameOf f.va.toNat, f.fe.getLsbD 1, 0⟩
def vpB (cap : Capture) (f : FmtVP) : VSrc := ⟨f.vb.toNat, cap.nameOf f.vb.toNat, f.fe.getLsbD 0, 1⟩

/-- A VP word that writes a predicate pair from one outcome per element of w bits. -/
def vpWord (s : State) (g : Guard) (f : FmtVP) (w : Nat) (srcs : List VSrc) (cond : Tile → List Bool) : Res :=
  pairWord s g f.pt.toNat f.pf.toNat (f.z == 1) fun x en => x.gateV s srcs []
    (.retire (s.putTile (x.writePair f.pt.toNat f.pf.toNat (f.z == 1) (pairLanes w en) (predOf w (cond x)))))

/-- The outcome of conditions 0 to 5 from less and equal (Table 03-7). -/
def condOrd (c : Nat) (lt eq : Bool) : Bool :=
  match c with
  | 0 => eq
  | 1 => !eq
  | 2 => lt
  | 3 => lt || eq
  | 4 => !(lt || eq)
  | _ => !lt

/-- An integer compare by type (R138). -/
def condInt (c t : Nat) (a b : Nat) : Bool :=
  condOrd c (decide (tyInt t a < tyInt t b)) (decide (tyInt t a = tyInt t b))

/-- VCMP (R138). -/
def execVcmp (g : Guard) (f : FmtVP) (s : State) : Res :=
  let w := tyWidth f.ty.toNat
  vpWord s g f w [vpA s.issue.cap f, vpB s.issue.cap f] fun x =>
    List.zipWith (condInt (f.sel.toNat % 16) f.ty.toNat) (elemsOf w (modReg (x.readV f.va.toNat) f.moda))
      (elemsOf w (modReg (x.readV f.vb.toNat) f.modb))

/-- VCMPI (R138): the 28-bit immediate by the type's signedness. -/
def execVcmpi (g : Guard) (f : FmtVPI) (s : State) : Res :=
  let w := tyWidth f.ty.toNat
  pairWord s g f.pt.toNat f.pf.toNat (f.z == 1) fun x en =>
    x.gateV s [⟨f.va.toNat, s.issue.cap.nameOf f.va.toNat, f.fe == 1, 0⟩] []
      (let b := wrap w (if tySigned f.ty.toNat then f.imm.toInt else (f.imm.toNat : Int))
       let cond := (elemsOf w (modReg (x.readV f.va.toNat) f.moda)).map fun a => condInt f.cond.toNat f.ty.toNat a b
       .retire (s.putTile (x.writePair f.pt.toNat f.pf.toNat (f.z == 1) (pairLanes w en) (predOf w cond))))

/-- A floating compare (R51, R138): ordered conditions are false on NaN, ne is true; 10 is unordered, 11 ordered. -/
def condFloat (c : Nat) (a b : Fp) : Bool :=
  let nan := a.isNaN || b.isNaN
  if c = 10 then nan
  else if c = 11 then !nan
  else if nan then c == 1
  else condOrd c (Fp.cmp a b).1 (Fp.cmp a b).2

/-- VFCMP (R138). -/
def execVfcmp (g : Guard) (f : FmtVP) (s : State) : Res :=
  vpWord s g f 32 [vpA s.issue.cap f, vpB s.issue.cap f] fun x =>
    List.zipWith (fun a b => condFloat (f.sel.toNat % 16) (Fmt.f32.decode a) (Fmt.f32.decode b))
      (elemsOf 32 (modReg (x.readV f.va.toNat) f.moda)) (elemsOf 32 (modReg (x.readV f.vb.toNat) f.modb))

/-- VFCLASS (R140). -/
def execVfclass (g : Guard) (f : FmtVP) (s : State) : Res :=
  vpWord s g f 32 [vpA s.issue.cap f] fun x =>
    (elemsOf 32 (modReg (x.readV f.va.toNat) f.moda)).map fun a => bit f.sel.toNat (Fmt.f32.classOf a)

/-! ### Lane-predicate words -/

/-- Name fields of the predicate words (Table 08-3): word bits [29:26], [25:22], [21:18] are modb's. -/
def vpNameA (f : FmtVP) : Nat := bits f.modb.toNat 8 4
def vpNameB (f : FmtVP) : Nat := bits f.modb.toNat 4 4
def vpNameC (f : FmtVP) : Nat := bits f.modb.toNat 0 4

/-- A predicate word writes its pair from a lane mask (R161, R162). -/
def predWord (s : State) (g : Guard) (f : FmtVP) (srcs : List VSrc) (cond : Tile → PMask) : Res :=
  pairWord s g f.pt.toNat f.pf.toNat (f.z == 1) fun x en => x.gateV s srcs []
    (.retire (s.putTile (x.writePair f.pt.toNat f.pf.toNat (f.z == 1) en (cond x))))

/-- VPLOG (R162). -/
def execVplog (g : Guard) (f : FmtVP) (s : State) : Res :=
  predWord s g f [] fun x =>
    ttMask f.sel.toNat (x.lanePred s.issue.cap (vpNameA f)) (x.lanePred s.issue.cap (vpNameB f))
      (x.lanePred s.issue.cap (vpNameC f))

/-- The first n set lanes of a mask, from lane l up (R162). -/
def firstLanes (a : PMask) : (n l left : Nat) → List Bool
  | _, _, 0 => []
  | n, l, k + 1 =>
    if a.getLsbD l then (if n = 0 then false else true) :: firstLanes a (n - 1) (l + 1) k
    else false :: firstLanes a n (l + 1) k

/-- VPCNT (R162): the count is lane 0 of the modified source. -/
def execVpcnt (g : Guard) (f : FmtVP) (s : State) : Res :=
  predWord s g f [vpA s.issue.cap f] fun x =>
    let n := elemNat 32 (modReg (x.readV f.va.toNat) f.moda).toNat 0
    predOf 32 (firstLanes (x.lanePred s.issue.cap (vpNameA f)) n 0 1024)

/-- VPFIND (R162): the first or the last set lane. -/
def execVpfind (g : Guard) (f : FmtVP) (s : State) : Res :=
  predWord s g f [] fun x =>
    let a := x.lanePred s.issue.cap (vpNameA f)
    if a = 0 then 0
    else if f.sel.getLsbD 0 then BitVec.ofNat 1024 (2 ^ lg2 a.toNat)
    else BitVec.ofNat 1024 (2 ^ ctzNat a.toNat 1024)

/-- VPMOV (R162): one bit of each lane, or whether the lane is nonzero. -/
def execVpmov (g : Guard) (f : FmtVP) (s : State) : Res :=
  predWord s g f [vpA s.issue.cap f] fun x =>
    predOf 32 ((elemsOf 32 (modReg (x.readV f.va.toNat) f.moda)).map fun a =>
      if f.sel.getLsbD 6 then a != 0 else bit a (bits f.sel.toNat 0 6))

end Sys2Proof.Machine
end

