-- ==== Sys2Proof/Machine/VCvt.lean ====
section
/-! DEFINITION. The conversions of format VC (R141-R146) and the quantisation of a group of 32 values that VQNT and XCONV share
(R44). -/

namespace Sys2Proof.Machine

/-- Storage widths of a conversion and the number of elements it processes (R141). -/
def vcN (f : FmtVC) : Nat := 32768 / max (tyWidth f.st.toNat) (tyWidth f.dt.toNat)

/-- The named vector sources of format VC (Table 03-5). -/
def vcA (cap : Capture) (f : FmtVC) : VSrc := ⟨f.va.toNat, cap.nameOf f.va.toNat, f.fe.getLsbD 1, 0⟩
def vcB (cap : Capture) (f : FmtVC) : VSrc := ⟨f.vb.toNat, cap.nameOf f.vb.toNat, f.fe.getLsbD 0, 1⟩

/-- The first N source elements of a conversion (R141). -/
def Tile.vcSrc (x : Tile) (f : FmtVC) : List Nat :=
  unpackElems (tyWidth f.st.toNat) (vcN f) (modReg (x.readV f.va.toNat) f.moda).toNat

/-- The results of a conversion with the zero fill of R141. -/
def vcFill (f : FmtVC) (rs : List FRes) : List FRes :=
  rs ++ List.replicate (numElems (tyWidth f.dt.toNat) - vcN f) (0, 0)

/-- The results of elements from j on. -/
def mapFrom (val : Nat → Nat → FRes) : (j : Nat) → List Nat → List FRes
  | _, [] => []
  | j, a :: as => val j a :: mapFrom val (j + 1) as

/-- An elementwise conversion: it draws for its first N destination elements under rnd 4 (R141). -/
def vcWord (s : State) (g : Guard) (f : FmtVC) (val : (u : Nat) → Nat → FRes) : Res :=
  laneWord s g fun x en => x.gateV s [vcA s.issue.cap f] [f.vd.toNat]
    (let wd := tyWidth f.dt.toNat
     let rs := mapFrom (fun j a => val (x.randIf f.rnd.toNat wd j) a) 0 (x.vcSrc f)
     .retire (s.putTile ((x.writeElems en wd f.vd.toNat (vcFill f rs)).drawIf f.rnd.toNat en wd (vcN f))))

/-! ### VCVT, VFCVT -/

/-- An integer as a value. -/
def Fp.ofInt (v : Int) : Fp := .fin (v < 0) v.natAbs 0

/-- A value converted to an integer type: nearest under rnd, clamped (R142). -/
def toInteger (t rnd u : Nat) (x : Fp) : FRes :=
  let w := tyWidth t
  match x with
  | .nan => (0, flInv)
  | .inf s => (wrap w (if s then intLo w (tySigned t) else intHi w (tySigned t)), flSat)
  | .fin s m e =>
    let r := roundInt rnd u s m e
    let c := satInt w (tySigned t) r.1
    (wrap w c.1, c.2 + (if r.2 then flInx else 0))

/-- VCVT of one element (R142). -/
def vcvt1 (dt st : Nat) (sat : Bool) (rnd u a : Nat) : FRes :=
  if st < 8 then
    let v := tyInt st a
    if dt < 8 then (if sat then satRes dt v else wrapRes dt v)
    else (fmtOfTy dt).ofFp rnd u sat (Fp.ofInt v)
  else toInteger dt rnd u ((fmtOfTy st).decode a)

/-- VCVT (R142). -/
def execVcvt (g : Guard) (f : FmtVC) (s : State) : Res :=
  vcWord s g f fun u a => vcvt1 f.dt.toNat f.st.toNat (f.sat == 1) f.rnd.toNat u a

/-- VFCVT (R143). -/
def execVfcvt (g : Guard) (f : FmtVC) (s : State) : Res :=
  vcWord s g f fun u a => (fmtOfTy f.dt.toNat).ofFp f.rnd.toNat u (f.sat == 1) ((fmtOfTy f.st.toNat).decode a)

/-! ### Quantisation of a group (R44) -/

/-- emax_elem (Table 02-5) of an element type code 11 to 22. -/
def emaxElem (t : Nat) : Int :=
  match t with
  | 15 => 2
  | 14 => 2
  | 13 => 4
  | 11 => 8
  | 12 => 15
  | n => (n : Int) - 16

/-- A value rounded to an element type: RoundTo in its saturating form; for BFP an integer, clamped (R44). -/
def quantElem (t rnd u : Nat) (x : Fp) : FRes :=
  if t < 16 then (fmtOfTy t).ofFp rnd u true x
  else match x with
    | .fin s m e =>
      let r := roundInt rnd u s m e
      let c := satInt (t - 14) true r.1
      (wrap 8 c.1, c.2 + (if r.2 then flInx else 0))
    | _ => (0, 0)

/-- The greatest floor(log2 |x|) of the nonzero values of a group; none where all are zero. -/
def groupTop : List Fp → Option Int
  | [] => none
  | x :: xs =>
    match groupTop xs with
    | none => if x.isZero then none else some x.ilog
    | some k => if x.isZero then some k else some (max k x.ilog)

/-- A quantised group: its scale byte, the flags of a NaN or infinite group, and its elements with their flags. `us` are the
random words of its elements. -/
def quantGroup (t rnd : Nat) (us : List Nat) (xs : List Fp) : Nat × Nat × List FRes :=
  let zeros := xs.map fun _ => ((0, 0) : FRes)
  if xs.any Fp.isNaN then (0xFF, flInv, zeros)
  else if xs.any Fp.isInf then (0xFF, flOvf, zeros)
  else match groupTop xs with
    | none => (0x7F, 0, zeros)
    | some k =>
      let b := min (max (k - emaxElem t + 127) 0) 254
      (b.toNat, 0, List.zipWith (fun u x => quantElem t rnd u (x.scale (127 - b))) us xs)

/-- A list cut into groups of 32; `n` bounds their number. -/
def groups32 {α : Type} : (n : Nat) → List α → List (List α)
  | 0, _ => []
  | n + 1, l => l.take 32 :: groups32 n (l.drop 32)

/-- VQNT (R44, R144, R146). -/
def execVqnt (g : Guard) (f : FmtVC) (s : State) : Res :=
  laneWord s g fun x en => x.gateV s [vcA s.issue.cap f] [f.vd.toNat, f.vb.toNat]
    (let wd := tyWidth f.dt.toNat
     let n := vcN f
     let t := f.dt.toNat
     let src := (x.vcSrc f).map fun a => (fmtOfTy f.st.toNat).decode a
     let us := (List.range n).map fun j => x.randIf f.rnd.toNat wd j
     let qs := List.zipWith (quantGroup t f.rnd.toNat) (groups32 (n / 32) us) (groups32 (n / 32) src)
     let heads := qs.map fun q => ((typeCode t + 256 * q.1, q.2.1) : FRes)
     let y := x.writeElems en wd f.vd.toNat (vcFill f (qs.flatMap fun q => q.2.2))
     let z := y.writeElems en 16 f.vb.toNat (heads ++ List.replicate (2048 - n / 32) (0, 0))
     .retire (s.putTile (z.drawIf f.rnd.toNat en wd n)))

/-- The value of an element of a block with code c under a scale byte that is not 0xFF (R33); a .bfp element is the low bits of its byte
(log 69). -/
def blockValue (c scale a : Nat) : Fp :=
  let t := codeType c
  (if t ≥ 16 then Fp.ofInt (signExt (t - 14) a) else (fmtOfTy t).decode a).scale ((scale : Int) - 127)

/-- VDQNT of one element under its head (R145). -/
def vdqnt1 (dt : Nat) (sat : Bool) (rnd u head a : Nat) : FRes :=
  let c := head % 256
  let b := head / 256
  let t := fmtOfTy dt
  if c = 0 then (0, 0)
  else if b = 0xFF then (t.nanRes.1, 0)
  else t.ofFp rnd u sat (blockValue c b a)

/-- VDQNT (R145, R146): heads of groups with no enabled destination element are not looked at. -/
def execVdqnt (g : Guard) (f : FmtVC) (s : State) : Res :=
  laneWord s g fun x en => x.gateV s [vcA s.issue.cap f, vcB s.issue.cap f] [f.vd.toNat]
    (let wd := tyWidth f.dt.toNat
     let n := vcN f
     let heads := unpackElems 16 (n / 32) (modReg (x.readV f.vb.toNat) f.modb).toNat
     let used (i : Nat) : Bool := (List.range 32).any fun k => enElem en wd (32 * i + k)
     match (List.range (n / 32)).find? (fun i =>
       used i && heads.getD i 0 % 256 != 0 && heads.getD i 0 % 256 != typeCode f.st.toNat) with
     | some i => .trap s 6 (heads.getD i 0 % 256 * 256 + i)
     | none =>
       let hs := heads.flatMap fun h => List.replicate 32 h
       let us := (List.range n).map fun j => x.randIf f.rnd.toNat wd j
       let rs := List.zipWith (fun (uh : Nat × Nat) a => vdqnt1 f.dt.toNat (f.sat == 1) f.rnd.toNat uh.1 uh.2 a)
         (us.zip hs) (x.vcSrc f)
       .retire (s.putTile ((x.writeElems en wd f.vd.toNat (vcFill f rs)).drawIf f.rnd.toNat en wd n)))

end Sys2Proof.Machine
end

