-- ==== Sys2Proof/Machine/VLane.lean ====
section
/-! DEFINITION. The A engine's moves, broadcast, permutation and rotate-merge words, and VTOG (R148-R155). -/

namespace Sys2Proof.Machine

/-- A V3 word that copies bit patterns: `val` gives every element of the result (R149). -/
def moveWord (s : State) (g : Guard) (f : FmtV3) (ar : Arity) (val : Tile → List Nat) : Res :=
  laneWord s g fun x en => x.gateV s (v3Srcs s.issue.cap f ar) [f.vd.toNat]
    (.retire (s.putTile (x.writeV f.vd.toNat
      (mergeElems en (tyWidth f.ty.toNat) (x.readV f.vd.toNat) (val x)))))

/-- The elements of the modified sources. -/
def Tile.elemsVA (x : Tile) (f : FmtV3) : List Nat := elemsOf (tyWidth f.ty.toNat) (x.srcVA f)
def Tile.elemsVB (x : Tile) (f : FmtV3) : List Nat := elemsOf (tyWidth f.ty.toNat) (x.srcVB f)

/-- VMOV (R149). -/
def execVmov (g : Guard) (f : FmtV3) (s : State) : Res := moveWord s g f .one fun x => x.elemsVA f

/-- VBCST (R151): one element within each segment of 2^k. -/
def execVbcst (g : Guard) (f : FmtV3) (s : State) : Res :=
  moveWord s g f .one fun x =>
    let w := tyWidth f.ty.toNat
    let seg := 2 ^ f.vb.toNat
    let src := (x.srcVA f).toNat
    (List.range (numElems w)).map fun j => elemNat w src (j - j % seg + f.modb.toNat)

/-- VIOTA (R149). -/
def execViota (g : Guard) (f : FmtV3) (s : State) : Res :=
  laneWord s g fun x en => x.gateV s [] [f.vd.toNat]
    (let w := tyWidth f.ty.toNat
     .retire (s.putTile (x.writeV f.vd.toNat
       (mergeElems en w (x.readV f.vd.toNat) ((List.range (numElems w)).map fun j => j % 2 ^ w)))))

/-- VSEL (R149): the predicate bit of the element's lane chooses. -/
def execVsel (g : Guard) (f : FmtV3) (s : State) : Res :=
  moveWord s g f .two fun x =>
    let p := x.readP (f.vc.toNat % 8)
    mergeGo p (tyWidth f.ty.toNat) 0 (x.elemsVB f) (x.elemsVA f)

/-- VPERM (R152): the index of each element is the low bits of vb's element. -/
def execVperm (g : Guard) (f : FmtV3) (s : State) : Res :=
  moveWord s g f .two fun x =>
    let w := tyWidth f.ty.toNat
    let src := (x.srcVA f).toNat
    (x.elemsVB f).map fun i => elemNat w src (i % numElems w)

/-- VRMRG (R153): 4,096 bytes from byte o of the two sources. -/
def execVrmrg (g : Guard) (f : FmtV3) (s : State) : Res :=
  moveWord s g f .three fun x =>
    let o := elemNat 32 (x.readV f.vc.toNat).toNat 0 % 4096
    ((elemsOf 8 (x.srcVA f) ++ elemsOf 8 (x.srcVB f)).drop o).take 4096

/-- The value VTOG delivers, by type (R154). -/
def vtogValue (t : Nat) (src : VReg) : W64 :=
  let l0 := elemNat 32 src.toNat 0
  if t = 3 ∨ t = 7 then BitVec.ofNat 64 (elemNat 64 src.toNat 0)
  else if tySigned t then BitVec.ofInt 64 (signExt (tyWidth t) l0)
  else BitVec.ofNat 64 (l0 % 2 ^ tyWidth t)

/-- VTOG (R154, R155): gd has been empty since forwarding; a word that is not enabled marks it full at once, whatever its
other lanes' guards say (log 67). An enabled one retires when gd is written; later A words go on. -/
def execVtog (g : Guard) (f : FmtV3) (s : State) : Res :=
  let x := s.tile s.issue.tile
  let en := x.lanes s.issue.cap g
  let gd := f.vd.toNat % 64
  if !en.getLsbD 0 then .next ((s.putTile (x.markG gd false)).retire (en == 0))
  else finish s (x.gateV s (v3Srcs s.issue.cap f .one) []
    (.pass (s.putTile { x with inflight := x.inflight ++
      [{ kind := .vtog, eng := s.issue.eng, tgt := gd, payload := (vtogValue f.ty.toNat (x.srcVA f)).zeroExtend 32768,
         seq := s.issue.seq, tag := s.issue.tag, addr := s.issue.addr, due := s.dueAt 0 }] })))

/-- VTOG_COMPLETE (R155): gd is written and marked full. -/
def execVtogComplete (tile k : Nat) (s : State) : Res := s.land tile k .vtog

end Sys2Proof.Machine
end

