-- ==== Sys2Proof/Machine/VRed.lean ====
section
/-! DEFINITION. Reductions and scans (R156, R157): a pairwise tree and a doubling scan over elements that may be absent. -/

namespace Sys2Proof.Machine

/-- A combine: absent operands set nothing (R157). The flags are collected beside the elements. -/
def comb (op : Nat → Nat → FRes) (a b : Option Nat) : Option Nat × Nat :=
  match a, b with
  | none, y => (y, 0)
  | x, none => (x, 0)
  | some x, some y => let r := op x y; (some r.1, r.2)

/-- One level of the tree: neighbours combined. -/
def treeLevel (op : Nat → Nat → FRes) : List (Option Nat) → List (Option Nat) × Nat
  | a :: b :: l =>
    let c := comb op a b
    let r := treeLevel op l
    (c.1 :: r.1, c.2 ||| r.2)
  | l => (l, 0)

/-- d levels of the tree: one value for each segment of 2^d elements. -/
def treeGo (op : Nat → Nat → FRes) : (d : Nat) → List (Option Nat) → List (Option Nat) × Nat
  | 0, l => (l, 0)
  | d + 1, l =>
    let a := treeLevel op l
    let b := treeGo op d a.1
    (b.1, a.2 ||| b.2)

/-- A reduction with segments of 2^k: every element gets its segment's result (R157). -/
def reduceAll (op : Nat → Nat → FRes) (k : Nat) (l : List (Option Nat)) : List (Option Nat) × Nat :=
  let r := treeGo op k l
  (r.1.flatMap fun x => List.replicate (2 ^ k) x, r.2)

/-- One step of the scan at distance 2^d: `prev` is the list moved up by that distance. -/
def scanLevel (op : Nat → Nat → FRes) (seg dist : Nat) : (j : Nat) → (prev l : List (Option Nat)) → List (Option Nat) × Nat
  | j, p :: ps, x :: xs =>
    let c := if j % seg ≥ dist then comb op p x else (x, 0)
    let r := scanLevel op seg dist (j + 1) ps xs
    (c.1 :: r.1, c.2 ||| r.2)
  | _, _, _ => ([], 0)

/-- The levels d, d + 1, ... of the scan; n are left. -/
def scanGo (op : Nat → Nat → FRes) (seg : Nat) : (n d : Nat) → List (Option Nat) → List (Option Nat) × Nat
  | 0, _, l => (l, 0)
  | n + 1, d, l =>
    let a := scanLevel op seg (2 ^ d) 0 (List.replicate (2 ^ d) none ++ l) l
    let b := scanGo op seg n (d + 1) a.1
    (b.1, a.2 ||| b.2)

/-- An inclusive scan in segments of 2^k (R157). -/
def scanAll (op : Nat → Nat → FRes) (k : Nat) (l : List (Option Nat)) : List (Option Nat) × Nat := scanGo op (2 ^ k) k 0 l

/-- The integer operations of Table 08-2. -/
def redInt (o t a b : Nat) : FRes :=
  let w := tyWidth t
  match o with
  | 0 => ((a + b) % 2 ^ w, 0)
  | 1 => (if tyInt t a ≤ tyInt t b then a else b, 0)
  | 2 => (if tyInt t a ≤ tyInt t b then b else a, 0)
  | 3 => (a &&& b, 0)
  | 4 => (a ||| b, 0)
  | _ => (a ^^^ b, 0)

/-- The floating operations of Table 08-2. -/
def redFloat (o t rnd a b : Nat) : FRes :=
  let fm := fmtOfTy t
  match o with
  | 0 => fm.add rnd 0 (fm.decode a) (fm.decode b)
  | 1 => (fm.minmax false a b, 0)
  | _ => (fm.minmax true a b, 0)

/-- The operation and segment fields in vc (R156). -/
def redOp (f : FmtV3) : Nat := bits f.vc.toNat 0 4
def redSeg (f : FmtV3) : Nat := bits f.vc.toNat 4 4

/-- A reduction or scan: a long-latency word (R131, R157). -/
def redWord (s : State) (g : Guard) (f : FmtV3) (all : Nat → List (Option Nat) → List (Option Nat) × Nat) : Res :=
  laneWord s g fun x en => x.gateV s (v3Srcs s.issue.cap f .one) [f.vd.toNat]
    (let w := tyWidth f.ty.toNat
     let src := (x.elemsVA f).zipIdx.map fun p => if enElem en w p.2 then some p.1 else none
     let r := all (redSeg f) src
     .retire (s.issueLong .longLat f.vd.toNat
       (mergeElems en w (x.readV f.vd.toNat) (r.1.map fun y => y.getD 0)) r.2 (enRows en)))

/-- VRED (R157). -/
def execVred (g : Guard) (f : FmtV3) (s : State) : Res := redWord s g f (reduceAll (redInt (redOp f) f.ty.toNat))
/-- VFRED (R157). -/
def execVfred (g : Guard) (f : FmtV3) (s : State) : Res :=
  redWord s g f (reduceAll (redFloat (redOp f) f.ty.toNat f.rnd.toNat))
/-- VSCAN (R157). -/
def execVscan (g : Guard) (f : FmtV3) (s : State) : Res := redWord s g f (scanAll (redInt (redOp f) f.ty.toNat))
/-- VFSCAN (R157). -/
def execVfscan (g : Guard) (f : FmtV3) (s : State) : Res :=
  redWord s g f (scanAll (redFloat (redOp f) f.ty.toNat f.rnd.toNat))

end Sys2Proof.Machine
end

