-- ==== Sys2Proof/Machine/VSparse.lean ====
section
/-! DEFINITION. 4:8 sparsity: metadata bytes, pruning and expansion (R158-R160). -/

namespace Sys2Proof.Machine

/-- A metadata byte is valid when exactly four of its bits are 1 (R158). -/
def metaValid (m : Nat) : Bool := popCount m 8 == 4

/-- The rank of an element's magnitude (R159): a number, larger for a larger magnitude; NaN above every number. Magnitudes of
a floating type rank as their bit patterns without the sign. -/
def magOf (t x : Nat) : Nat :=
  if t < 8 then (tyInt t x).natAbs
  else
    let fm := fmtOfTy t
    if (fm.decode x).isNaN then 2 ^ 64 else x % 2 ^ (fm.wid - 1)

/-- The mask of the four elements of a group that are kept: ties keep the lower index (R159). -/
def keepMask (ms : List Nat) : Nat :=
  maskOf (fun t =>
    decide (((List.range 8).filter fun u =>
      ms.getD u 0 > ms.getD t 0 || (ms.getD u 0 == ms.getD t 0 && u < t)).length < 4)) 8

/-- A list cut into groups of eight. -/
def groups8 {α : Type} : (n : Nat) → List α → List (List α)
  | 0, _ => []
  | n + 1, l => l.take 8 :: groups8 n (l.drop 8)

/-- The elements of a group whose mask bits are set, in ascending order. -/
def keptOf (mask : Nat) (l : List Nat) : List Nat := (l.zipIdx.filter fun p => bit mask p.2).map fun p => p.1

/-- VSPCMP (R159): the pruned elements go to vd and the metadata bytes to vm, which vb names. -/
def execVspcmp (g : Guard) (f : FmtV3) (s : State) : Res :=
  laneWord s g fun x en => x.gateV s (v3Srcs s.issue.cap f .one) [f.vd.toNat, f.vb.toNat]
    (let w := tyWidth f.ty.toNat
     let n := numElems w
     let gs := groups8 (n / 8) (x.elemsVA f)
     let ms := gs.map fun l => keepMask (l.map (magOf f.ty.toNat))
     let kept := (List.zipWith keptOf ms gs).flatMap id
     let y := x.writeV f.vd.toNat (mergeElems en w (x.readV f.vd.toNat) (kept ++ List.replicate (n / 2) 0))
     .retire (s.putTile (y.writeV f.vb.toNat
       (mergeElems en 8 (y.readV f.vb.toNat) (ms ++ List.replicate (4096 - n / 8) 0)))))

/-- A group expanded under its mask, from the elements that were kept (R160). -/
def expandGo (mask : Nat) : (t left : Nat) → List Nat → List Nat
  | _, 0, _ => []
  | t, k + 1, [] => 0 :: expandGo mask (t + 1) k []
  | t, k + 1, a :: l => if bit mask t then a :: expandGo mask (t + 1) k l else 0 :: expandGo mask (t + 1) k (a :: l)

/-- A list cut into groups of four. -/
def groups4 {α : Type} : (n : Nat) → List α → List (List α)
  | 0, _ => []
  | n + 1, l => l.take 4 :: groups4 n (l.drop 4)

/-- VSPEXP (R160): the lowest invalid byte of a group with an enabled lane faults before anything changes. -/
def execVspexp (g : Guard) (f : FmtV3) (s : State) : Res :=
  laneWord s g fun x en => x.gateV s (v3Srcs s.issue.cap f .two) [f.vd.toNat]
    (let w := tyWidth f.ty.toNat
     let n := numElems w / 8
     let ms := unpackElems 8 n (x.srcVB f).toNat
     let used (i : Nat) : Bool := (List.range 8).any fun k => enElem en w (8 * i + k)
     match (List.range n).find? (fun i => used i && !metaValid (ms.getD i 0)) with
     | some i => .trap s 7 (i * 256 + ms.getD i 0)
     | none =>
       let rs := (List.zipWith (fun m l => expandGo m 0 8 l) ms (groups4 n (x.elemsVA f))).flatMap id
       .retire (s.putTile (x.writeV f.vd.toNat (mergeElems en w (x.readV f.vd.toNat) rs))))

end Sys2Proof.Machine
end

