-- ==== Sys2Proof/Machine/LoadStore.lean ====
section
/-! DEFINITION. The L and W engines: rows and described blocks to and from vector registers (R207-R215), and the words that
feed the matrix engine's queues (R216, R217, R171, R309). -/

namespace Sys2Proof.Machine

/-! ### Addresses (R208, R209) -/

/-- The layout entry a VM word names, as it stands when the word executes. -/
def Tile.vmEntry (x : Tile) (f : FmtVM) : Nat := x.readLay f.lay.toNat

/-- Resolve of a VM word with `k` added to coordinate 0. -/
def vmResolve (cap : Capture) (e : Nat) (f : FmtVM) (k : Int) : Except (Nat × Nat) Nat :=
  resolveRow e [coord (cap.vals.getD 0 0) + f.imm.toInt + k, coord (cap.vals.getD 1 0), coord (cap.vals.getD 2 0), 0]

/-- A fault of a VM word before it changes anything: cause and TRAP_DATA. -/
abbrev Refuses := Nat × Nat

/-- The layout fault of a VM word at access index t (R209). -/
def vmFault (f : FmtVM) (t : Nat) (c : Nat × Nat) : Refuses := (8, layoutData f.lay.toNat c.1 t c.2)

/-- Function Row of R209 at access index t, with `k` added to coordinate 0; a store refuses rows 0 to 3. -/
def vmRow (cap : Capture) (e : Nat) (f : FmtVM) (store : Bool) (t : Nat) (k : Int) : Except Refuses Nat :=
  match vmResolve cap e f k with
  | .error c => .error (vmFault f t c)
  | .ok a => if store && a < 1024 then .error (vmFault f t (3, 0)) else .ok (a / 256)

/-- The first refusal in a list, or the results. -/
def allOk {α β : Type} (l : List α) (f : α → Except Refuses β) : Except Refuses (List β) :=
  l.foldr (fun a r =>
    match f a with
    | .error c => .error c
    | .ok b => match r with | .error c => .error c | .ok bs => .ok (b :: bs)) (.ok [])

/-- The checks of the entry that need no coordinate: its space, and a desc the word accepts (R208). Where several layout cases hold, they
come in the order space, desc or fmt, coordinates: DESIGN CHOICE (log 75). -/
def vmCheck (e : Nat) (f : FmtVM) (descOk : Bool) : Option Refuses :=
  if laySpace e ≠ 0 then some (vmFault f 0 (2, 0))
  else if layDesc e && !descOk then some (vmFault f 0 (4, 0)) else none

/-- Register rows of a word: 0 means 16 (R209). -/
def vmRows (f : FmtVM) : Nat := if f.rows.toNat = 0 then 16 else f.rows.toNat

/-- The enabled lanes of register row j. -/
def rowLanes (en : PMask) (j : Nat) : Nat := bits en.toNat (64 * j) 64

/-- RowOn (R209): the register rows below n that hold an enabled lane. -/
def rowsOn (en : PMask) (n : Nat) : List Nat := (List.range n).filter fun j => rowLanes en j != 0

/-- The enabled lanes of register rows below n. -/
def lanesBelow (en : PMask) (n : Nat) : PMask := BitVec.ofNat 1024 (bits en.toNat 0 (64 * n))

/-- The access class of a VM word holds it back (R206, R302). -/
def State.vmHold (s : State) (f : FmtVM) : Bool :=
  (s.tile s.issue.tile).classHold s.issue.seq s.issue.eng f.cls.toNat

/-- The bytes that a load has read at access index i, or reads there now, of row q. -/
def Tile.rowRead (x : Tile) (i q : Nat) : List Byte :=
  match x.rowsIn[i]? with
  | some r => r.2
  | none => x.readBytes (256 * q) 256

/-- The scratchpad as a load finds it that reads each of its rows once: the rows it has read as it has read them. -/
def Tile.held (x : Tile) : Tile := { x with sp := x.rowsIn.foldl (fun m r => Memory.writeN m (256 * r.1) r.2) x.sp }

/-- What a load keeps from the turn of its first row on: its enabled lanes, and the index register of a VLDX (R210, R213). -/
def Tile.fixLoad (x : Tile) (en : PMask) (ix : VReg) : PMask × VReg := x.loadFix.getD (en, ix)

/-- A load reads the next of its rows, which perform in ascending access index (R206). -/
def State.readNext (s : State) (rows : List Nat) (fix : PMask × VReg) : State :=
  let x := s.tile s.issue.tile
  let q := rows.getD x.rowsIn.length 0
  (s.putTile { x with rowsIn := x.rowsIn ++ [(q, x.readBytes (256 * q) 256)], loadFix := some (x.fixLoad fix.1 fix.2) }).noteRows s.issue.tile [q]

/-- How a VM word accesses its rows. -/
inductive VmUse where
  /-- it reads them; what it keeps from its first row on, and whether its plan may find a refusal in what it reads -/
  | load (fix : PMask × VReg) (data : Bool)
  | store

/-- A VM word whose registers are ready: its refusal, its class wait, its watchpoints over the rows it touches, then its
effect. A load whose accesses are issued one by one reads a row at a turn, and has its effect when it has them all. A refusal that
it finds in what it reads waits for its class (R206). -/
def vmGo {α : Type} (s : State) (f : FmtVM) (use : VmUse) (plan : Except Refuses α) (rows : α → List Nat)
    (k : State → α → Ending) : Ending :=
  let hold := s.vmHold f
  match plan, use with
  | .error (c, d), .load _ data => if data && hold then .wait s 8 else .trap s c d
  | .error (c, d), .store => .trap s c d
  | .ok p, .store => if hold then .wait s 8 else watched s (rows p) true fun s1 => k s1 p
  | .ok p, .load fix _ =>
    let n := if s.issue.eng == .L then (s.tile s.issue.tile).rowsIn.length else 0
    if hold then .wait s 8
    else if 0 < n then (if s.issue.late && n < (rows p).length then .wait (s.readNext (rows p) fix) 0 else k s p)
    else watched s (rows p) false fun s1 =>
      if s.issue.late && 0 < (rows p).length then .wait (s1.readNext (rows p) fix) 0
      else k (s1.noteRows s.issue.tile (rows p)) p

/-! ### Rows (R210, R212-R215) -/

/-- The 64 lanes of scratchpad row q, read at access index i. -/
def Tile.rowLanesOf (x : Tile) (i q : Nat) : List Nat := unpackElems 32 64 (ofBytes (x.rowRead i q))

/-- A register image of lanes, from the rows of its register rows: `rows` gives the scratchpad row of each register row on, in the order
of the accesses. -/
def Tile.loadLanes (x : Tile) (rows : List (Nat × Nat)) : List Nat :=
  (List.range 16).flatMap fun j =>
    match rows.zipIdx.find? fun p => p.1.1 == j with
    | some p => x.rowLanesOf p.2 p.1.2
    | none => List.replicate 64 0

/-- The bytes of register row j with a flag on the bytes of its enabled lanes. -/
def storeRow (v : VReg) (en : PMask) (j : Nat) : List (Byte × Bool) :=
  (toBytes 256 (bits v.toNat (2048 * j) 2048)).zipIdx.map fun b => (b.1, en.getLsbD (64 * j + b.2 / 4))

/-- The enabled lanes of register rows for their scratchpad rows, in the order given. -/
def storeRows (v : VReg) (en : PMask) (rs : List (Nat × Nat)) : List (Nat × List (Byte × Bool)) :=
  rs.map fun p => (256 * p.2, storeRow v en p.1)

/-- The register rows on with their scratchpad rows; `ix j` is added to coordinate 0 (R209, R213). -/
def rowPlan (cap : Capture) (e : Nat) (f : FmtVM) (store : Bool) (en : PMask) (descOk : Bool) (ix : Nat → Int) :
    Except Refuses (List (Nat × Nat)) :=
  match vmCheck e f descOk with
  | some c => .error c
  | none => allOk (rowsOn en (vmRows f)) fun j =>
      match vmRow cap e f store j (ix j) with
      | .ok q => .ok (j, q)
      | .error c => .error c

/-! ### Described bodies (R211) -/

/-- An accessed block: register row, block, byte address of its body slot, byte address of its head. -/
structure BlockRef where
  j : Nat
  b : Nat
  slot : Nat
  head : Nat
  deriving DecidableEq, Repr

/-- The lanes of block b of register row j. -/
def blockLanes (en : PMask) (g j b : Nat) : Nat := bits en.toNat (64 * j + g * b) g

/-- The body slot and head of a block whose row has access index t and which is slot `i` of that row, or the refusal. -/
def blockAt (cap : Capture) (e : Nat) (f : FmtVM) (store : Bool) (t i : Nat) : Except Refuses (Nat × Nat) :=
  match vmRow cap e f store t t with
  | .error c => .error c
  | .ok q =>
    let s := 256 * q + 64 * i
    let base := layBase e % 2 ^ 22
    let h := layHBase e % 2 ^ 22 + 2 * ((s - base) / 64)
    if s < base || h + 1 ≥ 2 ^ 22 then .error (vmFault f t (5, 0)) else .ok (s, h)

/-- The blocks a described VLD or VST accesses, checked one by one; a VLD checks each head's code (R211). Of a head's row, which has no
access index, the model takes the read before that of its block's slot: DESIGN CHOICE (log 74). -/
def Tile.blockPlan (x : Tile) (cap : Capture) (e : Nat) (f : FmtVM) (store : Bool) (en : PMask) :
    Except Refuses (List BlockRef) :=
  if codeWidth (layFmt e) = 0 then .error (vmFault f 0 (4, 0))
  else
    let g := codeRegWidth (layFmt e)
    let nb := 64 / g
    let u := 16 / g
    let all := (List.range (vmRows f)).flatMap fun j => (List.range nb).map fun b => (j, b)
    let used := all.filter fun p =>
      let l := blockLanes en g p.1 p.2
      if store then l == 2 ^ g - 1 else l != 0
    allOk used fun (j, b) =>
      match blockAt cap e f store (u * j + b / 4) (b % 4) with
      | .error c => .error c
      | .ok (s, h) =>
        let code := (Memory.read x.sp h).toNat
        if !store && code != 0 && code != layFmt e then .error (6, code * 256 + nb * j + b)
        else .ok ⟨j, b, s, h⟩

/-- The 32 elements of a described block in register form: zeros for a zero block (R211, R29). -/
def Tile.blockElems (x : Tile) (fmt : Nat) (r : BlockRef) : List Nat :=
  if (Memory.read x.sp r.head).toNat = 0 then List.replicate 32 0
  else (unpackElems (codeWidth fmt) 32 (Memory.readLE x.sp r.slot 64)).map (widenElem fmt)

/-- The register image of described blocks. -/
def Tile.loadBlocks (x : Tile) (fmt : Nat) (rs : List BlockRef) : List Nat :=
  let nb := 64 / codeRegWidth fmt
  (List.range 16).flatMap fun j => (List.range nb).flatMap fun b =>
    match rs.find? fun r => r.j == j && r.b == b with
    | some r => x.blockElems fmt r
    | none => List.replicate 32 0

/-- The 64 bytes of a body slot from 32 elements in register form: payload and a zero tail (R32, R211). -/
def packBody (fmt : Nat) (es : List Nat) : List Byte := toBytes 64 (packElems (codeWidth fmt) es)

/-- The access index of a block's row (R211). -/
def BlockRef.ix (r : BlockRef) (g : Nat) : Nat := 16 / g * r.j + r.b / 4

/-- The rows of described blocks stored from a register, each with the body slots written in it: they perform together (R203). -/
def storeBlocks (fmt : Nat) (v : VReg) (rs : List BlockRef) : List (Nat × List (Byte × Bool)) :=
  let g := codeRegWidth fmt
  let slots (bs : List BlockRef) : List (Byte × Bool) := (List.range 4).flatMap fun i =>
    match bs.find? fun r => r.slot / 64 % 4 == i with
    | some r => allBytes (packBody fmt (unpackElems g 32 (bits v.toNat (2048 * r.j + 32 * g * r.b) (32 * g))))
    | none => List.replicate 64 (0, false)
  (rs.map fun r => r.ix g).eraseDups.map fun t =>
    let bs := rs.filter fun r => r.ix g == t
    (256 * ((bs.map fun r => r.slot).headD 0 / 256), slots bs)

/-! ### Loads -/

/-- VLD (R210, R211). -/
def execVld (g : Guard) (f : FmtVM) (s : State) : Res :=
  laneWord s g fun x en => x.gateV s [] [f.v.toNat]
    (let e := x.vmEntry f
     let n := vmRows f
     if layDesc e && laySpace e == 0 then
       vmGo s f (.load (en, 0) true) (x.held.blockPlan s.issue.cap e f false en)
         (fun rs => (rs.flatMap fun r => [r.head / 256, r.slot / 256]).eraseDups)
         fun s1 rs => .retire (s1.putTile (x.writeV f.v.toNat
           (mergeElems (lanesBelow en n) (codeRegWidth (layFmt e)) (x.readV f.v.toNat) (x.held.loadBlocks (layFmt e) rs))))
     else
       vmGo s f (.load (en, 0) false) (rowPlan s.issue.cap e f false en true fun j => j) (fun rs => rs.map fun p => p.2)
         fun s1 rs => .retire (s1.putTile (x.writeV f.v.toNat
           (mergeElems (lanesBelow en n) 32 (x.readV f.v.toNat) (x.loadLanes rs)))))

/-- The signed index of register row j (R213). -/
def rowIndex (v : VReg) (j : Nat) : Int := signExt 32 (elemNat 32 v.toNat j)

/-- A vector register without an fe bit: it is waited for (R64). -/
def waitV (n : Nat) : VSrc := ⟨n, n, false, 0⟩

/-- VLDX (R213): the rows are read when it issues and arrive later. -/
def execVldx (g : Guard) (f : FmtVM) (s : State) : Res :=
  laneWord s g fun x en => x.gateV s [waitV f.aux.toNat] [f.v.toNat]
    (let fix := x.fixLoad en (x.readV f.aux.toNat)
     vmGo s f (.load fix false) (rowPlan s.issue.cap (x.vmEntry f) f false en false (rowIndex fix.2))
      (fun rs => rs.map fun p => p.2)
      fun s1 rs => .retire (s1.issueLong .longLat f.v.toNat
        (mergeElems (lanesBelow en (vmRows f)) 32 (x.readV f.v.toNat) (x.loadLanes rs)) 0 (enRows (lanesBelow en (vmRows f)))))

/-- VLDB (R212): one row, repeated; only access index 0 is checked. -/
def execVldb (g : Guard) (f : FmtVM) (s : State) : Res :=
  laneWord s g fun x en => x.gateV s [] [f.v.toNat]
    (let e := x.vmEntry f
     let en' := lanesBelow en (vmRows f)
     vmGo s f (.load (en, 0) false)
       (match vmCheck e f false with
        | some c => .error c
        | none => allOk (if en' = 0 then [] else [0]) fun t => vmRow s.issue.cap e f false t 0)
       id
       fun s1 qs => .retire (s1.putTile (x.writeV f.v.toNat
         (mergeElems en' 32 (x.readV f.v.toNat) ((List.range 16).flatMap fun _ => x.rowLanesOf 0 (qs.headD 0))))))

/-- PLD (R215). -/
def execPld (g : Guard) (f : FmtVM) (s : State) : Res :=
  laneWord s g fun x en =>
    let e := x.vmEntry f
    vmGo s f (.load (en, 0) false) (match vmCheck e f false with | some c => .error c | none => vmRow s.issue.cap e f false 0 0)
      (fun q => [q])
      fun s1 q =>
        let new : PMask := BitVec.ofNat 1024 (ofBytes ((x.rowRead 0 q).take 128))
        .retire (s1.putTile (x.writeP (f.v.toNat % 8) ((new &&& en) ||| (x.readP (f.v.toNat % 8) &&& ~~~en))))

/-! ### Stores -/

/-- The row accesses of a VM store. -/
def State.storeVM (s : State) (f : FmtVM) (ws : List (Nat × List (Byte × Bool))) (mask : Option PMask := none) : State :=
  s.storeOut f.cls.toNat (.fence f.cls.toNat) ws mask

/-- VST (R210, R211). -/
def execVst (g : Guard) (f : FmtVM) (s : State) : Res :=
  laneWord s g fun x en => x.gateV s [waitV f.v.toNat] []
    (let e := x.vmEntry f
     let v := x.readV f.v.toNat
     if layDesc e && laySpace e == 0 then
       vmGo s f .store (x.blockPlan s.issue.cap e f true en) (fun rs => rs.map fun r => r.slot / 256)
         fun s1 rs => .retire (s1.storeVM f (storeBlocks (layFmt e) v rs))
     else
       vmGo s f .store (rowPlan s.issue.cap e f true en true fun j => j) (fun rs => rs.map fun p => p.2)
         fun s1 rs => .retire (s1.storeVM f (storeRows v en rs)))

/-- VSTX (R213): in ascending register row. -/
def execVstx (g : Guard) (f : FmtVM) (s : State) : Res :=
  laneWord s g fun x en => x.gateV s [waitV f.v.toNat, waitV f.aux.toNat] []
    (vmGo s f .store (rowPlan s.issue.cap (x.vmEntry f) f true en false (rowIndex (x.readV f.aux.toNat)))
      (fun rs => rs.map fun p => p.2)
      fun s1 rs => .retire (s1.storeVM f (storeRows (x.readV f.v.toNat) en rs)))

/-- PST (R215): the bits of enabled lanes. Its row is read and written together, when it performs (R203). -/
def execPst (g : Guard) (f : FmtVM) (s : State) : Res :=
  laneWord s g fun x en =>
    let e := x.vmEntry f
    vmGo s f .store (match vmCheck e f false with | some c => .error c | none => vmRow s.issue.cap e f true 0 0)
      (fun q => [q])
      fun s1 q => .retire (s1.storeVM f [(256 * q, allBytes (toBytes 128 (x.readP (f.v.toNat % 8)).toNat))] (some en))

/-- The enabled lanes of register rows below n packed together in ascending order (R214). -/
def packedLanes (v : VReg) (en : PMask) (n : Nat) : List Nat :=
  ((List.range (64 * n)).filter fun l => en.getLsbD l).map fun l => elemNat 32 v.toNat l

/-- Packed lanes for their rows. -/
def storePacked : List Nat → List Nat → List (Nat × List (Byte × Bool))
  | [], _ => []
  | q :: qs, ls => (256 * q, allBytes ((ls.take 64).flatMap (toBytes 4))) :: storePacked qs (ls.drop 64)

/-- VSTC (R214). -/
def execVstc (g : Guard) (f : FmtVM) (s : State) : Res :=
  laneWord s g fun x en => x.gateV s [waitV f.v.toNat] []
    (let e := x.vmEntry f
     let ls := packedLanes (x.readV f.v.toNat) en (vmRows f)
     vmGo s f .store
       (match vmCheck e f false with
        | some c => .error c
        | none => allOk (List.range ((ls.length + 63) / 64)) fun t => vmRow s.issue.cap e f true t t)
       id fun s1 qs => .retire (s1.storeVM f (storePacked qs ls)))

/-! ### Feeding the matrix engine -/

/-- Room in queue 0 SQA, 1 SQB (heads), 2 FIFO A, 3 FIFO B (bytes) (R308). -/
def Tile.queueRoom (x : Tile) (q : Nat) : Nat :=
  match q with
  | 0 => Config.sqCap - x.sqa.length
  | 1 => Config.sqCap - x.sqb.length
  | 2 => Config.fifoCap - x.fifoA.length
  | _ => Config.fifoCap - x.fifoB.length

/-- Units of a push of bytes: a head has two bytes. -/
def pushUnits (q : Nat) (bs : List Byte) : Nat := if q < 2 then bs.length / 2 else bs.length

/-- Heads from their bytes, code first (R31). -/
def headsOf : List Byte → List (BitVec 16)
  | b0 :: b1 :: l => BitVec.ofNat 16 (b0.toNat + 256 * b1.toNat) :: headsOf l
  | _ => []

/-- A push appended whole to a queue (R171), with the note of who pushed it. -/
def Tile.pushQueue (x : Tile) (q : Nat) (bs : List Byte) (move : Bool) : Tile :=
  let y := match q with
    | 0 => { x with sqa := x.sqa ++ headsOf bs }
    | 1 => { x with sqb := x.sqb ++ headsOf bs }
    | 2 => { x with fifoA := x.fifoA ++ bs }
    | _ => { x with fifoB := x.fifoB ++ bs }
  { y with runs := Assoc.set [] q (Assoc.get [] q x.runs ++ [(pushUnits q bs, move)]) x.runs }

/-- A push of the L engine: it appends and its word retires, or it waits for room and holds the engine (R309). -/
def pushL (s : State) (q : Nat) (bs : List Byte) : Ending :=
  let x := s.tile s.issue.tile
  if pushUnits q bs ≤ x.queueRoom q then .retire (s.putTile { x.pushQueue q bs false with lPush := none })
  else .wait (s.putTile { x with lPush := some (q, bs) }) 2

/-- Width in bits of an element type in the stream (R216). -/
def streamWidth (t : Nat) : Nat :=
  if t == 13 || t == 14 then 6 else if t ≥ 16 then t - 14 else tyWidth t

/-- The number of a VFEED or SCLD: 0 means 128 (R207). -/
def feedCount (f : FmtVM) : Nat := if f.aux.toNat % 128 = 0 then 128 else f.aux.toNat % 128

/-- The rows a VFEED reads and the bytes it pushes, or its refusal (R216); each block's head row is read before its slot's row: DESIGN
CHOICE (log 74). -/
def Tile.feedPlan (x : Tile) (cap : Capture) (e : Nat) (f : FmtVM) : Except Refuses (List Nat × List Byte) :=
  let n := feedCount f
  match vmCheck e f true with
  | some c => .error c
  | none =>
    if !layDesc e then
      if layFmt e > 22 then .error (vmFault f 0 (4, 0))
      else
        let len := n * 4 * streamWidth (layFmt e)
        match allOk (List.range ((len + 255) / 256)) (fun t => vmRow cap e f false t t) with
        | .error c => .error c
        | .ok qs =>
          if len > Config.fifoCap then .error (vmFault f 0 (4, 0))
          else .ok (qs, (qs.zipIdx.flatMap fun p => x.rowRead p.2 p.1).take len)
    else if codeWidth (layFmt e) = 0 then .error (vmFault f 0 (4, 0))
    else
      match allOk (List.range n) (fun b =>
        match blockAt cap e f false (b / 4) (b % 4) with
        | .error c => .error c
        | .ok (s, h) =>
          let code := (Memory.read x.held.sp h).toNat
          if code = layFmt e then .ok ([h / 256, s / 256], x.held.readBytes s (4 * codeWidth code))
          else if code = 0 then .ok ([h / 256], [])
          else .error ((6, code * 256 + b) : Refuses)) with
      | .error c => .error c
      | .ok bs => .ok ((bs.flatMap fun p => p.1).eraseDups, bs.flatMap fun p => p.2)

/-- A feeding word: enabled by Guard(w, 0) (R208); a push that has read its rows and waits is tried again. -/
def feedWord (s : State) (g : Guard) (f : FmtVM) (q : Nat) (plan : Tile → Except Refuses (List Nat × List Byte)) : Res :=
  let x := s.tile s.issue.tile
  finish s (match x.lPush with
    | some (_, bs) => pushL s q bs
    | none =>
      if x.loadFix.isSome || x.guard0 s.issue.eng s.issue.cap g then
        vmGo s f (.load (0, 0) true) (plan x) (fun p => p.1) fun s1 p => pushL s1 q p.2
      else .void)

/-- VFEED (R216). -/
def execVfeed (g : Guard) (f : FmtVM) (s : State) : Res :=
  feedWord s g f (2 + f.aux.toNat / 128) fun x => x.feedPlan s.issue.cap (x.vmEntry f) f

/-- The rows an SCLD reads and the heads it pushes, or its refusal (R217). -/
def Tile.scalePlan (x : Tile) (cap : Capture) (e : Nat) (f : FmtVM) : Except Refuses (List Nat × List Byte) :=
  let n := feedCount f
  match vmCheck e f true with
  | some c => .error c
  | none => match vmRow cap e f false 0 0 with
    | .error c => .error c
    | .ok q =>
      if !layDesc e then .ok ([q], x.held.readBytes (256 * q) (2 * n))
      else
        let base := layBase e % 2 ^ 22
        let h := layHBase e % 2 ^ 22 + 2 * ((256 * q - base) / 64)
        if 256 * q < base || h + 2 * n - 1 ≥ 2 ^ 22 then .error (vmFault f 0 (5, 0))
        else .ok ([h / 256, (h + 2 * n - 1) / 256].eraseDups, x.held.readBytes h (2 * n))

/-- SCLD (R217): codes are not checked. -/
def execScld (g : Guard) (f : FmtVM) (s : State) : Res :=
  feedWord s g f (f.aux.toNat / 128) fun x => x.scalePlan s.issue.cap (x.vmEntry f) f

end Sys2Proof.Machine
end

