-- ==== Sys2Proof/Machine/Gate.lean ====
section
/-! DEFINITION. Which engines of a tile may go on while its point runs or stops (R363, R364, R369, R370, Table 19-3), and the
word an engine stands at. -/

namespace Sys2Proof.Machine

/-- The semaphore unit has served a wait of engine e: the value is taken, so its word retires (R327). -/
def Tile.servedWait (x : Tile) (e : Engine) : Bool := x.waiters.any fun w => w.eng == e && w.served

/-- A stopping point's engine stands at a boundary of Table 19-3 inside the section it has started. A word that waits as R370 lists,
or has trapped, holds its engine, and a multi-step M word is held between steps (R177). -/
def Tile.stopHolds (x : Tile) (e : Engine) : Bool :=
  match x.stop with
  | none => false
  | some _ =>
    !x.servedWait e &&
      ((x.waitWhy e != 0 && x.waitWhy e != 8) ||
        match e with
        | .S => x.records.isEmpty || x.atLoop || x.halted
        | .M => x.mStep.isSome
        | _ => false)

/-- The section whose next word an engine executes: started, with words left. -/
def Tile.running (x : Tile) (e : Engine) : Option Section :=
  match x.headSec e with
  | some c => if c.started then some c else none
  | none => none

/-- Cycles from the issue of an A word to its result, by function code (Tables 07-4 and 08-4); k is the segment exponent of R156. -/
def latA (fn k : Nat) : Nat :=
  if fn = 0x42 || fn = 0x58 then 14
  else if fn = 0x29 || fn = 0x2A then 24
  else if fn = 0x2D || fn = 0x2E || fn = 0x2F then 32
  else if fn = 0x2B || fn = 0x2C then 48
  else if fn = 0x4B || fn = 0x4C then 12
  else if fn = 0x4E then 18
  else if fn = 0x50 || fn = 0x52 then 12 + 2 * k
  else if fn = 0x51 || fn = 0x53 then 12 + 4 * k
  else if 0x60 ≤ fn && fn ≤ 0x63 then 4
  else if (6 ≤ fn && fn ≤ 8) || (0x20 ≤ fn && fn ≤ 0x24) || fn = 0x40 || fn = 0x41 || fn = 0x43 || fn = 0x59 then 8
  else 6

/-- Cycles from issue to result of a word without conflicts and waits (Tables 07-4, 08-4, 09-2, 11-4); 0 where no table gives
them. -/
def Tile.latOf (x : Tile) (e : Engine) (w : FwdWord) : Nat :=
  let fn := bits w.slot.toNat 86 7
  match e with
  | .A => latA fn (bits w.slot.toNat 14 4)
  | .L | .W =>
    if fn = 1 then (if layDesc (x.readLay (bits w.slot.toNat 50 8)) then 14 else 12)
    else if fn = 2 then 16
    else if e = .L && fn = 3 then 12
    else if (e = .L && fn = 4) || (e = .W && fn = 3) then 8
    else 0
  | .M => if fn = 1 then 1 else if fn = 4 then 20 else if fn = 5 then 16 else 0
  | .S | .X => 0

/-- What the next word of an engine's running section is executed with, and the word. -/
def Tile.nextWord (x : Tile) (t : Nat) (e : Engine) : Option (Issue × FwdWord) :=
  match x.running e with
  | none => none
  | some c => match c.words[c.idx]? with
    | none => none
    | some w => some ({ tile := t, eng := e, addr := w.addr, num := c.hdr.num.toNat, tag := c.tag, seq := c.seq, cap := w.cap,
                        lat := x.latOf e w }, w)

/-- An engine other than S has a word it may execute. -/
def Tile.mayRun (x : Tile) (e : Engine) : Bool := !x.quenched && (x.running e).isSome && !x.stopHolds e

/-! ### What the S engine waits for -/

/-- The header slot at PC when the S engine stands between sections. -/
def Tile.headerAtPC (x : Tile) : Option Header :=
  if x.halted || x.sIn then none
  else match decodeHeader (x.standing.getD (x.slotAt x.pc.toNat)) with
    | .ok h => some h
    | .error _ => none

/-- The sections a header's dependence fields name: for each, the latest section of that engine and number forwarded so far
(R68). -/
def Tile.depsOf (x : Tile) (h : Header) (own : Engine) : List Nat :=
  (h.deps own).filterMap fun (e, n) =>
    match Assoc.get 0 (256 * e.code + n) x.lastSec with
    | 0 => none
    | q + 1 => some q

/-- The section queue of an engine has no room for a section of n slots (R308). -/
def Tile.queueFull (x : Tile) (e : Engine) (n : Nat) : Bool :=
  let cs := x.queued e
  cs.length + 1 > Config.secCap ||
    (e != .X && (cs.map fun c => c.hdr.len.toNat).foldl (· + ·) 0 + n > Config.secSlots)

/-- The S engine is stopped for a reason that only the M engine's progress can end (R175): a HALT being drained, the slip rule,
a section dependence on an M section, or a full M section queue. -/
def Tile.stuckOnM (x : Tile) : Bool :=
  x.halted ||
    match x.headerAtPC with
    | none => false
    | some h =>
      if h.eng == 0 then
        (x.depsOf h .S).any fun q => x.secs.any fun c => c.seq == q && c.eng == .M
      else x.slipHold || (h.eng == 4 && x.queueFull .M h.len.toNat)

end Sys2Proof.Machine
end

