-- ==== Sys2Proof/Machine/Late.lean ====
section
/-! DEFINITION. Effects that follow their word (log 4): register writes of A, L and M words made row by row (R98, R131), row accesses
that perform on their own (R206, R293), and what a dump puts back into flight of both (R391). -/

namespace Sys2Proof.Machine

/-- Field j of w bits of a packed value replaced (R29). -/
def putElem (w x j v : Nat) : Nat := x - elemNat w x j * 2 ^ (w * j) + v * 2 ^ (w * j)

/-- The tile with one register write made. -/
def Tile.withOut (x : Tile) : RegOut → Tile
  | .vrow n j v => x.writeV n (BitVec.ofNat 32768 (putElem 2048 (x.readV n).toNat j v.toNat))
  | .prow n j v => x.writeP n (BitVec.ofNat 1024 (putElem 64 (x.readP n).toNat j v.toNat))
  | .acc n v => x.writeM n v

/-- The vector registers an A or L word names as destinations: its first register field, and the second one of VQNT and VSPCMP
(Tables 03-2 to 03-8). -/
def FwdWord.vDests (e : Engine) (w : FwdWord) : List Nat :=
  let fn := bits w.slot.toNat 86 7
  let d := bits w.slot.toNat 58 8
  match e with
  | .A => if fn < 0x38 || (0x40 ≤ fn && fn < 0x60 && fn != 0x4E) then (if fn = 0x42 || fn = 0x58 then [d, bits w.slot.toNat 30 8] else [d]) else []
  | .L => if fn = 1 || fn = 3 then [d] else []
  | _ => []

/-- The elements of an A word's vector destination, or of a compare, have 64 bits (Tables 03-2 to 03-6). -/
def FwdWord.wide (e : Engine) (w : FwdWord) : Bool :=
  let fn := bits w.slot.toNat 86 7
  let ty := if 0x40 ≤ fn && fn < 0x44 then bits w.slot.toNat 13 5
    else bits w.slot.toNat (if fn = 0x02 || fn = 0x39 || fn = 0x49 then 1 else 3) 4
  e == .A && fn < 0x60 && (ty == 3 || ty == 7)

/-- A word that writes its predicates in every lane: a compare, or a predicate word, in its .z form (R61). -/
def FwdWord.zeroing (e : Engine) (w : FwdWord) : Bool :=
  let fn := bits w.slot.toNat 86 7
  e == .A && ((0x38 ≤ fn && fn < 0x40) || (0x60 ≤ fn && fn < 0x70)) && bit w.slot.toNat 59

/-- The register rows a word writes: those with an enabled lane, or with an enabled even lane for elements of 64 bits (R58), of a load
below its register rows (R209); every row of a .z form (R61). -/
def Tile.rowsOf (x : Tile) (e : Engine) (w : FwdWord) : List Nat :=
  let n := if e == .L && bits w.slot.toNat 86 7 < 4 then (if bits w.slot.toNat 8 4 = 0 then 16 else bits w.slot.toNat 8 4) else 16
  let en := x.lanesNow { eng := e, cap := w.cap } (Guard.ofSlot w.slot)
  if w.zeroing e then List.range 16 else rowsOn (if w.wide e then pairLanes 64 en else en) n

/-- The register writes of a word between two states of a tile: rows of vector registers and of lane predicates, and accumulators. A
row that it writes as it was is one of them (R98); a register that it leaves empty is written later. -/
def Tile.outsTo (x y : Tile) (e : Engine) (w : FwdWord) : List RegOut :=
  let on := x.rowsOf e w
  let vd := (w.vDests e).filter fun n => !y.emptyV n
  let pd := w.pDests e
  ((List.range 192).flatMap fun n =>
    if x.readV n == y.readV n && !vd.contains n then []
    else (List.range 16).filterMap fun j =>
      let r := (y.readV n).extractLsb' (2048 * j) 2048
      if (x.readV n).extractLsb' (2048 * j) 2048 == r && !(vd.contains n && on.contains j) then none else some (.vrow n j r)) ++
  ((List.range 8).flatMap fun n =>
    if x.readP n == y.readP n && !pd.contains n then []
    else (List.range 16).filterMap fun j =>
      let r := (y.readP n).extractLsb' (64 * j) 64
      if (x.readP n).extractLsb' (64 * j) 64 == r && !(pd.contains n && on.contains j) then none else some (.prow n j r)) ++
  (List.range 4).filterMap fun n => if x.readM n == y.readM n then none else some (.acc n (y.readM n))

/-- The effect of an in-flight entry of kinds 3 to 6: accumulator, predicate pair, row write, FP_FLAGS bits. -/
def Tile.landEntry (x : Tile) (kind tgt : Nat) (row : Option (Nat × Nat)) (bs : List Byte) : Tile :=
  match kind with
  | 3 => x.writeM tgt (BitVec.ofNat 131072 (ofBytes (bs.take 16384)))
  | 4 => (x.writeP (bits tgt 0 3) (BitVec.ofNat 1024 (ofBytes (bs.take 128)))).writeP (bits tgt 3 3)
      (BitVec.ofNat 1024 (ofBytes ((bs.drop 128).take 128)))
  | 5 => x.writeRow (256 * tgt) (match row with | some (_, c) => .fence c | none => .none)
      ((bs.take 256).zipIdx.map fun b => (b.1, bit (ofBytes ((bs.drop 256).take 32)) b.2))
  | 6 => x.orFlags (ofBytes bs % 64)
  | _ => x

/-- A register write of a tempered tile that engine e has still to make, of a word that its later words follow (R131, R392): the
destination is not empty, as a long-latency word's is. -/
def Tile.owes (x : Tile) (e : Engine) (i : InFlight) : Bool :=
  i.eng == e && i.rem != 0 && match i.kind with
    | .longLat => !x.emptyV i.tgt
    | .entry k => k == 3 || k == 4
    | _ => false

/-- The registers with such a write made. -/
def Tile.withOwed (x : Tile) (i : InFlight) : Tile :=
  match i.kind with
  | .longLat => x.writeV i.tgt (mergeRows i.rows (x.readV i.tgt) i.payload)
  | .entry k => x.landEntry k i.tgt none i.bytes
  | _ => x

/-- The registers as an engine finds them: with what its own earlier words have still to write (R131). -/
def Tile.engView (x : Tile) (e : Engine) : Tile :=
  (x.late.filter fun w => w.eng == e).foldl (fun y w => w.outs.foldl Tile.withOut y)
    ((x.inflight.filter (x.owes e)).foldl Tile.withOwed x)

/-- What an engine's word is executed on, at its place in the forwarding order: its registers, and for a load the rows as the ordinary
domain reads them in its class (R206, R293, R296). -/
def Tile.wordView (x : Tile) (t : Nat) (e : Engine) (seq : Nat) (w : FwdWord) : Tile :=
  let y := x.engView e
  match (if e == .L then w.vmClass? e else none) with
  | some c => { y with sp := (y.ordinary t e c (y.posOf seq e)).sp }
  | none => y

/-- The tile after a word of engine e: x as it was, y the view it was executed on, z what came of it. A word that went on to the next
has its register writes and flags before it, and retires with the last of them. -/
def Tile.afterWord (x y z : Tile) (i : Issue) (fw : FwdWord) (sp : Bool) (due : Nat) : Tile :=
  let z1 := { z with
    v := x.v, p := x.p, m := x.m, fp := x.fp, fpNow := x.fpNow, sp := if sp then x.sp else z.sp
    rowsIn := if z.rowsIn.length = x.rowsIn.length then [] else z.rowsIn
    loadFix := if z.rowsIn.length = x.rowsIn.length then none else z.loadFix }
  let idx (u : Tile) : Option Nat := (u.secs.find? fun c => c.seq == i.seq).map fun c => c.idx
  if idx z == idx x || z.point.isNone then z1
  else
    let outs := y.outsTo z i.eng fw
    if outs.isEmpty && z.fp == 0 then z1
    else { z1 with
      secs := (x.setSec i.seq fun c => { c with idx := c.idx + 1 }).secs
      pcs := x.pcs
      late := x.late ++ [{ eng := i.eng, seq := i.seq, tag := i.tag, addr := i.addr, due := due, flags := z.fp, outs := outs,
                             void := x.lanesNow i (Guard.ofSlot fw.slot) == 0 }] }

/-- An engine of a tile has words that have not made all their register writes, or its next word finds rows other than the scratchpad
has them. -/
def Tile.inParts (x : Tile) (e : Engine) : Bool :=
  x.late.any (fun w => w.eng == e) || x.inflight.any (x.owes e) || (e == .L && (!x.rowsIn.isEmpty || !x.copies.isEmpty))

/-- The first unfinished word of an engine replaced, or removed. -/
def putLate (e : Engine) (r : Option LateWord) : List LateWord → List LateWord
  | [] => []
  | w :: ws => if w.eng == e then (match r with | some v => v :: ws | none => ws) else w :: putLate e r ws

/-- One register write of the first unfinished word of an engine is made, behind those of its words before a temper; the word retires with
its last (R98, R131). -/
def Tile.landLate (x : Tile) (e : Engine) (k : Nat) : Tile :=
  match x.late.find? fun w => w.eng == e with
  | none => x
  | some w =>
    if (k ≥ w.outs.length && !w.outs.isEmpty) || x.inflight.any (x.owes e) then x
    else
      let y := match w.outs[k]? with | some o => x.withOut o | none => x
      let rest := w.outs.eraseIdx k
      if rest.isEmpty then
        let z := (({ y with late := putLate e none x.late }.orFlags w.flags.toNat).sweep).count (retireEvent e) 1
        if w.void then z.count 0x11 1 else z
      else { y with late := putLate e (some { w with outs := rest }) x.late }

/-- The k-th row access on its way performs, unless an earlier one of its class is before it (R206). -/
def State.performRow (s : State) (t k : Nat) : State :=
  let x := s.tile t
  match x.rowsOut[k]? with
  | none => s
  | some r =>
    if x.quenched || (x.rowsOut.take k).any fun q => q.cls == r.cls then s
    else (s.setTile t ({ x with rowsOut := x.rowsOut.eraseIdx k }.writeRow r.at_ (if r.eng == Engine.S then .none else .fence r.cls)
      (bitsInto r.mask x.sp r.at_ r.bytes))).note [spTrail true t r.at_ r.bytes.length]

end Sys2Proof.Machine
end

