-- ==== Sys2Proof/Machine/Matrix.lean ====
section
/-! DEFINITION. The matrix engine (R164-R178): block arithmetic (R37, R38), the steps of MMA and MMAS with their faults, MZERO,
MDRAIN and MLOAD. -/

namespace Sys2Proof.Machine

/-! ### Block arithmetic -/

/-- One operand block of a K-block: whether it is a zero block, its scale byte, and its 32 unscaled values. -/
structure Blk where
  zero : Bool
  scale : Nat
  vals : List Fp
  deriving DecidableEq, Repr

/-- Every element of a block is NaN, or some is (R33, R37). -/
def Blk.nanIn (b : Blk) : Bool := (!b.zero && b.scale == 0xFF) || b.vals.any Fp.isNaN

/-- The greatest product exponent ex(p) of the nonzero finite products. -/
def prodTop : List Fp → Option Int
  | [] => none
  | p :: ps =>
    match prodTop ps with
    | none => if p.isZero then none else some p.ilog
    | some k => if p.isZero then some k else some (max k p.ilog)

/-- A finite product truncated toward zero to a multiple of 2^lo, in units of 2^lo. -/
def truncTo (lo : Int) : Fp → Int
  | .fin s m e =>
    let t : Nat := if e ≥ lo then m * 2 ^ (e - lo).toNat else m / 2 ^ (lo - e).toNat
    if s then -(t : Int) else t
  | _ => 0

/-- The sum r of a K-block's products with the scales applied, rounded to .f32; none where it is an invalid NaN: also where
an element of a zero block, which is 0, meets an infinity (R37, R172, log 18). The sum of products that are all 0 is +0 whatever the
scales. -/
def blockSum (a b : Blk) : Option FRes :=
  let ps := List.zipWith Fp.mul a.vals b.vals
  if ps.any Option.isNone then none
  else
    let qs := ps.filterMap id
    let infs := qs.filter Fp.isInf
    if infs.any Fp.sign && infs.any (fun x => !x.sign) then none
    else match infs with
      | x :: _ => some (Fmt.f32.infBits x.sign, 0)
      | [] => match prodTop qs with
        | none => some (0, 0)
        | some top =>
          let lo := top - 40
          let s := (qs.map (truncTo lo)).foldl (· + ·) 0
          if s = 0 then some (0, 0)
          else some (Fmt.f32.round 0 0 false (s < 0) s.natAbs (lo + (a.scale : Int) - 127 + ((b.scale : Int) - 127)) false)

/-- BlockAcc (R37). -/
def blockAcc (acc : Nat) (a b : Blk) : FRes :=
  if a.nanIn || b.nanIn then (0x7FC00000, 0)
  else match blockSum a b with
    | none => (0x7FC00000, flInv)
    | some r =>
      let z := Fmt.f32.add 0 0 (Fmt.f32.decode acc) (Fmt.f32.decode r.1)
      (z.1, r.2 ||| z.2)

/-- The signed mantissa of a BFP value. -/
def mantissa : Fp → Int
  | .fin s m _ => if s then -(m : Int) else m
  | _ => 0

/-- The integer update of R38. -/
def blockAccInt (acc : Nat) (a b : Blk) : FRes :=
  let p := (List.zipWith (fun x y => mantissa x * mantissa y) a.vals b.vals).foldl (· + ·) 0
  let r := satInt 32 true (signExt 32 acc + if a.zero || b.zero then 0 else p)
  (wrap 32 r.1, r.2)

/-! ### Operands of a step (R169, R170) -/

/-- CheckCodes of one operand (R173): the TRAP_DATA of its format fault, without k. -/
def checkCodes (opnd int : Nat) (cs : List Nat) : Option Nat :=
  let at_ (p : Nat → Bool) : Option Nat := cs.findIdx? p
  let data (i : Nat) : Nat := opnd * 2 ^ 16 + cs.getD i 0 * 256 + i
  let reserved (c : Nat) : Bool := c != 0 && codeWidth c == 0
  match at_ reserved with
  | some i => some (data i)
  | none =>
    let c0 := (cs.find? fun c => c != 0).getD 0
    match at_ (fun c => c != 0 && c != c0) with
    | some i => some (data i)
    | none => if int = 1 then (at_ fun c => c != 0 && c < 0x12).map data else none

/-- Payload bytes a head needs (R169, R170). -/
def headBytes (sparse : Bool) (h : BitVec 16) : Nat :=
  (if sparse then 2 else 4) * codeWidth (h.toNat % 256)

/-- Payload bytes a list of heads needs. -/
def headsBytes (sparse : Bool) (hs : List (BitVec 16)) : Nat := (hs.map (headBytes sparse)).foldl (· + ·) 0

/-- The 32 raw elements of a half block: kept elements at the positions of its four metadata bytes, 0 elsewhere (R170). -/
def expandHalf (metas es : List Nat) : List Nat :=
  (List.zipWith (fun m l => expandGo m 0 8 l) metas (groups4 4 es)).flatMap id

/-- A block from its head and payload; `metas` are a half block's metadata bytes. -/
def blockOf (h : BitVec 16) (bytes : List Byte) (metas : Option (List Nat)) : Blk :=
  let c := h.toNat % 256
  let w := codeWidth c
  let x := ofBytes bytes
  let raw := match metas with
    | none => unpackElems w 32 x
    | some ms => expandHalf ms (unpackElems w 16 x)
  if c = 0 then ⟨true, h.toNat / 256, List.replicate 32 (.fin false 0 0)⟩
  else ⟨false, h.toNat / 256, raw.map (blockValue c 127)⟩

/-- The blocks of an operand from its heads and the payload bytes at the front of its FIFO. -/
def blocksOf (metas : Nat → Option (List Nat)) : (i : Nat) → List (BitVec 16) → List Byte → List Blk
  | _, [], _ => []
  | i, h :: hs, bs =>
    let n := headBytes (metas i).isSome h
    blockOf h (bs.take n) (metas i) :: blocksOf metas (i + 1) hs (bs.drop n)

/-- The accumulator after a step, with the step's flags (R172). -/
def stepAcc (m : Acc) (int : Nat) (as bs : List Blk) : Acc × Nat :=
  let cells := as.zipIdx.flatMap fun a => bs.zipIdx.map fun b =>
    let old := elemNat 32 m.toNat (64 * a.2 + b.2)
    if int = 1 then blockAccInt old a.1 b.1 else blockAcc old a.1 b.1
  (BitVec.ofNat 131072 (packElems 32 (cells.map fun r => r.1)), cells.foldl (fun f r => f ||| r.2) 0)

/-- n bytes or heads leave the front of a queue: whether a move command pushed any, and the runs left (R396). -/
def popRuns : Nat → List (Nat × Bool) → Bool × List (Nat × Bool)
  | _, [] => (false, [])
  | n, (k, b) :: l =>
    if n = 0 then (false, (k, b) :: l)
    else if k ≤ n then let r := popRuns (n - k) l; ((b && 0 < k) || r.1, r.2)
    else (b, (k - n, b) :: l)

/-- A step pops its heads and bytes (R172): the tile, and whether a move command had pushed any of them. -/
def Tile.popStep (x : Tile) (nA nB : Nat) : Tile × Bool :=
  let r (q n : Nat) := popRuns n (Assoc.get [] q x.runs)
  let set (q n : Nat) (l : List (Nat × List (Nat × Bool))) := Assoc.set [] q (r q n).2 l
  ({ x with
      sqa := x.sqa.drop 64, sqb := x.sqb.drop 64, fifoA := x.fifoA.drop nA, fifoB := x.fifoB.drop nB
      runs := set 0 64 (set 1 64 (set 2 nA (set 3 nB x.runs))) },
   (r 0 64).1 || (r 1 64).1 || (r 2 nA).1 || (r 3 nB).1)

/-! ### Queue imbalance (R175) -/

/-- The queues a move command delivers into (R245): XCOPY and XCONV with a stream destination. -/
def FwdWord.streamQueues (w : FwdWord) : List Nat :=
  let fn := bits w.slot.toNat 86 7
  let dl := w.cap.dl.toNat
  let sl := w.cap.sl.toNat
  if laySpace dl != 3 || !(fn == 1 || fn == 5) || !guardCap w.cap (Guard.ofSlot w.slot) then []
  else match layBase dl % 4 with
    | 0 => if fn == 5 || layDesc sl then [0, 2] else [2]
    | 1 => if fn == 5 || layDesc sl then [1, 3] else [3]
    | 2 => [0]
    | _ => [1]

/-- The queue a VFEED or SCLD names. -/
def FwdWord.feedQueue? (w : FwdWord) : Option Nat :=
  let fn := bits w.slot.toNat 86 7
  let hi := bits w.slot.toNat 7 1
  if fn == 5 then some (2 + hi) else if fn == 6 then some hi else none

/-- A push into a queue can still arrive (R175). -/
def Tile.pushMayCome (x : Tile) (q : Nat) : Bool :=
  x.secs.any (fun c => c.eng == .L && (c.words.drop c.idx).any fun w => w.feedQueue? == some q) ||
    x.secs.any (fun c => c.eng == .X && (c.words.drop c.idx).any fun w =>
      w.streamQueues.contains q && (w.cap.vals.getD 4 0) != 0) ||
    x.chan.any fun c => !c.void && !c.done && c.word.streamQueues.contains q &&
      (if c.accepted then c.e < c.count || c.held.isSome else c.word.cap.vals.getD 4 0 != 0)

/-! ### Steps -/

/-- A step that changes its point. -/
inductive StepEnd where
  | wait (why : Nat)
  | trap (cause data : Nat)
  | done (x : Tile) (moved : Bool)

/-- What an MMA or MMAS step needs to know of its word. -/
structure MWord where
  acc : Nat
  int : Nat
  kb : Nat
  /-- MMAS: the metadata register and mkb -/
  sparse : Option (Nat × Nat)

/-- The MMA or MMAS word in a slot. -/
def mWordOf? (slot : Slot) : Option MWord :=
  match decodeRaw slot with
  | some (.mma _ f) => some ⟨f.acc.toNat, f.int.toNat, f.kb.toNat, none⟩
  | some (.mmas _ f) => some ⟨f.acc.toNat, f.int.toNat, f.kb.toNat, some (f.reg.toNat, f.mkb.toNat)⟩
  | _ => none

/-- A short queue: the step waits, or takes the queue-imbalance fault at step k (R175). -/
def Tile.shortQueues (x : Tile) (k : Nat) (short : List Nat) : StepEnd :=
  match short.find? (fun q => !x.pushMayCome q) with
  | some q => if x.stuckOnM then .trap 5 (k * 2 ^ 32 + q) else .wait 2
  | none => .wait 2

/-- The metadata bytes of row i of K-block k (R158, R170). -/
def metaOf (v : VReg) (row i : Nat) : List Nat := unpackElems 8 4 (elemNat 32 v.toNat (64 * row + i))

/-- One step of a matrix word (R172). -/
def Tile.mStepGo (x : Tile) (w : MWord) (k : Nat) : StepEnd :=
  let c := match w.sparse with | some (r, mkb) => some (x.readV r, mkb + k, x.emptyV r) | none => none
  let bad := match c with
    | some (v, row, _) => (List.range 256).find? fun g => !metaValid (elemNat 8 v.toNat (256 * row + g))
    | none => none
  if (match c with | some (_, _, e) => e | none => false) then .wait 3
  else match bad, c with
  | some g, some (v, row, _) =>
    .trap 7 (k * 2 ^ 32 + (256 * row + g) * 256 + elemNat 8 v.toNat (256 * row + g))
  | _, _ =>
    let shortH := (if x.sqa.length < 64 then [0] else []) ++ (if x.sqb.length < 64 then [1] else [])
    if shortH ≠ [] then x.shortQueues k shortH
    else
      let ha := x.sqa.take 64
      let hb := x.sqb.take 64
      match checkCodes 0 w.int (ha.map fun h => h.toNat % 256), checkCodes 1 w.int (hb.map fun h => h.toNat % 256) with
      | some d, _ => .trap 6 (k * 2 ^ 32 + d)
      | none, some d => .trap 6 (k * 2 ^ 32 + d)
      | none, none =>
        let nA := headsBytes w.sparse.isSome ha
        let nB := headsBytes false hb
        let shortF := (if x.fifoA.length < nA then [2] else []) ++ (if x.fifoB.length < nB then [3] else [])
        if shortF ≠ [] then x.shortQueues k shortF
        else
          let as := blocksOf (fun i => c.map fun (v, row, _) => metaOf v row i) 0 ha x.fifoA
          let bs := blocksOf (fun _ => none) 0 hb x.fifoB
          let (m, fl) := stepAcc (x.readM w.acc) w.int as bs
          let (y, moved) := x.popStep nA nB
          .done ((y.writeM w.acc m).orFlags fl) moved

/-- A completed step: the next one, or the word retires (R172). -/
def Tile.endStep (x : Tile) (q k kb : Nat) : Tile :=
  let y := (x.setWait .M 0).count 6 1
  if k + 1 < kb then { y with mStep := some (k + 1) } else ({ y with mStep := none }).retireE .M q false

/-- MMA_STEP (R172, R173-R177): one K-block, or its wait, or its fault, once the engine's earlier words have written what they
have to. An operand that a move command pushed resolves an
input of replay (R396). -/
def execMmaStep (tile : Nat) (s : State) : Res :=
  let x := s.tile tile
  match x.mStep, x.nextWord tile .M with
  | some k, some (i, w) =>
    match mWordOf? w.slot with
    | none => .next s
    | some mw =>
      if !x.mayRun .M || x.late.any (fun l => l.eng == .M) || x.inflight.any (x.owes .M) then .next s
      else match x.mStepGo mw k with
        | .wait why => .next (s.setTile tile (x.setWait .M why))
        | .trap c d => .next (s.takeTrap i false c d)
        | .done y moved =>
          if moved then
            match s.chunkEnd tile false 4 x.chunk 0 with
            | .done s1 _ => .next (s1.setTile tile { y.endStep i.seq k mw.kb with chunk := 0 })
            | .hold => .next (s.setTile tile (x.setWait .M 2))
            | .diverged s1 => .next s1
          else .next (s.setTile tile (y.endStep i.seq k mw.kb))
  | _, _ => .next s

/-! ### Words -/

/-- A matrix word issues: its steps follow as MMA_STEP (R172). A word whose steps have begun goes on with them. -/
def mIssue (s : State) (g : Guard) : Res :=
  eWord s g fun x =>
    match x.mStep with
    | none => .wait (s.putTile { x with mStep := some 0 }) 0
    | some _ => .wait s (x.waitWhy .M)

/-- MMA (R172). -/
def execMma (g : Guard) (_f : FmtMX) (s : State) : Res := mIssue s g
/-- MMAS (R170, R172). -/
def execMmas (g : Guard) (_f : FmtMX) (s : State) : Res := mIssue s g

/-- MZERO (R167). -/
def execMzero (g : Guard) (f : FmtMX) (s : State) : Res :=
  eWord s g fun x => .retire (s.putTile (x.writeM f.acc.toNat 0))

/-- The four results of MDRAIN in flight (R168): register q holds accumulator rows 16q to 16q + 15. -/
def State.issueDrain (s : State) (m : Acc) (regs : List Nat) : State :=
  let s' := regs.zipIdx.foldl (fun s1 r =>
    { s1 with issue := { s.issue with lat := s.issue.lat + 2 * r.2 } }.issueLong .mdrain r.1
      (BitVec.ofNat 32768 (bits m.toNat (32768 * r.2) 32768)) 0 0xFFFF) s
  { s' with issue := s.issue }

/-- MDRAIN (R168). -/
def execMdrain (g : Guard) (f : FmtMX) (s : State) : Res :=
  eWord s g fun x => x.gateV s [] s.issue.cap.regs
    (.retire (s.issueDrain (x.readM f.acc.toNat) s.issue.cap.regs))

/-- MDRAIN_REGISTER_FULL (R168). -/
def execMdrainRegisterFull (tile k : Nat) (s : State) : Res := s.land tile k .mdrain

/-- MLOAD (R168). -/
def execMload (g : Guard) (f : FmtMX) (s : State) : Res :=
  eWord s g fun x => x.gateV s (s.issue.cap.regs.map waitV) []
    (.retire (s.putTile (x.writeM f.acc.toNat
      (BitVec.ofNat 131072 (packElems 32768 (s.issue.cap.regs.map fun r => (x.readV r).toNat))))))

end Sys2Proof.Machine
end

