-- ==== Sys2Proof/Machine/SCtl.lean ====
section
/-! DEFINITION. The S engine's control transfer, loop records, counted loops, point fields, HALT, TRAP and NOP (R109-R122). -/

namespace Sys2Proof.Machine

/-- The named general-register source ga of format B. -/
def srcB_ga (f : FmtB) : GSrc := ⟨f.ga.toNat, f.feA == 1, 0⟩

/-- A word address offset by a signed word offset, mod 2^20 word addresses: R109 gives the modulus for BRX; for LREC, LFOR and LNEXT
(R112, R116, R117) no rule gives one, and the model takes PC's: DESIGN CHOICE (log 59). -/
def offsetBy (a n off : Nat) : Nat := wrap 20 ((a : Int) + signExt n off)

/-- A word is taken to its address offset by a signed word offset, without a modulus (R109): no slot has an address of more than
20 bits (log 59). -/
def branchTo (s : State) (a off : Nat) : Ending :=
  let dst := (a : Int) + signExt 32 off
  if 0 ≤ dst ∧ dst < 2 ^ 20 then .jump s dst.toNat else .astray s (wrap 20 dst)

/-- BR (R109). -/
def execBr (g : Guard) (f : FmtB) (s : State) : Res :=
  sWord s g fun _ => branchTo s s.issue.addr f.off.toNat

/-- BRX (R109). -/
def execBrx (g : Guard) (f : FmtB) (s : State) : Res :=
  sWord s g fun x => x.gateG s [srcB_ga f] [] (.jump s (offsetBy (x.readG f.ga.toNat).toNat 32 f.off.toNat))

/-- CALL (R109): the return address is the slot after it. -/
def execCall (g : Guard) (f : FmtB) (s : State) : Res :=
  sWord s g fun x => x.gateG s [] [f.gd.toNat]
    (branchTo (s.putG f.gd.toNat (BitVec.ofNat 64 (s.issue.addr + 1))) s.issue.addr f.off.toNat)

/-- RET (R109). -/
def execRet (g : Guard) (f : FmtB) (s : State) : Res :=
  sWord s g fun x => x.gateG s [srcB_ga f] [] (.jump s ((x.readG f.ga.toNat).toNat % 2 ^ 20))

/-! ### The loop-index stack (R89, R90) -/

/-- An entry pushed as k0, with a fresh instance number and, for a record, its liveness slots. -/
def Tile.pushK (x : Tile) (k : BitVec 128) (live : Option (BitVec 288)) : Tile :=
  { x with ks := k :: x.ks, kIds := x.nextRec :: x.kIds, nextRec := x.nextRec + 1, kLive := live :: x.kLive }

/-- Three liveness slots with the reserved bits [95:84] of the third read as 0 (R2, Table 03-12). -/
def liveMask (l : BitVec 288) : BitVec 288 := l &&& BitVec.ofNat 288 (2 ^ 276 - 1)

/-- The three liveness slots that follow an LREC (R56), as they stand in the code rows. -/
def Tile.liveSlots (x : Tile) (a : Nat) : BitVec 288 := liveMask (x.slotAt (a + 3) ++ x.slotAt (a + 2) ++ x.slotAt (a + 1))

/-- k0 removed; the entries beneath move up by one name. -/
def Tile.popK (x : Tile) : Tile := { x with ks := x.ks.drop 1, kIds := x.kIds.drop 1, kLive := x.kLive.drop 1 }

/-- k0 replaced. -/
def Tile.setK0 (x : Tile) (k : BitVec 128) : Tile := { x with ks := k :: x.ks.drop 1 }

/-- An entry with its count set. -/
def kWithIdx (k : BitVec 128) (i : Nat) : BitVec 128 := kMake (kRec k) (kStg k) (kExit k) (kBody k) i (kLim k)

/-- LREC (R112): its liveness slots are skipped by a void LREC. -/
def execLrec (g : Guard) (f : FmtLrec) (s : State) : Res :=
  let x := s.tile s.issue.tile
  if !x.guardS g then finish s (.skip s 4)
  else finish s (x.gateG s [⟨f.trip.toNat, false, 0⟩] []
    (let n := (x.readG f.trip.toNat).toNat
     let st := f.stg.toNat + 1
     let a := s.issue.addr
     if x.ks.length ≥ 6 then .trap s 0x0B 0
     else if n + st - 1 > 2 ^ 32 - 1 then .trap s 0x0B 2
     else if n = 0 then .jump s (offsetBy a 16 f.epi.toNat)
     else
       let k := kMake true f.stg.toNat (offsetBy a 16 f.epi.toNat) (offsetBy a 16 f.ker.toNat) 0 (n + st - 1)
       .jump (s.putTile { x.pushK k (some (x.liveSlots a)) with sw := 1 }) (offsetBy a 16 f.pro.toNat)))

/-- LOOP (R114, R91, R88). -/
def execLoop (g : Guard) (_f : FmtS) (s : State) : Res :=
  let x := s.tile s.issue.tile
  if !x.guardS g then finish s .void
  else match x.ks with
    | [] => finish s (.trap s 0x0B 1)
    | e :: _ =>
      if !kRec e then finish s (.trap s 0x0B 1)
      else
        let i := kIdx e + 1
        let y := { x.setK0 (kWithIdx e i) with
          rb := x.rb - 1
          sw := x.sw <<< 1 ||| (if i < kLim e - kStg e then 1 else 0) }
        let s' := s.putTile y
        match finish s (.jump s' (if i < kLim e then kBody e else kExit e)) with
        | .next s1 => .next (s1.putTile { s1.tile s.issue.tile with atLoop := true })
        | r => r

/-- LFOR (R116). -/
def execLfor (g : Guard) (f : FmtB) (s : State) : Res :=
  sWord s g fun x => x.gateG s [srcB_ga f] []
    (let n := (x.readG f.ga.toNat).toNat
     let a := s.issue.addr
     let exit := offsetBy a 32 f.off.toNat
     if x.ks.length ≥ 6 then .trap s 0x0B 0
     else if n > 2 ^ 32 - 1 then .trap s 0x0B 2
     else if n = 0 then .jump s exit
     else .jump (s.putTile (x.pushK (kMake false 0 exit (a + 1) 0 n) none)) (a + 1))

/-- LNEXT (R117). -/
def execLnext (g : Guard) (f : FmtB) (s : State) : Res :=
  sWord s g fun x =>
    match x.ks with
    | [] => .trap s 0x0B 1
    | e :: _ =>
      if kRec e then .trap s 0x0B 1
      else
        let i := kIdx e + 1
        if i < kLim e then .jump (s.putTile (x.setK0 (kWithIdx e i))) (offsetBy s.issue.addr 32 f.off.toNat)
        else .jump (s.putTile x.popK) (kExit e)

/-- LIDX (R118): an entry beyond the depth reads 0. -/
def execLidx (g : Guard) (f : FmtS) (s : State) : Res :=
  sWord s g fun x => x.gateG s [] [f.gd.toNat]
    (.retire (s.putG f.gd.toNat (BitVec.ofNat 64 (kIdx (x.ks.getD (f.imm.toNat % 8) 0)))))

/-! ### Point fields (R119) -/

/-- Role and width of field i of the work identifier (Table 10-5). -/
def fieldRole (h : BitVec 1024) (i : Nat) : Nat := hdrField h 1 (42 + 3 * i) 3
def fieldWidth (h : BitVec 1024) (i : Nat) : Nat := hdrField h 1 (7 * i) 7

/-- Position of field i: the widths of the lower fields (R346). -/
def fieldPos (h : BitVec 1024) : Nat → Nat
  | 0 => 0
  | i + 1 => fieldPos h i + fieldWidth h i

/-- PFLD (R119): field f of POINT_ID; 0 for an inner or undeclared field and in a list launch. -/
def execPfld (g : Guard) (f : FmtS) (s : State) : Res :=
  sWord s g fun x => x.gateG s [] [f.gd.toNat]
    (let i := f.imm.toNat % 8
     let r := fieldRole x.hdr i
     .retire (s.putG f.gd.toNat
       (if r = 1 ∨ r = 2 ∨ r = 3 then BitVec.ofNat 64 (bits x.pointId.toNat (fieldPos x.hdr i) (fieldWidth x.hdr i)) else 0)))

/-- PFLD.w (R119): the declared width; a field of role 0 with a width counts as declared: DESIGN CHOICE (log 60). -/
def execPfldW (g : Guard) (f : FmtS) (s : State) : Res :=
  sWord s g fun x => x.gateG s [] [f.gd.toNat]
    (.retire (s.putG f.gd.toNat (BitVec.ofNat 64 (fieldWidth x.hdr (f.imm.toNat % 8)))))

/-! ### HALT, TRAP, NOP -/

/-- HALT (R120, R23): the S engine fetches nothing further, and loop-stack entries are discarded. -/
def execHalt (g : Guard) (_f : FmtS) (s : State) : Res :=
  sWord s g fun x => .jump (s.putTile { x with halted := true, ks := [], kIds := [], kLive := [] }) (s.issue.addr + 1)

/-- TRAP (R121): the breakpoint cause; the word counts as retired. -/
def execTrap (g : Guard) (f : FmtS) (s : State) : Res :=
  sWord s g fun _ => .retireTrap s 0x0D (2 ^ 63 + f.imm.toNat)

/-- NOP (R122). -/
def execNop (g : Guard) (_f : FmtS) (s : State) : Res := sWord s g fun _ => .retire s

end Sys2Proof.Machine
end

