-- ==== Sys2Proof/Machine/SMem.lean ====
section
/-! DEFINITION. Scalar scratchpad access, system registers and trace marks (R93-R95, R123-R127, R209). -/

namespace Sys2Proof.Machine

/-- The named sources of format SM. -/
def smA (f : FmtSM) : GSrc := ⟨f.ga.toNat, f.feA == 1, 0⟩
def smB (f : FmtSM) : GSrc := ⟨f.gb.toNat, f.feB == 1, 1⟩

/-- Bytes of an access size (Table 06-3). -/
def smBytes (size : Nat) : Nat := if size == 3 then 8 else 2 ^ (size % 4)

/-- The byte address of SLD and SST, or TRAP_DATA of its layout fault (R123, R209): low bits of the size are ignored.
An entry of another space whose coordinate is also beyond its extent reports the space: DESIGN CHOICE (log 61). -/
def Tile.smAddr (x : Tile) (f : FmtSM) : Except Nat Nat :=
  let e := x.readLay f.lay.toNat
  let k := f.lay.toNat
  if laySpace e ≠ 0 then .error (layoutData k 2 0 0)
  else match resolveRow e [coord (x.readG f.ga.toNat) + f.imm.toInt, coord (x.readG f.gb.toNat), 0, 0] with
    | .error (c, d) => .error (layoutData k c 0 d)
    | .ok a => .ok (a / smBytes f.size.toNat * smBytes f.size.toNat)

/-- The loaded value widened as its size says (Table 06-3). -/
def smWiden (size v : Nat) : W64 := if size ≥ 4 then BitVec.ofInt 64 (signExt (8 * smBytes size) v) else BitVec.ofNat 64 v

/-- SLD (R123, R124). Reading a semaphore row resolves an input of replay (R396). -/
def execSld (g : Guard) (f : FmtSM) (s : State) : Res :=
  sWord s g fun x => x.gateG s [smA f, smB f] [f.gd.toNat]
    (match x.smAddr f with
    | .error d => .trap s 0x08 d
    | .ok a =>
      if x.classHold x.nowSeq .S f.cls.toNat then .wait s 8
      else watched s [a / 256] false fun s1 =>
        let v := smWiden f.size.toNat (Memory.readLE (x.ordinary s.issue.tile .S f.cls.toNat (x.posOf x.nowSeq .S)).sp a (smBytes f.size.toNat))
        if a < 1024 then .input s1 6 v.toNat 8 fun n s2 => s2.putG f.gd.toNat (BitVec.ofNat 64 n)
        else .retire ((s1.putG f.gd.toNat v).noteRows s.issue.tile [a / 256]))

/-- The semaphores a run of bytes of rows 0 to 3 touches. -/
def semsOf (a n : Nat) : List Nat := (List.range ((a % 4 + n + 3) / 4)).map fun i => a / 4 + i

/-- Which of a list of semaphores have a greater value in y than in x: a change that brings one up is what ends waits (R327, R333). -/
def raisedSems (x y : Tile) (ns : List Nat) : List Nat := ns.filter fun n => x.sem n < y.sem n

/-- The unit serves the waiters of every semaphore in a list. -/
def State.serveAll (s : State) (t : Nat) (b : Setter) : List Nat → State
  | [] => s
  | n :: ns => State.serveAll (s.serve t n b) t b ns

/-- SST (R123, R124): rows 0 to 3 only with PRIV.sys, and then the semaphore unit serves the changed semaphores. What it writes to a
code row is performed when it executes (R300), and so is a semaphore. -/
def execSst (g : Guard) (f : FmtSM) (s : State) : Res :=
  sWord s g fun x => x.gateG s [smA f, smB f] [f.gd.toNat]
    (match x.smAddr f with
    | .error d => .trap s 0x08 d
    | .ok a =>
      let n := smBytes f.size.toNat
      if a < 1024 && !x.priv.getLsbD 2 then .trap s 0x08 (layoutData f.lay.toNat 3 0 0)
      else if x.classHold x.nowSeq .S f.cls.toNat then .wait s 8
      else watched s [a / 256] true fun s1 =>
        let bs := toBytes n (x.readG f.gd.toNat).toNat
        if a < 1024 || !(x.slotsOfRow (a / 256)).isEmpty then
          let s2 := (s1.putTile ((s1.tile s.issue.tile).writeBytes a .none bs)).note [spTrail true s.issue.tile a n]
          .retire (if a < 1024 then s2.serveAll s.issue.tile { kind := 4 } (raisedSems (s1.tile s.issue.tile) (s2.tile s.issue.tile) (semsOf a n)) else s2)
        else .retire (s1.storeOut f.cls.toNat .none [(a, allBytes bs)]))

/-! ### System registers (Tables 05-3, 05-4) -/

/-- The value of a system register; its reserved bits read 0. -/
def State.readSys (s : State) (t sel : Nat) : W64 :=
  let x := s.tile t
  match sel with
  | 0x000 => BitVec.ofNat 64 t
  | 0x001 => x.pointId
  | 0x002 => x.launchId
  | 0x003 => BitVec.zeroExtend 64 x.bound
  | 0x004 => BitVec.zeroExtend 64 x.fp
  | 0x005 => BitVec.zeroExtend 64 x.seed
  | 0x006 => BitVec.zeroExtend 64 x.priv
  | 0x007 => s.scyc
  | 0x008 => BitVec.zeroExtend 64 x.rb
  | 0x010 => BitVec.zeroExtend 64 x.trapCause
  | 0x011 => BitVec.zeroExtend 64 x.trapEngine
  | 0x012 => BitVec.zeroExtend 64 x.trapSection
  | 0x013 => BitVec.zeroExtend 64 x.trapWord
  | 0x014 => x.trapData
  | 0x018 => BitVec.zeroExtend 64 x.waitHead
  | n => if 0x100 ≤ n then BitVec.ofNat 64 (x.readDbg (n - 0x100)) else 0

/-- The bits of a debug register that are not reserved (Table 20-1). -/
def dbgMask (i : Nat) : W64 :=
  if i < 4 then 0xEFFFFFFFFFFFFFFF else if i < 8 then 0xFC0000000FFFFFFF else 7

/-- CRD (R125); a read of SCYC resolves an input of replay (R396). -/
def execCrd (g : Guard) (f : FmtS) (s : State) : Res :=
  sWord s g fun x => x.gateG s [] [f.gd.toNat]
    (let v := s.readSys s.issue.tile f.imm.toNat
     if f.imm.toNat = 7 then .input s 6 v.toNat 8 fun n s2 => s2.putG f.gd.toNat (BitVec.ofNat 64 n)
     else .retire (s.putG f.gd.toNat v))

/-- Whether CWR may write a register: FP_FLAGS, RAND_SEED, and the debug registers with PRIV.debug (R93). -/
def Tile.mayWrite (x : Tile) (sel : Nat) : Bool :=
  sel == 4 || sel == 5 || (0x100 ≤ sel && sel ≤ 0x108 && x.priv.getLsbD 1)

/-- A system register written; the bits of FP_FLAGS that words set in the same cycle are applied after the write (R45). -/
def Tile.writeSys (x : Tile) (sel : Nat) (v : W64) : Tile :=
  if sel = 4 then { x with fp := v.extractLsb' 0 6 ||| x.fpNow }
  else if sel = 5 then { x with seed := v.extractLsb' 0 32, lg := seedGens (v.toNat % 2 ^ 32) }
  else { x with
    dbg := Assoc.set 0 (sel - 0x100) (v &&& dbgMask (sel - 0x100)) x.dbg
    bpFired := if sel < 0x104 then x.bpFired &&& ~~~(1#4 <<< (sel - 0x100)) else x.bpFired }

/-- CWR (R125): any other register takes the privilege fault. RAND_SEED waits until every A section forwarded before has
retired (R126). -/
def execCwr (g : Guard) (f : FmtS) (s : State) : Res :=
  sWord s g fun x => x.gateG s [srcA f] []
    (let sel := f.imm.toNat
     if !x.mayWrite sel then .trap s 0x0C sel
     else if sel = 5 && x.secs.any (fun c => c.eng == .A) then .wait s 8
     else .retire (s.putTile (x.writeSys sel (x.readG f.ga.toNat))))

/-- TMARK (R127). -/
def execTmark (g : Guard) (f : FmtS) (s : State) : Res :=
  sWord s g fun x => x.gateG s [srcA f] []
    (.retire (if bit (x.readDbg 8) 0 then
        s.trace 1 s.issue.tile (f.imm.toNat % 2 ^ 16) (x.readG f.ga.toNat).toNat 0 else s))

end Sys2Proof.Machine
end

