-- ==== Sys2Proof/Machine/Tables.lean ====
section
/-! DEFINITION. The words of the tile tables (R183, R185-R190): LSET, LGET, RINIT, RACQ, RREL and the completion of a deferred
release. LAUNCH is in LaunchEvents. -/

namespace Sys2Proof.Machine

/-- The named source ga of format T. -/
def tA (f : FmtT) : GSrc := ⟨f.ga.toNat, f.fe == 1, 0⟩

/-- A layout change waits until every L and W section forwarded before it whose words name the entry has retired (R183). -/
def Tile.layHold (x : Tile) (k : Nat) : Bool :=
  x.secs.any fun c => c.words.any fun w => w.vmLay? c.eng == some k

/-- A 64-bit word of a wider value replaced. -/
def setWord (v i w : Nat) : Nat := v - bits v (64 * i) 64 * 2 ^ (64 * i) + w % 2 ^ 64 * 2 ^ (64 * i)

/-- LSET (R186): reserved bits are ignored. -/
def execLset (g : Guard) (f : FmtT) (s : State) : Res :=
  sWord s g fun x => x.gateG s [tA f] []
    (let k := f.lay.toNat
     if x.layHold k then .wait s 8
     else .retire (s.putTile (x.writeLay k (layMask (setWord (x.readLay k) f.wd.toNat (x.readG f.ga.toNat).toNat)))))

/-- LGET (R186). -/
def execLget (g : Guard) (f : FmtT) (s : State) : Res :=
  sWord s g fun x => x.gateG s [] [f.gd.toNat]
    (.retire (s.putG f.gd.toNat (BitVec.ofNat 64 (layField (layMask (x.readLay f.lay.toNat)) f.wd.toNat 0 64))))

/-! ### Buffer rings (Table 10-3) -/

def ringNm1 (r : Nat) : Nat := bits r 28 4
def ringSrows (r : Nat) : Nat := bits r 14 14
def ringBrow (r : Nat) : Nat := bits r 0 14
def ringFa (r : Nat) : Nat := bits r 124 4
def ringFr (r : Nat) : Nat := bits r 120 4
def ringDa (r : Nat) : Nat := bits r 116 4
def ringDr (r : Nat) : Nat := bits r 112 4
def ringPend (r slot : Nat) : Bool := bit r (96 + slot)
def ringAnyPend (r : Nat) : Bool := bits r 96 16 != 0
/-- 0 free, 1 filling, 2 full, 3 draining. -/
def ringSt (r slot : Nat) : Nat := bits r (64 + 2 * slot) 2

/-- A field of a ring entry replaced. -/
def setField (r lo len v : Nat) : Nat := r - bits r lo len * 2 ^ lo + v % 2 ^ len * 2 ^ lo

/-- TRAP_DATA of a ring fault (R190). -/
def ringData (bn case : Nat) : Nat := bn * 256 + case

/-- Two runs of rows overlap. -/
def overlaps (a n b m : Nat) : Bool := 0 < n && 0 < m && a < b + m && b < a + n

/-- A configuration RINIT refuses (R187). -/
def Tile.badRing (x : Tile) (c : Nat) : Bool :=
  let n := (ringNm1 c + 1) * ringSrows c
  ringNm1 c == 0 || ringSrows c == 0 || ringBrow c < 4 || ringBrow c + n > 16384 ||
    overlaps (ringBrow c) n x.codeRow x.ncode || overlaps (ringBrow c) n x.wlRow x.nwl

/-- RINIT (R187). -/
def execRinit (g : Guard) (f : FmtT) (s : State) : Res :=
  sWord s g fun x => x.gateG s [tA f] []
    (let b := f.bn.toNat
     let c := (x.readG f.ga.toNat).toNat % 2 ^ 32
     if ringAnyPend (x.readRing b) then .wait s 8
     else if x.badRing c then .trap s 0x09 (ringData b 4)
     else .retire (s.putTile (x.writeRing b c)))

/-- A layout entry bound to a ring slot (R188): base, and bound, side, bn and slot in W5[47:38]; base [63:22] is 0. -/
def bindLay (e base side bn slot : Nat) : Nat :=
  let e1 := setWord e 0 (base % 2 ^ 22)
  setWord e1 5 (setField (layField e1 5 0 64) 38 10 (2 ^ 9 + side * 2 ^ 8 + bn * 16 + slot))

/-- RACQ (R188). -/
def execRacq (g : Guard) (f : FmtT) (s : State) : Res :=
  sWord s g fun x =>
    let b := f.bn.toNat
    let r := x.readRing b
    let k := f.lay.toNat
    let n := ringNm1 r + 1
    let drain := f.side == 1
    if ringNm1 r = 0 then .trap s 0x09 (ringData b 3)
    else if laySpace (x.readLay k) ≠ 0 then .trap s 0x09 (ringData b 5)
    else if x.layHold k then .wait s 7
    else
      let i := if drain then ringDa r else ringFa r
      let want := if drain then 2 else 0
      if ringSt r i ≠ want then
        let gives := if ringSt r i = 1 then 2 else 0
        if ringPend r i && gives == want then .wait s 7 else .trap s 0x09 (ringData b 2)
      else
        let r1 := setField r (64 + 2 * i) 2 (if drain then 3 else 1)
        let r2 := if drain then setField r1 116 4 ((i + 1) % n) else setField r1 124 4 ((i + 1) % n)
        let e := bindLay (x.readLay k) ((ringBrow r + i * ringSrows r) * 256) (ofBool drain) b i
        let y := (x.writeRing b r2).writeLay k e
        .retire (s.putTile (if drain then y.ringAcquired b i else y))

/-- RREL (R189): the word retires at once, its state change later. -/
def execRrel (g : Guard) (f : FmtT) (s : State) : Res :=
  sWord s g fun x =>
    let b := f.bn.toNat
    let r := x.readRing b
    let n := ringNm1 r + 1
    let drain := f.side == 1
    if ringNm1 r = 0 then .trap s 0x09 (ringData b 3)
    else
      let i := if drain then ringDr r else ringFr r
      if ringSt r i ≠ (if drain then 3 else 1) || ringPend r i then .trap s 0x09 (ringData b 1)
      else
        let r1 := setField r (96 + i) 1 1
        let r2 := if drain then setField r1 112 4 ((i + 1) % n) else setField r1 120 4 ((i + 1) % n)
        .retire (s.putTile { x.writeRing b r2 with relPend := x.relPend ++ [(b, i, ofBool drain, x.nowSeq, x.xq)] })

/-- Every section forwarded before sequence number q has retired, with its writes performed (R189). -/
def Tile.retiredBefore (x : Tile) (q : Nat) : Bool :=
  !(x.secs.any fun c => c.seq < q) && !(x.inflight.any fun c => c.seq < q) && !(x.late.any fun c => c.seq < q) &&
    !(x.chan.any fun c => c.seq < q) && !(x.rowsOut.any fun r => r.pos < 2048 * q + 1)

/-- RREL_COMPLETE (R189): the slot becomes full or free once every section forwarded before its RREL has retired; the completion of an
RREL.f orders what those sections and their commands have written before the ordinary accesses behind the slot's RACQ.d. -/
def execRrelComplete (tile ring slot : Nat) (s : State) : Res :=
  let x := s.tile tile
  match x.relPend.find? (fun p => p.1 == ring && p.2.1 == slot) with
  | none => .next s
  | some (_, _, side, q, xq) =>
    if x.retiredBefore q && !x.quenched then
      let r := setField (setField (x.readRing ring) (64 + 2 * slot) 2 (if side = 0 then 2 else 0)) (96 + slot) 1 0
      let s1 := s.setTile tile { x.writeRing ring r with
        relPend := x.relPend.filter fun p => !(p.1 == ring && p.2.1 == slot) }
      .next (if side = 0 then s1.releaseTo tile (ringSem ring slot) 0 (CopyMark.byRing tile q xq) else s1)
    else .next s

end Sys2Proof.Machine
end

