-- ==== Sys2Proof/Machine/Sync.lean ====
section
/-! DEFINITION. Semaphore words (R324-R328), CYC (R337), WPOP (R316), and the fence words (R301-R305). -/

namespace Sys2Proof.Machine

/-- The named source gn of an S-form semaphore word. -/
def syN (f : FmtSY) : GSrc := ⟨f.gn.toNat, f.fe == 1, 0⟩

/-- The count of an S-form semaphore word (R324). -/
def Tile.syCount (x : Tile) (f : FmtSY) : Nat := semCount (x.readG f.gn.toNat).toNat f.imm.toNat

/-- The count of an engine form: gn is captured (R66). -/
def capCount (cap : Capture) (f : FmtSY) : Nat := semCount (cap.vals.getD 0 0).toNat f.imm.toNat

/-- SEMS (R325): a release of every ordinary access forwarded before it (R294). -/
def execSems (g : Guard) (f : FmtSY) (s : State) : Res :=
  sWord s g fun x => x.gateG s [syN f] []
    (if x.openBefore x.nowSeq .S 0xFFFF then .wait s 7
     else semGive s .S f.sem.toNat f.scope.toNat (x.syCount f))

/-- SEMW (R326). -/
def execSemw (g : Guard) (f : FmtSY) (s : State) : Res :=
  sWord s g fun x => x.gateG s [syN f] [] (semTake s .S f.sem.toNat f.scope.toNat (x.syCount f))

/-- SEMR (R328): its value is an input of replay (R396). -/
def execSemr (g : Guard) (f : FmtSY) (s : State) : Res :=
  sWord s g fun x => x.gateG s [] [f.gd.toNat]
    (.input s 6 (x.sem f.sem.toNat) 8 fun v s1 => s1.putG f.gd.toNat (BitVec.ofNat 64 v))

/-- A word of engine e with one guard value; a word whose wait on a semaphore has begun is enabled (R326). -/
def engWord (s : State) (e : Engine) (g : Guard) (k : Tile → Ending) : Res :=
  let x := s.tile s.issue.tile
  finish s (if x.guard0 e s.issue.cap g || x.waiters.any (fun w => w.eng == e) then k x else .void)

/-- SEMS of an L, A, W or M section (R325): earlier words of its engine have retired, or have their results in flight. -/
def execSemsEngine (e : Engine) (g : Guard) (f : FmtSY) (s : State) : Res :=
  engWord s e g fun x =>
    if x.openBefore s.issue.seq e 0xFFFF || x.inflight.any (fun i => i.eng == e) || x.late.any (fun i => i.eng == e) then .wait s 7
    else semGive s e f.sem.toNat f.scope.toNat (capCount s.issue.cap f)

/-- SEMW of an L, A, W or M section (R326). -/
def execSemwEngine (e : Engine) (g : Guard) (f : FmtSY) (s : State) : Res :=
  engWord s e g fun _ => semTake s e f.sem.toNat f.scope.toNat (capCount s.issue.cap f)

/-- CYC (R337): the counter as it stood before this cycle; an input of replay (R396). -/
def execCyc (g : Guard) (f : FmtS) (s : State) : Res :=
  sWord s g fun x => x.gateG s [] [f.gd.toNat]
    (.input s 6 (Assoc.get 0 (f.imm.toNat % 8) x.pcsPrev).toNat 8 fun v s1 => s1.putG f.gd.toNat (BitVec.ofNat 64 v))

/-! ### WPOP (R316) -/

/-- Slots of a work list (R313). -/
def Tile.wlCap (x : Tile) : Nat := 4 * x.nwl

/-- Byte address of a slot of the work list (R313). -/
def Tile.wlSlot (x : Tile) (i : Nat) : Nat := 256 * (x.wlRow + i / 4) + 64 * (i % 4)

/-- g8 to g15 from the 64 bytes of an item. -/
def Tile.loadItem (x : Tile) (a : Nat) : Tile :=
  (List.range 8).foldl (fun y k => y.writeG (8 + k) (BitVec.ofNat 64 (Memory.readLE x.sp (a + 8 * k) 8))) x

/-- An item of the tile's launch has been popped, discarded or appended: the counts of R318, and the idle count of R321. -/
def State.listCount (s : State) (t appended consumed : Nat) : State :=
  match (s.tile t).point with
  | none => s
  | some p => match s.launch? p.slot with
    | none => s
    | some l => s.setLaunch p.slot { l with cntA := l.cntA + appended, cntC := l.cntC + consumed, idle := 0 }

/-- WPOP (R316): its read of the item is under the watchpoints (R387). -/
def execWpop (g : Guard) (_f : FmtS) (s : State) : Res :=
  sWord s g fun x => x.gateG s [] [8, 9, 10, 11, 12, 13, 14, 15]
    (let t := s.issue.tile
     if !x.isList then .trap s 0x10 6
     else if x.wlCount > 0 then
       watched s [x.wlSlot x.wlHead / 256] false fun s0 => .input s0 3 0 6 fun _ s1 =>
         let y := s1.tile t
         let z := (y.loadItem (y.wlSlot y.wlHead)).writeC 1 true
         (s1.setTile t { z.acquired listSem 2 with wlHead := (y.wlHead + 1) % y.wlCap, wlCount := y.wlCount - 1 }).listCount t 0 1
     else if x.wlDone then
       .input s 3 0 6 fun _ s1 => s1.setTile t ((s1.tile t).writeC 1 false)
     else .wait s 6)

/-! ### Fences -/

/-- FENCE on the S engine (R302); what it makes performed is fetchable after an IFENCE (R300). -/
def execFence (g : Guard) (f : FmtFN) (s : State) : Res :=
  sWord s g fun x =>
    if x.openBefore x.nowSeq .S f.mask.toNat then .wait s 7
    else .retire (s.putTile ((x.fenced s.issue.tile f.mask.toNat).codeDone fun n => match n with | .fence c => bit f.mask.toNat c | _ => false))

/-- FENCE of an L, A or W section (R302): it holds its own engine. -/
def execFenceEngine (e : Engine) (g : Guard) (f : FmtFN) (s : State) : Res :=
  engWord s e g fun x =>
    if x.openBefore s.issue.seq e f.mask.toNat then .wait s 7 else .retire (s.putTile (x.fenced s.issue.tile f.mask.toNat))

/-- XFENCE (R303): it does not wait for move commands. -/
def execXfence (g : Guard) (f : FmtFN) (s : State) : Res :=
  sWord s g fun x =>
    if x.openBefore x.nowSeq .S f.mask.toNat then .wait s 7 else .retire (s.putTile (x.xfenced s.issue.tile f.mask.toNat))

/-- What IFENCE leaves of the writes to code rows: those that are not performed for the tile, for slots that no later performed write has
written (R300). -/
def fetchLeft : List CodeWrite → List CodeWrite
  | [] => []
  | w :: ws =>
    let done (a : Nat) : Bool := ws.any fun v => v.need == .none && v.slots.any fun p => p.1 == a
    let left := w.slots.filter fun p => !done p.1
    if w.need == .none || left.isEmpty then fetchLeft ws else { w with slots := left } :: fetchLeft ws

/-- IFENCE (R304): no slot is decoded as it was before a write that is performed for the tile (R300). -/
def execIfence (g : Guard) (_f : FmtFN) (s : State) : Res :=
  sWord s g fun x => .retire (s.putTile { x with codeOld := fetchLeft x.codeOld })

/-- DRAIN (R305): with it, what the tile's words and commands have written is performed at module scope. -/
def execDrain (g : Guard) (_f : FmtFN) (s : State) : Res :=
  sWord s g fun x => if x.settled then .retire (s.moduleDone s.issue.tile) else .wait s 7

end Sys2Proof.Machine
end

