-- ==== Sys2Proof/Machine/Graph.lean ====
section
/-! DEFINITION. The graph executor and the launch processor's acceptance of launches (R191-R197, R341-R346, R432): decrements,
node kinds, the checks of a launch header, launch slots, and restoring a saved frontier. -/

namespace Sys2Proof.Machine

/-! ### The work identifier and the point space (R193, R346) -/

/-- The field of the work identifier that has a role. -/
def fieldOfRole (h : BitVec 1024) (r : Nat) : Option Nat := (List.range 6).find? fun i => fieldRole h i == r

/-- Component a (0 column axis 0, 1 column axis 1, 2 advance axis) of dependence vector i. -/
def depVec (h : BitVec 1024) (i a : Nat) : Nat := hdrField h 3 (12 * i + 4 * a) 4

/-- A value placed in the field of a role; nothing where no field has it. -/
def placeField (h : BitVec 1024) (r v : Nat) : Nat :=
  match fieldOfRole h r with
  | some i => v % 2 ^ fieldWidth h i * 2 ^ fieldPos h i
  | none => 0

/-- POINT_ID of a frontier point (R346). -/
def widOf (l : Launch) (col z : Nat) : W64 :=
  if l.isList then 0
  else BitVec.ofNat 64 (placeField l.hdr 1 (col % l.ext0) + placeField l.hdr 2 (col / l.ext0) + placeField l.hdr 3 z)

/-- The predecessor of point (col, z) under dependence vector i: its column and z; none where it lies outside the space
(R346). -/
def predOfPoint (l : Launch) (col z i : Nat) : Option (Nat × Nat) :=
  let c0 := col % l.ext0
  let c1 := col / l.ext0
  let d0 := depVec l.hdr i 0
  let d1 := depVec l.hdr i 1
  let dz := depVec l.hdr i 2
  if c0 < d0 || c1 < d1 || z < dz then none else some (c0 - d0 + l.ext0 * (c1 - d1), z - dz)

/-- BOUND of a point (R92): the declared vectors whose predecessor lies outside the space. -/
def boundOf (l : Launch) (col z : Nat) : BitVec 4 :=
  if l.isList then 0
  else BitVec.ofNat 4 (maskOf (fun i => decide (i < l.ndep) && (predOfPoint l col z i).isNone) 4)

/-! ### Frontier columns (Table 10-7) -/

def colH (e : BitVec 64) : Nat := bits e.toNat 0 24
/-- Point h + j has fired. -/
def colF (e : BitVec 64) (j : Nat) : Bool := e.getLsbD (24 + j)
/-- Point h + j is done, j from 1. -/
def colD (e : BitVec 64) (j : Nat) : Bool := e.getLsbD (31 + j)

def Launch.col (l : Launch) (c : Nat) : BitVec 64 := Assoc.get 0 c l.cols
def Launch.setCol (l : Launch) (c : Nat) (e : BitVec 64) : Launch := { l with cols := Assoc.set 0 c e l.cols }

/-- Point (col, z) complete. -/
def Launch.pointDone (l : Launch) (col z : Nat) : Bool :=
  let e := l.col col
  z < colH e || (decide (colH e < z) && z ≤ colH e + 7 && colD e (z - colH e))

/-- A frontier launch is complete when every column has reached extz (R349). -/
def Launch.allDone (l : Launch) : Bool := (List.range l.ncol).all fun c => colH (l.col c) == l.extz

/-! ### The checks of a launch header (R194) -/

/-- The number of the first failed case, from 1; 0 when none fails. `priv` is the privilege the node carries. -/
def checkHeader (h : BitVec 1024) (priv : BitVec 3) : Nat :=
  let roles := (List.range 6).map (fieldRole h)
  let isList := hdrField h 0 0 1 == 1
  let widths := (List.range 6).map (fieldWidth h)
  let ext (r : Nat) : Nat := match r with | 1 => hdrField h 2 0 17 | 2 => hdrField h 2 17 17 | _ => hdrField h 2 34 24
  let badAxis (r : Nat) : Bool := match fieldOfRole h r with
    | some i => ext r > 2 ^ fieldWidth h i
    | none => ext r != 1
  let ndep := hdrField h 0 8 3
  let maxt := hdrField h 0 24 10
  let mint := hdrField h 0 14 10
  let code := hdrField h 4 20 14
  let ncode := hdrField h 4 34 14
  let wl := hdrField h 5 0 14
  let nwl := hdrField h 5 14 14
  let badRows (a n : Nat) : Bool := n != 0 && (a < 4 || a + n > 16384)
  let hp := hdrField h 0 11 3
  if widths.foldl (· + ·) 0 > 64 then 1
  else if roles.any (fun r => r ≥ 5) || [1, 2, 3].any (fun r => (roles.filter (· == r)).length > 1) then 2
  else if !isList && (fieldOfRole h 3).isNone then 3
  else if [1, 2, 3].any badAxis then 4
  else if ext 1 * ext 2 > 65536 then 5
  else if ndep ≥ 5 || (List.range ndep).any (fun i => hdrField h 3 (12 * i) 12 == 0) then 6
  else if maxt = 0 || maxt > 896 || mint = 0 || mint > maxt then 7
  else if badRows code ncode || badRows wl nwl || overlaps code ncode wl nwl then 8
  else if hp &&& priv.toNat != hp then 9
  else if hdrField h 13 0 16 = 0 && !bit hp 2 then 10
  else 0

/-- A table image of the header: zeros for a VA of 0, none where it cannot be read (R19, R194). -/
def State.tableImage (s : State) (tctx va n : Nat) : Option (List Byte) :=
  if va = 0 then some [] else s.readVA tctx va n

/-- The code-row segment that a header points at: context and VA (R84, log 5). -/
def State.codeFor (s : State) (ctx hdrVA : Nat) : Option (Nat × Nat) :=
  (s.images.find? fun i => i.ctx == ctx && i.hdrVA == hdrVA).map fun i => (ctx, i.codeVA)

/-! ### Restoring a frontier (R197, R351, R432) -/

def frontMagic : Nat := 0x5346_5848

/-- The saved area at a launch's ctx begins a frontier of this header (R432): asked when its node runs. -/
def State.savedHere (s : State) (l : Launch) : Bool :=
  l.ctxVA != 0 &&
    match s.readVA l.tctx l.ctxVA 16 with
    | some b => bits (ofBytes b) 0 48 == frontMagic + 2 ^ 32 && bits (ofBytes b) 64 64 == l.hdrVA
    | none => false

/-- Runs of equal columns expanded: column entries in ascending index. -/
def expandRuns : List Nat → List (BitVec 64)
  | [] => []
  | r :: rs => List.replicate (bits r 40 16 + 1) (BitVec.ofNat 64 (bits r 0 24 + bits r 32 7 * 2 ^ 32)) ++ expandRuns rs

/-- A launch with the header at a saved VA (R197), read in its node's context; none where it cannot be read (log 66). -/
def State.headerAt (s : State) (l : Launch) (va : Nat) : Option Launch :=
  (s.readVA l.nodeCtx va 128).map fun b => { l with hdrVA := va, hdr := BitVec.ofNat 1024 (ofBytes b) }

/-- The saved frontier of a launch with the header it names, or none where it fails a check of R197, or cannot be read (log 70). -/
def State.loadFrontier (s : State) (l0 : Launch) : Option (Launch × List (BitVec 64) × List (Nat × Nat × Nat)) :=
  (s.readVA l0.tctx l0.ctxVA 32).bind fun hd =>
    let w (i : Nat) : Nat := bits (ofBytes hd) (64 * i) 64
    let ncol := bits (w 2) 0 17
    let nrun := bits (w 2) 17 17
    let nfly := bits (w 3) 0 20
    (s.headerAt l0 (w 1)).bind fun l =>
    if bits (w 0) 0 32 ≠ frontMagic || bits (w 0) 32 16 ≠ 1 || ncol ≠ l.ncol then none
    else
      (s.readVA l0.tctx (l0.ctxVA + 32) (8 * nrun)).bind fun rb =>
        (s.readVA l0.tctx (l0.ctxVA + 32 + 8 * nrun) (16 * nfly)).bind fun fb =>
          let runs := unpackElems 64 nrun (ofBytes rb)
          let total := (runs.map fun r => bits r 40 16 + 1).foldl (· + ·) 0
          if total ≠ ncol then none
          else
            let cols := expandRuns runs
            let fly := (unpackElems 128 nfly (ofBytes fb)).map fun p => (bits p 0 17, bits p 17 24, bits p 64 64)
            if fly.all (fun p => decide (p.1 < ncol) &&
                decide (colH (cols.getD p.1 0) ≤ p.2.1) && decide (p.2.1 ≤ colH (cols.getD p.1 0) + 7)) then
              some (l, cols, fly)
            else none

def ctxMiB : Nat := 2 ^ 20

/-- Context records of a launch: SLOT_CTL.idx has ten bits (Table 19-2). -/
def recCount : Nat := 1024

/-- Context record i of a launch (R371); a number that is no index is a record's own VA, as a saved frontier may name it (log 31). -/
def Launch.recVA (l : Launch) (i : Nat) : Nat := if i < recCount then l.ctxVA + ctxMiB + 16 * ctxMiB * i else i

/-- Record index of a context VA, or what stands for it. -/
def Launch.recIdx (l : Launch) (va : Nat) : Nat :=
  let i := (va - l.ctxVA - ctxMiB) / (16 * ctxMiB)
  if i < recCount && l.recVA i == va then i else if va < recCount then va + 2 ^ 57 else va

/-- The trapped flag of a record (Table 19-5). -/
def State.recTrapped (s : State) (l : Launch) (i : Nat) : Bool :=
  match s.readVA l.tctx (l.recVA i + 8) 1 with
  | some (b :: _) => b.getLsbD 0
  | _ => false

/-- The launch processor notes a trapped point by its record: SLOT_TRAP, and the trap vector (R366). -/
def State.noteTrapped (s : State) (slot va : Nat) : State :=
  { s with ctl := { s.ctl with slotTrap := Tab.put slot (va % 2 ^ 57) s.ctl.slotTrap } }.raise s.ctl.trapVec.toNat

/-- One in-flight point of a saved frontier takes its place in the launch and the queues (R351), with what the last mark kept beside its
record (log 31). -/
def State.refly (s : State) (slot : Nat) (p : Nat × Nat × Nat) : State :=
  match s.launch? slot with
  | none => s
  | some l =>
    let (c, z, va) := p
    let h := colH (l.col c)
    let l1 := l.setCol c (l.col c ||| BitVec.ofNat 64 (2 ^ (24 + (z - h))))
    let kept : LPoint := ((l.markPts.getD []).find? fun q => q.col == c && q.z == z).getD { col := c, z := z, home := 0, place := .refire }
    let add (pl : PtPlace) : List LPoint := l1.pts ++ [{ kept with place := pl }]
    if va = 0 then s.setLaunch slot { l1 with pts := add .refire }
    else
      let i := l.recIdx va
      if s.recTrapped l i then
        (s.setLaunch slot { l1 with pts := add (.trapped i), ntrap := l1.ntrap + 1 }).noteTrapped slot va
      else
        { s.setLaunch slot { l1 with pts := add (.parked i) } with parkedQ := s.parkedQ ++ [(slot, i)] }

/-- The columns and in-flight points of a loaded frontier put into a launch. -/
def State.putFrontier (s : State) (slot : Nat) (l : Launch) (cols : List (BitVec 64)) (fly : List (Nat × Nat × Nat)) : State :=
  let l1 := { l with cols := (cols.zipIdx.filter fun p => p.1 != 0).map fun p => (p.2, p.1), pts := [], ntrap := 0 }
  fly.foldl (fun s1 p => s1.refly slot p) (s.setLaunch slot l1)

/-! ### Completion (R24, R342) -/

/-- A decrement of each successor of a node, in ascending order (R343). -/
def succDecs (w : BitVec 512) (idxs : List Nat) (ctx : Nat) (priv : BitVec 3) (lid : W64) (log : Option Nat) : List Dec :=
  let nsucc := bits w.toNat 8 8
  (idxs.filter fun i => i < nsucc).map fun i => ⟨bits w.toNat (64 * (2 + i)) 64, ctx, priv, 2, lid, log⟩

/-- Module number of the member of a rank (Table 18-3). -/
def Gang.modOf (g : Gang) (rank : Nat) : Nat := g.mods.getD rank 0

/-- Rank 0 holds a member's completion; with every member's it writes gdone with status 2 (R358). -/
def State.gangDone (s : State) (g : Gang) (member : Nat) : State :=
  let g1 := { g with completed := if g.completed.contains member then g.completed else g.completed ++ [member] }
  if (List.range g.nmem).all g1.completed.contains then
    let s1 := s.sendCompletion none g.ctx g.gdone g.lid 2
    { s1 with gangs := Assoc.erase g.gang s1.gangs }
  else { s with gangs := Tab.put g.gang g1 s.gangs }

/-- A gang member's launch has completed: rank 0 takes note, another member tells it (R358). -/
def State.leaveGang (s : State) (n : Nat) : State :=
  match Tab.get? n s.gangs with
  | none => s
  | some g =>
    if g.rank = 0 then s.gangDone { g with slot := none } 0
    else { s with gangs := Assoc.erase n s.gangs, outbox := s.outbox ++ [(.completion, n, g.modOf 0)] }

/-- A launch in a slot has completed: its completion word is written, its slot freed, and its node's successors decremented
(R24, R343); a gang member tells rank 0 (R358). While its word must wait, so do the slot and the rest. What a checkpointed launch
decrements is logged for it (R379). -/
def State.finishLaunch (s : State) (slot : Nat) : State :=
  match s.launch? slot with
  | none => s
  | some l =>
    match s.writeCompletion l slot 2 with
    | none => s.setLaunch slot { l with held := false, ending := true }
    | some s0 =>
      let s1 := s0.freeSlot slot
      let s2 := { s1 with graphQ := s1.graphQ ++ succDecs l.nodeW (List.range 6) l.tctx l.priv (BitVec.ofNat 64 (lidOf l.seq slot))
                            (if l.checkpointed then some slot else none) }
      match l.gang with
      | none => s2
      | some g => s2.leaveGang g

/-- A killed launch, or one whose points are all complete, ends where it can. -/
def State.settleSlot (s : State) (slot : Nat) : State :=
  match s.launch? slot with
  | none => s
  | some l => if l.dying.isSome then s.settleKill slot else if l.ending then s.finishLaunch slot else s

/-- Every completion word that waits is written where it can be. -/
def State.settleDone (s : State) : State :=
  s.doneWait.foldl (fun s1 w => s1.sendCompletion w.log w.ctx w.va w.lid w.status)
    ((List.range 64).foldl State.settleSlot { s with doneWait := [] })

/-- A launch whose points are all complete ends, or waits for a mark when it is checkpointed (R381). -/
def State.checkDone (s : State) (slot : Nat) : State :=
  match s.launch? slot with
  | none => s
  | some l =>
    if l.isList || !l.allDone || !l.pts.isEmpty then s
    else if l.checkpointed then s.setLaunch slot { l with held := true }
    else s.finishLaunch slot

/-! ### Acceptance (R345) -/

/-- The launch that a header describes. -/
def mkLaunch (hdrVA : Nat) (h : BitVec 1024) (seq node : Nat) (w : BitVec 512) (ctx : Nat) (priv : BitVec 3) : Launch :=
  { hdrVA := hdrVA, hdr := h, seq := seq, node := node, nodeW := w, nodeCtx := ctx, nodePriv := priv }

/-- A rejected launch: its record and its completion word with status 1 (R194). -/
def State.rejectLaunch (s : State) (l : Launch) (slot cond : Nat) : State :=
  let lid := lidOf l.seq slot
  (s.recRejected (l.hdrVA % 2 ^ 57) cond lid).sendCompletion none l.tctx l.done lid 1

/-- What the checks of steps 1 and 2 of R345 come to. -/
inductive Accept where
  /-- the header cannot be read (R344) -/
  | failed
  | rejected (s : State)
  | accepted (s : State) (l : Launch)

/-- Steps 1 and 2 of R345: the header is read, a seq assigned, the header checked. -/
def State.acceptLaunch (s : State) (hdrVA node : Nat) (w : BitVec 512) (ctx : Nat) (priv : BitVec 3) : Accept :=
  match s.readVA ctx hdrVA 128 with
  | none => .failed
  | some b =>
    let h : BitVec 1024 := BitVec.ofNat 1024 (ofBytes b)
    let seq := s.launchSeq + 1
    let s1 := { s with launchSeq := seq }
    let l := mkLaunch hdrVA h seq node w ctx priv
    let cond := checkHeader h priv
    if cond ≠ 0 then .rejected (s1.rejectLaunch l 0 cond)
    else match s1.tableImage l.tctx (hdrField h 7 0 64) 16384, s1.tableImage l.tctx (hdrField h 8 0 64) 256 with
      | some li, some ri =>
        .accepted s1 { l with layImg := li, ringImg := ri, codeAt := s1.codeFor ctx hdrVA, saved := !l.isList && s1.savedHere l }
      | _, _ => .rejected (s1.rejectLaunch l 0 12)

/-- The lowest free launch slot. -/
def State.freeSlotNum (s : State) : Option Nat := (List.range 64).find? fun n => (s.launch? n).isNone

/-- A launch takes a slot (R345, step 4; R432): its columns are 0, or its saved frontier is restored; a restore that fails
rejects it with condition 11 and frees the slot. The replay mode in force is its own (R395). -/
def State.startInSlot (s : State) (slot : Nat) (l : Launch) : State :=
  let l1 := { l with replay := s.ctl.replayMode }
  let s0 := if l1.replay != 0 && s.rlFirst.isNone then { s with rlFirst := some l.seq } else s
  if l1.saved then
    match s0.loadFrontier l1 with
    | none => s0.rejectLaunch l1 slot 11
    | some (l2, cols, fly) => (s0.putFrontier slot l2 cols fly).checkDone slot
  else (s0.setLaunch slot l1).checkDone slot

/-- A kernel node submits its launch (R345). Launches that wait in the ready-launch queue take the slots that free before it
(step 3, R308). -/
def State.submitLaunch (s : State) (node : Nat) (w : BitVec 512) (ctx : Nat) (priv : BitVec 3) (lid : W64) : State :=
  match s.acceptLaunch (bits w.toNat 64 64) node w ctx priv with
  | .failed => s.recRejected (node % 2 ^ 57) 0 lid.toNat
  | .rejected s1 => s1
  | .accepted s1 l => match (if s1.readyQ.isEmpty then s1.freeSlotNum else none) with
    | some slot => s1.startInSlot slot l
    | none => { s1 with readyQ := s1.readyQ ++ [l] }

/-! ### Nodes (R192, R343, R344) -/

/-- A node's words, where its VA is aligned and translates for reading and writing. -/
def State.nodeAt (s : State) (ctx va : Nat) : Option (BitVec 512) :=
  if va % 64 ≠ 0 || !s.mapped ctx va 64 .write then none
  else (s.readVA ctx va 64).map fun b => BitVec.ofNat 512 (ofBytes b)

def nodeKind (w : BitVec 512) : Nat := bits w.toNat 0 4
def nodePending (w : BitVec 512) : Nat := bits w.toNat 16 16
def nodeReload (w : BitVec 512) : Nat := bits w.toNat 32 16
def nodeNsucc (w : BitVec 512) : Nat := bits w.toNat 8 8

/-- A node's pending count written; none while the write must wait. -/
def State.setPending (s : State) (log : Option Nat) (ctx va n : Nat) : Option State :=
  s.writeVA log ctx (va + 2) (toBytes 2 n)

/-- A node whose count has reached zero acts by kind (R343): the state, and the decrements it makes; `log` is the slot for which its
writes are logged (R379). None while a write must wait. -/
def State.runNode (s : State) (log : Option Nat) (va : Nat) (w : BitVec 512) (d : Dec) : Option (State × List Dec) :=
  let failed := (s.recRejected (va % 2 ^ 57) 0 d.lid.toNat, ([] : List Dec))
  let succ (is : List Nat) : List Dec := succDecs w is d.ctx d.priv d.lid log
  let arg := bits w.toNat 64 64
  if nodeNsucc w > 6 then some failed
  else match nodeKind w with
    | 0 => some (s.submitLaunch va w d.ctx d.priv d.lid, [])
    | 1 => match s.wordVA d.ctx arg with
      | none => some failed
      | some v => some (s, succ [if v ≠ 0 then 0 else 1])
    | 2 => match s.wordVA d.ctx arg with
      | none => some failed
      | some v =>
        if v = 0 then some (s, succ [1])
        else if !s.mapped d.ctx arg 8 .write then some failed
        else (s.writeVA log d.ctx arg (toBytes 8 (v - 1))).map fun s' => (s', succ [0])
    | 3 => match s.wordVA d.ctx arg with
      | none => some failed
      | some v => some (s, if nodeNsucc w = 0 then [] else succ [if v < nodeNsucc w then v else nodeNsucc w - 1])
    | 4 => some (s, succ (List.range 6))
    | 5 => some (s.raise (arg % 2048), succ (List.range 6))
    | _ => some failed

/-- One decrement (R192, R341, R342): none while the executor must wait, for the ready-launch queue (R308), for the undo log (R379), or for
a page that migrates or a link (R235, R406). -/
def State.applyDec (s : State) (d : Dec) : Option (State × List Dec) :=
  match s.nodeAt d.ctx d.node with
  | none => some (s.recRejected (d.node % 2 ^ 57) 0 d.lid.toNat, [])
  | some w =>
    if nodeKind w > 5 then some (s.recRejected (d.node % 2 ^ 57) 0 d.lid.toNat, [])
    else if nodePending w = 0 then
      some (s.recStray (d.node % 2 ^ 57) (if d.src = 0 then 2 ^ 63 + d.ctx else 0) d.lid.toNat, [])
    else
      let zero := nodePending w == 1
      if zero && nodeKind w == 0 && (s.freeSlotNum.isNone || !s.readyQ.isEmpty) && s.readyQ.length ≥ Config.readyCap then none
      else
        (s.setPending d.log d.ctx d.node (if zero then nodeReload w else nodePending w - 1)).bind fun s' =>
          if zero then s'.runNode d.log d.node w d else some (s', [])

/-- Launches run: not while the wipe runs, and not in the life-cycle states that have none (R238, Table 21-5). -/
def State.runsLaunches (s : State) : Bool := !s.wiping && (s.ctl.lcState == 1 || s.ctl.lcState == 2)

/-- The executor works on its decrements, then on the submission queue; n bounds the decrements of one step, and the rest
stay queued. -/
def State.runGraph (s : State) : (n : Nat) → State
  | 0 => s
  | n + 1 =>
    match s.graphQ with
    | d :: ds => match s.applyDec d with
      | some (s', more) =>
        State.runGraph { s' with graphQ := ds ++ (s'.graphQ.drop (ds.length + 1)) ++ more } n
      | none => s
    | [] => match s.subQ with
      | [] => s
      | (node, ctx) :: q => if !s.runsLaunches then s else State.runGraph { s with subQ := q, graphQ := [⟨node, ctx, 7, 0, 0, none⟩] } n

/-- Decrements the executor makes in one step at most (log 1). -/
def graphSteps : Nat := 64

end Sys2Proof.Machine
end

