-- ==== Sys2Proof/Machine/Place.lean ====
section
/-! DEFINITION. Placing points on tiles (R10, R19-R21, R347-R355, R385): what a launch can place, whose turn a tile is, what
pre-emption makes room, and the state a point starts with. -/

namespace Sys2Proof.Machine

/-! ### What a launch can place -/

/-- Ready (R347). -/
def Launch.ready (l : Launch) (col z : Nat) : Bool :=
  let e := l.col col
  z < l.extz && colH e ≤ z && z ≤ colH e + 7 && !colF e (z - colH e) &&
    (List.range l.ndep).all fun i =>
      match predOfPoint l col z i with
      | none => true
      | some (c, y) => l.pointDone c y

/-- The lowest point of a column's window that has not fired (R348). -/
def Launch.candidate (l : Launch) (col : Nat) : Option Nat :=
  let e := l.col col
  ((List.range 8).find? fun j => !colF e j).map fun j => colH e + j

/-- The ready point of some columns that comes first, by least z and then least column (R348). -/
def Launch.firstIn (l : Launch) (cols : List Nat) : Option (Nat × Nat) :=
  cols.foldl (fun best c =>
    match l.candidate c with
    | none => best
    | some z =>
      if !l.ready c z then best
      else match best with
        | some (bc, bz) => if z < bz || (z == bz && c < bc) then some (c, z) else some (bc, bz)
        | none => some (c, z)) none

/-- The columns that the frontier engine evaluates in the w-th fire interval from a column on: 64, wrapping after the last. -/
def Launch.window (l : Launch) (start w : Nat) : List Nat :=
  (List.range (min 64 (l.ncol - 64 * w))).map fun i => (start + 64 * w + i) % l.ncol

/-- The ready point that a fire takes (R348): with 64 columns or fewer the first of the whole launch; with more, the first among those
found since the previous fire, wherever the engine then stands (R16, log 17). -/
def Launch.nextPoint (l : Launch) (start : Nat) : Option (Nat × Nat) :=
  (List.range (ceilDiv l.ncol 64)).findSome? fun w => l.firstIn (l.window start w)

/-- A parked point of the launch. -/
def Launch.hasParked (l : Launch) : Bool := l.pts.any fun p => match p.place with | .parked _ => true | _ => false

/-- A point whose frontier was saved before it started: it is fired again first (R351). -/
def Launch.refirePoint (l : Launch) : Option LPoint := l.pts.find? fun p => p.place == .refire

/-- The ready point with a POINT_ID, where it is the next of its column. -/
def Launch.pointOf (l : Launch) (id : Nat) : Option (Nat × Nat) :=
  let axis (r : Nat) : Nat := match fieldOfRole l.hdr r with
    | some i => bits id (fieldPos l.hdr i) (fieldWidth l.hdr i)
    | none => 0
  let c := axis 1 + l.ext0 * axis 2
  if axis 1 < l.ext0 && c < l.ncol && l.candidate c == some (axis 3) && l.ready c (axis 3) && (widOf l c (axis 3)).toNat == id then
    some (c, axis 3)
  else none

/-- The point a fire takes: one to be fired again, else the next ready one where fewer than maxt points run and none is parked
(R351, R355); in replay the one that the log has next (R397). -/
def State.firePoint (s : State) (l : Launch) (start : Nat) : Option (Nat × Nat) :=
  match l.refirePoint with
  | some p => some (p.col, p.z)
  | none =>
    if l.hasParked || l.pts.length ≥ l.maxt then none
    else if l.replay == 2 then (s.placeNext l).bind l.pointOf
    else l.nextPoint start

/-- A launch that may be given tiles. -/
def Launch.live (l : Launch) : Bool := l.state == 1 && !l.held && !l.reserved

/-- It can use a tile (R353); in replay a launch whose placement is not next in the log can use none (R397). -/
def State.canUse (s : State) (l : Launch) : Bool :=
  l.live && (l.hasParked || if l.isList then !l.started && (l.replay != 2 || (s.placeNext l).isSome) else (s.firePoint l 0).isSome)

/-- Slots in the round-robin order of R353, beginning after the one served last. -/
def State.slotOrder (s : State) : List Nat := (List.range 64).map fun i => (s.lastServed + 1 + i) % 64

/-- Tiles free for the launch in a slot (R20), in ascending number. -/
def State.freeTiles (s : State) (slot : Nat) : List Nat := (List.range Config.numTiles).filter (s.isFree slot)

/-- Tiles a launch needs at once: mint for a list launch, and for a frontier launch's first point (R314, R355). -/
def Launch.needTiles (l : Launch) : Nat :=
  if l.isList && !l.started then l.mint
  else if !l.isList && l.pts.isEmpty && l.cols.isEmpty then l.mint else 1

/-- The launch in a slot can use a tile that becomes free, one that waits for several too (R353). -/
def State.canServe (s : State) (slot : Nat) : Bool :=
  match s.launch? slot with
  | some l => s.canUse l
  | none => false

/-- The slot a tile goes to: highest priority, then round-robin (R353). -/
def State.nextSlot (s : State) : Option Nat :=
  let can := s.slotOrder.filter s.canServe
  let prio (n : Nat) : Nat := match s.launch? n with | some l => l.prio | none => 0
  can.foldl (fun best n => match best with
    | none => some n
    | some b => if prio n > prio b then some n else some b) none

/-! ### Pre-emption (R354, R369) -/

/-- The stopping generation of a pre-emption (R369). -/
def Tile.preemptGen (x : Tile) : Int :=
  match x.records with
  | [] => 0
  | (id, n) :: _ => x.secs.foldl (fun m c => min m (c.relGen id)) (n : Int)

/-- A tile's point is asked to stop (R368); one that stops already stays as it is. -/
def Tile.askStop (x : Tile) (why : StopWhy) : Tile :=
  match x.stop with
  | some _ => x
  | none => { x with stop := some { why := why, trapped := false, eng := none, gen := x.preemptGen, inst := x.inner } }

/-- The tile's point has started. -/
def Tile.runsPoint (x : Tile) : Bool := match x.point with | some p => p.started | none => false

/-- Why a tile's point stops. -/
def Tile.stopsFor (x : Tile) (why : StopWhy) : Bool := match x.stop with | some st => st.why == why | none => false

/-- The tile's point stops to enter the parked-point queue: for a pre-emption, or with its whole launch. -/
def Tile.parking (x : Tile) : Bool := x.stopsFor .preempt || x.stopsFor .park

/-- A running point, started or only fired (R355), that may be pre-empted by priority p: tile, priority, whether its launch holds more than mint tiles, its
slot, and the number of its placement. -/
structure Victim where
  tile : Nat
  prio : Nat
  spare : Bool
  slot : Nat
  ord : Nat
  deriving DecidableEq, Repr

/-- The points a launch of priority p may pre-empt (R354). A launch holds the tiles it has not been asked to give up. -/
def State.victims (s : State) (p : Nat) : List Victim :=
  s.launches.flatMap fun (slot, l) =>
    if l.ctxVA = 0 || l.prio ≥ p then []
    else
      let ts := l.pts.filterMap fun q => match q.place with
        | .onTile t => if (s.tile t).parking then none else some (t, q.ord)
        | _ => none
      (ts.filter fun p => (s.tile p.1).stop.isNone && !(s.tile p.1).quenched).map fun (t, ord) =>
        ⟨t, l.prio, decide (ts.length > l.mint), slot, ord⟩

/-- Tiles whose points are to be parked. -/
def State.stopping (s : State) : List Nat := (s.tiles.filter fun p => p.2.parking).map fun p => p.1

/-- The victims chosen: one point, or a whole launch (R354). -/
def chooseVictims (vs : List Victim) : List Nat :=
  let low := vs.foldl (fun m v => min m v.prio) 8
  let at_ := vs.filter fun v => v.prio == low
  let newest (l : List Victim) : Option Victim := l.foldl (fun b v => match b with
    | none => some v
    | some u => if v.ord > u.ord then some v else some u) none
  match newest (at_.filter fun v => v.spare) with
  | some v => [v.tile]
  | none => match newest at_ with
    | some v => (at_.filter fun u => u.slot == v.slot).map fun u => u.tile
    | none => []

/-- Points are stopped to make room for a launch that finds fewer free tiles than the `need` it has (R354); not where the
parked-point queue would be overfilled. -/
def State.makeRoom (s : State) (slot : Nat) (l : Launch) (need : Nat) : State :=
  if (s.freeTiles slot).length + s.stopping.length ≥ need then s
  else
    let ts := chooseVictims (s.victims l.prio)
    if s.parkedQ.length + s.stopping.length + ts.length > Config.parkedCap then s
    else ts.foldl (fun s1 t => s1.setTile t ((s1.tile t).askStop .preempt)) s

/-! ### The state a point starts with (R19, R21, R85, R86, R92, R93) -/

/-- A layout table from its image (Table 10-2). -/
def layTable (img : List Byte) : List (Nat × BitVec 512) :=
  (List.range 256).foldl (fun l k => Assoc.set 0 k (BitVec.ofNat 512 (layMask (ofBytes ((img.drop (64 * k)).take 64)))) l) []

/-- The reserved bits of a ring configuration word read 0. -/
def ringMask (r : Nat) : Nat := bits r 0 32 + bits r 64 64 * 2 ^ 64

/-- A ring table from its image: the configuration words, every state word 0 (R185, Table 10-3). -/
def ringTable (img : List Byte) : List (Nat × BitVec 128) :=
  (List.range 16).foldl (fun l k => Assoc.set 0 k (BitVec.ofNat 128 (ofBytes ((img.drop (16 * k)).take 4))) l) []

/-- The pending releases that a ring table's pend bits stand for: each completes once every section before number q has retired
(R190). -/
def pendsOf (rings : List (Nat × BitVec 128)) (q xq : Nat) : List (Nat × Nat × Nat × Nat × Nat) :=
  rings.flatMap fun (b, r) => ((List.range 16).filter (ringPend r.toNat)).map fun i =>
    (b, i, (if ringSt r.toNat i = 3 then 1 else 0), q, xq)

/-- Code row r of a launch as its segment in memory holds it now (R84, R85); free bytes where its header points at no segment, or at
one that does not translate, of which the spec says nothing (log 5). -/
def State.codeRowOf (s : State) (l : Launch) (r : Nat) : List Byte :=
  let free := (List.range 256).map fun i => Config.codeByte s.fresh (256 * r + i)
  match l.codeAt with
  | none => free
  | some (ctx, va) => (s.readVA ctx (va + 256 * r) 256).getD free

/-- The code rows of a launch copied into a scratchpad (R85). -/
def State.installCode (s : State) (l : Launch) (sp : List Host.Cell) : List Host.Cell :=
  let a := hdrField l.hdr 4 20 14
  let n := hdrField l.hdr 4 34 14
  (List.range n).foldl (fun m r => Memory.writeN m (256 * (a + r)) (s.codeRowOf l r)) sp

/-- The debug registers of a point: the control-space copies with PRIV.debug, else 0 (R385). -/
def State.debugInit (s : State) (priv : BitVec 3) : List (Nat × W64) :=
  if priv.getLsbD 1 then
    (List.range 9).foldl (fun l i => Assoc.set 0 i (Assoc.get 0 i s.ctl.dbgInit &&& dbgMask i) l) []
  else []

/-- The scratchpad that a point of a launch finds on tile x (R21, R85): rows of another context's point read as zero; a tile that has
run no point has what the wipe and the hosts left (log 65). -/
def State.startRows (s : State) (x : Tile) (l : Launch) : List Host.Cell :=
  let kept := if x.lastCtx.isNone || x.lastCtx == some l.tctx then x.sp else []
  if x.codeOf == some l.seq && x.lastCtx == some l.tctx then kept else s.installCode l kept

/-- Point start (R19): the tile's whole state; a list launch's work list stands as it has been since the launch started (R313). -/
def State.startPoint (s : State) (t : Nat) (p : Point) (l : Launch) : Tile :=
  let x := s.tile t
  let bound := boundOf l p.col p.z
  let seed := hdrField l.hdr 11 0 32
  { point := some { p with started := true }
    c := 1#8 ||| (bound.zeroExtend 8 <<< 4)
    lg := seedGens seed
    seed := BitVec.ofNat 32 seed
    priv := l.priv
    bound := bound
    launchId := BitVec.ofNat 64 (lidOf l.seq p.slot)
    pointId := widOf l p.col p.z
    dbg := s.debugInit l.priv
    pc := BitVec.ofNat 20 (hdrField l.hdr 4 0 20)
    layout := layTable l.layImg
    rings := ringTable l.ringImg
    sp := s.startRows x l
    perfSel := s.ctl.perfCtl
    codeOf := some l.seq
    lastCtx := some l.tctx
    wlCount := if l.isList then x.wlCount else 0
    wlHead := if l.isList then x.wlHead else 0
    wlDone := l.isList && x.wlDone
    wlGone := l.isList && x.wlGone
    stop := if l.isList then x.stop else none }

/-- The tile of a point just placed. A list launch's lists are set to 0 at its start, and take items from then on, so its rows are
set up with them (R313, R314); a frontier launch's at POINT_START. -/
def State.placeTile (s : State) (t : Nat) (p : Point) (l : Launch) : Tile :=
  let x := s.tile t
  if l.isList then
    { x with
      point := some p, wlCount := 0, wlHead := 0, wlDone := false, wlGone := false
      sp := s.startRows x l, codeOf := some l.seq, lastCtx := some l.tctx }
  else { x with point := some p }

end Sys2Proof.Machine
end

