-- ==== Sys2Proof/Machine/LaunchEvents.lean ====
section
/-! DEFINITION. LAUNCH (R191, R381) and the launch processor's events: slots, fires, starts and completions of points (R19, R23,
R24, R314, R345, R348, R349), the clearing and the work-list deadlock (R317-R321). -/

namespace Sys2Proof.Machine

/-! ### LAUNCH -/

/-- TRAP_DATA of a launch fault of LAUNCH (R191). -/
def launchData (v : W64) (case : Nat) : Nat := v.toNat / 64 * 64 + case

/-- The decrement of LAUNCH and what the executor does with it (R191). -/
def State.launchDec (s : State) (d : Dec) : State :=
  match s.applyDec d with
  | some (s1, more) => { s1 with graphQ := s1.graphQ ++ more }.runGraph graphSteps
  | none => s

/-- LAUNCH (R191): it drains, its faults leave the node unchanged, and a checkpointed launch's waits for a mark (R381). It
resolves an input of replay (R396). -/
def execLaunch (g : Guard) (f : FmtT) (s : State) : Res :=
  sWord s g fun x => x.gateG s [tA f] []
    (let t := s.issue.tile
     let v := x.readG f.ga.toNat
     let d : Dec := ⟨v.toNat, x.tctx, x.priv, 1, x.launchId, s.logOf (x.launchId.toNat % 64)⟩
     if !x.settled then .wait s 7
     else match s.nodeAt x.tctx v.toNat with
       | none => .trap s 0x10 (launchData v 1)
       | some w =>
         if nodeKind w > 5 then .trap s 0x10 (launchData v 2)
         else if nodePending w = 0 then .trap s 0x10 (launchData v 3)
         else if (s.logOf (match x.point with | some p => p.slot | none => 64)).isSome && x.markWait != 2 then
           .wait { s.setTile t { x with markWait := 1 } with markAsked := true } 7
         else if (s.applyDec d).isNone then .wait s 7
         else .input (s.setTile t { x with markWait := 0 }) 5 0 7 fun _ s1 => (s1.moduleDone t).launchDec d)

/-! ### Slots -/

/-- The launch of the ready queue that takes a free slot: highest priority, then oldest (R308). -/
def pickReady : List Launch → Option Launch
  | [] => none
  | l :: ls => match pickReady ls with
    | none => some l
    | some m => if m.prio > l.prio then some m else some l

/-- LAUNCH_SLOT_FREE (R345). -/
def execLaunchSlotFree (slot : Nat) (s : State) : Res :=
  if s.wiping || slot ≥ 64 || (s.launch? slot).isSome then .next s
  else match pickReady s.readyQ with
    | none => .next s
    | some l =>
      .next (({ s with readyQ := s.readyQ.filter fun m => m.seq != l.seq }.startInSlot slot l).runGraph graphSteps)

/-! ### Fires (R348, R349) -/

/-- The identity of a point in the replay log (R396). -/
def Launch.logId (l : Launch) (p : Point) : Nat := if l.isList then p.home else (widOf l p.col p.z).toNat

/-- The replay log's entry of a placement (kind 4): none where it is not next or the log is full. -/
def State.logPlace (s : State) (l : Launch) (p : Point) : Option State :=
  s.logEvent l.replay [4 * 2 ^ 56 + s.ordinal l.seq % 2 ^ 48, 0, l.logId p, 0]

/-- A point put on a free tile; its start follows (R19). -/
def State.placePoint (s : State) (slot : Nat) (l : Launch) (t : Nat) (p : Point) (pts : List LPoint) : State :=
  let l1 := { l with pts := pts ++ [{ col := p.col, z := p.z, home := p.home, place := .onTile t, ord := s.placed }], resTiles := [] }
  let s1 := (s.setLaunch slot l1).setTile t (s.placeTile t p l)
  { s1 with placed := s.placed + 1, lastServed := slot, fresh := s.fresh + 1 }

/-- A fire of a launch onto a free tile (R348, R349). A point that is fired again after a save is in the replay log already (R396, R398). -/
def State.fire (s : State) (slot : Nat) (l : Launch) (t : Nat) : State :=
  match s.firePoint l (Config.freeWord s.fresh).toNat with
  | none => s
  | some (c, z) =>
    let p : Point := { slot := slot, hdr := l.hdr, col := c, z := z, home := 0, started := false }
    match (if l.refirePoint.any fun r => r.perf.isSome then some s else s.logPlace l p) with
    | none => { s with fresh := s.fresh + 1 }
    | some s1 =>
      let l1 := l.setCol c (l.col c ||| BitVec.ofNat 64 (2 ^ (24 + (z - colH (l.col c)))))
      let rest := match l.refirePoint with
        | some r => l1.pts.erase r
        | none => l1.pts
      s1.placePoint slot l1 t p rest

/-- POINT_FIRE (R348, R353-R355): the launch whose turn it is places a point on a free tile; where too few are free, points of
lower priority are asked to stop. -/
def execPointFire (slot tile : Nat) (s : State) : Res :=
  match s.launch? slot with
  | none => .next s
  | some l =>
    if s.wiping || l.isList || !l.live || (s.firePoint l 0).isNone then .next s
    else if (s.freeTiles slot).length < l.needTiles then .next (s.makeRoom slot l l.needTiles)
    else if s.nextSlot = some slot && s.isFree slot tile then .next (s.fire slot l tile)
    else .next s

/-- Every tile of a list given a point of a list launch, its home number the tile's own (R314); in replay the number that the log has, by
which the recorded run knew the point (R397, R398, log 15). -/
def State.placeList (s : State) (slot : Nat) : List Nat → Option State
  | [] => some s
  | t :: ts =>
    match s.launch? slot with
    | none => none
    | some l =>
      let home := if l.replay == 2 then (s.placeNext l).getD t else t
      let p : Point := { slot := slot, hdr := l.hdr, col := 0, z := 0, home := home, started := false }
      match s.logPlace l p with
      | none => none
      | some s1 => State.placeList (s1.placePoint slot l t p l.pts) slot ts

/-- The tiles that a list launch starts on: min(maxt, free) (R314); in replay as many as the log has (R397, R398). -/
def State.listTiles (s : State) (slot : Nat) (l : Launch) : Nat :=
  if l.replay == 2 then s.placeRun l l.maxt s.rlNext else min l.maxt (s.freeTiles slot).length

/-- LIST_LAUNCH_START (R314): one point on each of its tiles, all before any executes a word. -/
def execListLaunchStart (slot : Nat) (tiles : List Nat) (s : State) : Res :=
  match s.launch? slot with
  | none => .next s
  | some l =>
    if s.wiping || !l.isList || l.started || !l.live then .next s
    else if (s.freeTiles slot).length < l.mint then .next (s.makeRoom slot l l.needTiles)
    else if s.nextSlot = some slot && tiles.length = s.listTiles slot l && tiles.all (s.isFree slot) && tiles.Nodup then
      match s.placeList slot tiles with
      | none => .next s
      | some s1 => match s1.launch? slot with
        | some l1 => .next (s1.setLaunch slot { l1 with started := true })
        | none => .next s1
    else .next s

/-- A list launch's other points are placed before any executes a word (R314); a mark that waits for its gang lets no point of a
checkpointed launch start (R380, R383). -/
def State.mayStart (s : State) (p : Point) : Bool :=
  match s.launch? p.slot with
  | some l => (!l.isList || l.started) && !(s.markPhase == 2 && l.checkpointed)
  | none => false

/-- POINT_START (R19): the placed point's tile is set up. -/
def execPointStart (tile : Nat) (s : State) : Res :=
  match (s.tile tile).point with
  | none => .next s
  | some p =>
    if p.started || !s.mayStart p || (s.tile tile).quenched || ((s.tile tile).stop.isSome && !(s.tile tile).isList) then .next s
    else match s.launch? p.slot with
      | none => .next s
      | some l => .next { s.setTile tile (s.startPoint tile p l) with fresh := s.fresh + 1 }

/-! ### Completion (R23, R24, R317, R349) -/

/-- A column's height advanced over the points that are done: at most seven, the window's rest. -/
def advanceGo : (n : Nat) → (h d : Nat) → Nat × Nat
  | 0, h, d => (h, d)
  | n + 1, h, d => if d % 2 = 1 then advanceGo n (h + 1) (d / 2) else (h, d)

/-- A point's completion recorded in its column (R349). -/
def recordDone (e : BitVec 64) (z : Nat) : BitVec 64 :=
  let h := colH e
  let f := bits e.toNat 24 8
  let d := bits e.toNat 32 7
  if z = h then
    let (h', d') := advanceGo 7 (h + 1) d
    let k := h' - h
    -- after the loop, d' has dropped the bits it passed; the bit of the new height itself is clear and leaves the window
    BitVec.ofNat 64 (h' % 2 ^ 24 + f / 2 ^ k * 2 ^ 24 + d' / 2 * 2 ^ 32)
  else BitVec.ofNat 64 (h + f * 2 ^ 24 + (d ||| 2 ^ (z - h - 1)) * 2 ^ 32)

/-- A launch without the point on a tile. -/
def Launch.dropTile (l : Launch) (t : Nat) : Launch := { l with pts := l.pts.filter fun p => p.place != .onTile t }

/-- A point of a launch has completed on tile t (R24, R317, R349). -/
def State.donePoint (s : State) (t : Nat) (p : Point) : State :=
  match s.launch? p.slot with
  | none => s.setTile t (s.tile t).vacate
  | some l =>
    let x := s.tile t
    if l.isList then
      let l1 := { l.dropTile t with cntC := l.cntC + x.wlCount }
      let s1 := (s.setTile t { x.vacate with wlCount := 0, wlGone := true }).setLaunch p.slot l1
      if l1.pts.isEmpty then
        (if l1.checkpointed then s1.setLaunch p.slot { l1 with held := true } else s1.finishLaunch p.slot)
      else s1
    else
      let l1 := (l.dropTile t).setCol p.col (recordDone (l.col p.col) p.z)
      ((s.setTile t x.vacate).setLaunch p.slot l1).checkDone p.slot

/-- A point's work is drained at module scope (R23), and is in what the completion of its launch releases to the hosts (R24, R299). -/
def State.haltDone (s : State) (t : Nat) (p : Point) : State :=
  let s1 := s.moduleDone t
  match s.launch? p.slot with
  | none => s1
  | some l => s1.releaseHost (doneSem l.seq) fun m => m.party == ordParty t || m.party == chanParty t

/-- POINT_COMPLETE (R23): after HALT, once everything the point issued has retired. Its last chunk closes (R396). -/
def execPointComplete (tile : Nat) (s : State) : Res :=
  let x := s.tile tile
  match x.point with
  | none => .next s
  | some p =>
    if !p.started || !x.halted || !x.settled || x.stop.isSome || x.quenched then .next s
    else match s.chunkEnd tile true 0 x.chunk 0 with
      | .done s1 _ => .next (((s1.haltDone tile p).donePoint tile p).runGraph graphSteps)
      | .hold => .next s
      | .diverged s1 => .next s1

/-! ### The clearing (R318-R320) -/

/-- The X word is an XAPND that is not void. -/
def FwdWord.isAppend (w : FwdWord) : Bool :=
  bits w.slot.toNat 93 3 == 5 && bits w.slot.toNat 86 7 == 9 && guardCap w.cap (Guard.ofSlot w.slot)

/-- Where an XAPND of a tile appends to (R259, R314, R320). -/
inductive Append where
  /-- the list of a tile's point -/
  | tile (u : Nat)
  /-- the point is parked or trapped: the append is held -/
  | away
  /-- no such point -/
  | nobody
  deriving DecidableEq, Repr

/-- The target of an XAPND of tile t: its own list, the point of a home number in its list launch, wherever that point is now, or
the peer tile's (R259, R314). -/
def State.appendTo (s : State) (t : Nat) (w : FwdWord) : Append :=
  let dl := w.cap.dl.toNat
  if laySpace dl = 0 then .tile t
  else if !(s.tile t).isList then .tile (layPeer dl)
  else match s.launchOf t with
    | none => .nobody
    | some l => match l.pts.find? fun p => p.home == layPeer dl with
      | none => .nobody
      | some p => match p.place with
        | .onTile u => .tile u
        | _ => .away

/-- The slot of the launch an XAPND of tile t appends to. -/
def State.appendSlot (s : State) (t : Nat) (w : FwdWord) : Option Nat :=
  if (s.tile t).isList then (s.tile t).point.map fun p => p.slot
  else match s.appendTo t w with
    | .tile u => (s.tile u).point.map fun p => p.slot
    | _ => none

/-- Items of a tile's point for a launch slot that have not been written: of XAPNDs forwarded and not accepted, or accepted with
elements left (R318, log 19). -/
def State.appendsOpen (s : State) (t slot : Nat) : Nat :=
  let x := s.tile t
  let mine (w : FwdWord) : Bool := w.isAppend && s.appendSlot t w == some slot
  let cmds := x.chan.filter fun c => mine c.word && !c.done
  let words := x.secs.flatMap fun c => if c.eng == .X then (c.words.drop c.idx).filter mine else []
  ((cmds.map fun c => if c.accepted then c.count - c.e else (c.word.cap.vals.getD 4 0).toNat) ++
    words.map fun w => (w.cap.vals.getD 4 0).toNat).foldl (· + ·) 0

/-- Items in flight to a launch (R318): of the channels, and of points that are parked or trapped with their commands. -/
def State.inFlight (s : State) (slot : Nat) : Nat :=
  (s.tiles.map fun p => s.appendsOpen p.1 slot).foldl (· + ·) 0 +
    (s.launches.flatMap fun l => l.2.pts.map fun p => Assoc.get 0 slot p.apps).foldl (· + ·) 0

/-- A point is quiet (R318, R320). -/
def State.quiet (s : State) (p : LPoint) : Bool :=
  match p.place with
  | .onTile t => (s.tile t).waitWhy .S == 6 && (s.tile t).wlCount == 0
  | .parked _ => p.wpop
  | _ => false

/-- CLEARING (R318): done is set in every list of the launch. -/
def execClearing (slot : Nat) (s : State) : Res :=
  match s.launch? slot with
  | none => .next s
  | some l =>
    if l.isList && l.started && !l.cleared && l.cntA = l.cntC && s.inFlight slot = 0 && l.pts.all s.quiet then
      let s1 := (s.tilesOf slot).foldl (fun s0 t => s0.setTile t { s0.tile t with wlDone := true }) s
      .next (s1.setLaunch slot { l with cleared := true })
    else .next s

/-! ### The work-list deadlock (R321) -/

/-- The tile's channel is held by an XAPND to a full list: no older command holds it, suspended or at a page that migrates (R229, R234,
R309). -/
def State.heldByAppend (s : State) (t : Nat) : Bool :=
  ((s.tile t).chan.takeWhile fun c => c.susp.isNone && c.stalled.isNone).any fun c =>
    c.word.isAppend && c.accepted && !c.done && c.e < c.count &&
      match s.appendTo t c.word with
      | .tile u => (s.tile u).wlCount ≥ (s.tile u).wlCap
      | _ => false

/-- A point that waits as R321 has it; a parked or trapped one does not count. -/
def State.deadWait (s : State) (p : LPoint) : Bool :=
  match p.place with
  | .onTile t =>
    let x := s.tile t
    x.stop.isNone && ((x.waitWhy .S == 6 && x.wlCount == 0) || (x.waitWhy .S != 0 && s.heldByAppend t))
  | _ => false

/-- Every point of a list launch waits as R321 has it. -/
def State.deadlocked (s : State) (l : Launch) : Bool :=
  l.isList && l.started && !l.cleared && !l.pts.isEmpty && l.pts.all s.deadWait

/-- The number of the section of the slot the S engine stands at: its own section's, or that of the header there. -/
def Tile.standsIn (x : Tile) : Nat :=
  if x.sIn then x.sNum
  else match decodeHeader (x.standing.getD (x.slotAt x.pc.toNat)) with
    | .ok h => h.num.toNat
    | .error _ => 0

/-- The word or header the S engine of a tile stands at. -/
def Tile.issueS (x : Tile) (t : Nat) : Issue :=
  { tile := t, eng := .S, addr := x.pc.toNat, num := x.standsIn, tag := x.tagNow, seq := x.nowSeq }

/-- The wait-log entries of a tile, oldest first (R331). -/
def Tile.waitEntries (x : Tile) : List Nat :=
  let next := x.waitHead.toNat % 64
  let first := if bit x.waitHead.toNat 6 then next else 0
  (List.range 64).map fun i => (Assoc.get 0 ((first + i) % 64) x.waitLog).toNat

/-- A point's part of the snapshot of R334: its block (log 22) and its wait log. -/
def Tile.snapBlock (x : Tile) (t : Nat) : List Byte :=
  let w := match x.waiters with
    | w :: _ => [w.start.toNat, w.sem * 2 ^ 24 + w.eng.code * 2 ^ 21, w.n]
    | [] => [0, 0, 0]
  toBytes 8 t ++ w.flatMap (toBytes 8) ++ List.replicate 32 0 ++ x.waitEntries.flatMap (toBytes 16)

/-- The wait-for graph snapshot (R334). -/
def State.snapshot (s : State) (ts : List Nat) : List Byte :=
  toBytes 8 0x47575848 ++ toBytes 8 ts.length ++ toBytes 8 s.scyc.toNat ++ List.replicate 40 0 ++
    ts.flatMap fun t => (s.tile t).snapBlock t

/-- Several records lost at once. -/
def State.dropTrace (s : State) (n : Nat) : State :=
  { s with tr := { s.tr with ovf := s.tr.ovf || n != 0, drop := BitVec.ofNat 32 (min (s.tr.drop.toNat + n) (2 ^ 32 - 1)) } }

/-- A snapshot as kind 6 trace records, whole or not at all; the address of the first, or 0. What is not written is counted as
dropped (R388). -/
def State.traceSnapshot (s : State) (bs : List Byte) : State × Nat :=
  let n := bs.length / 16
  if s.tr.free < n || !s.tr.en then (s.dropTrace n, 0)
  else
    let a := s.tr.slotPA 32 s.tr.tail.toNat
    ((List.range n).foldl (fun s1 i =>
      s1.trace 6 0 (i % 2 ^ 16) (ofBytes ((bs.drop (16 * i)).take 8)) (ofBytes ((bs.drop (16 * i + 8)).take 8))) s, a)

/-- Cycles without progress before the deadlock fault (R321). -/
def deadlockCycles : Nat := 2 ^ 20

/-- WORK_LIST_DEADLOCK (R321): the snapshot, one kind 10 record, and a trap of every waiting point; in a launch without a context area
the first of them kills the launch, and no point is left (R365). -/
def execWorkListDeadlock (slot : Nat) (s : State) : Res :=
  match s.launch? slot with
  | none => .next s
  | some l =>
    if l.idle ≥ deadlockCycles && s.deadlocked l then
      let ts := s.tilesOf slot
      let (s1, a) := s.traceSnapshot (s.snapshot ts)
      let s2 := s1.faultRecord 10 ts.length (a % 2 ^ 57) (lidOf l.seq slot)
      .next (ts.foldl (fun s0 t =>
        let x := s0.tile t
        if x.point.isNone then s0 else s0.takeTrap (x.issueS t) false 0x0F (x.wlCount + ofBool (s.heldByAppend t) * 2 ^ 17)) s2)
    else .next s

end Sys2Proof.Machine
end

