-- ==== Sys2Proof/Machine/XWords.lean ====
section
/-! DEFINITION. The X words (R240-R246, R263): each enters its tile's transfer channel, where the events of Channel perform it,
and what a command's fields say. -/

namespace Sys2Proof.Machine

/-- The command slot of the q-th X word of a point: the first from number q on, in turn, that no command of the channel holds (R230,
Table 22-4, log 64). -/
def Tile.freeCslot (x : Tile) (q : Nat) : Nat :=
  ((List.range Config.chanCap).map fun i => (q + i) % Config.chanCap).find? (fun n => !x.chan.any fun c => c.cslot == n) |>.getD 0

/-- The command that an X word becomes, with its captures (R242). -/
def xCommand (s : State) (slot : Slot) (g : Guard) : Command :=
  { cslot := (s.tile s.issue.tile).freeCslot s.issue.cap.q, word := ⟨slot, s.issue.addr, s.issue.cap⟩, num := s.issue.num, tag := s.issue.tag,
    seq := s.issue.seq, void := !guardCap s.issue.cap g }

/-- An X word enters the channel behind the words before it, void or not; a full channel holds the X engine (R242, R246). -/
def xIntake (s : State) (slot : Slot) (g : Guard) : Res :=
  let x := s.tile s.issue.tile
  finish s (if x.chan.length < Config.chanCap then
      .retire (s.putTile { x with chan := x.chan ++ [xCommand s slot g] })
    else .wait s 8)

/-- XCOPY enters the channel (R242); the channel performs it as R251 give. -/
def execXcopy (g : Guard) (f : FmtXC) (s : State) : Res := xIntake s (wordOf 5 0x01 g f.toBits) g
/-- XGATH enters the channel (R242); the channel performs it as R252 give. -/
def execXgath (g : Guard) (f : FmtXC) (s : State) : Res := xIntake s (wordOf 5 0x02 g f.toBits) g
/-- XSCAT enters the channel (R242); the channel performs it as R252 give. -/
def execXscat (g : Guard) (f : FmtXC) (s : State) : Res := xIntake s (wordOf 5 0x03 g f.toBits) g
/-- XTRAN enters the channel (R242); the channel performs it as R253 give. -/
def execXtran (g : Guard) (f : FmtXC) (s : State) : Res := xIntake s (wordOf 5 0x04 g f.toBits) g
/-- XCONV enters the channel (R242); the channel performs it as R254, R255 give. -/
def execXconv (g : Guard) (f : FmtXC) (s : State) : Res := xIntake s (wordOf 5 0x05 g f.toBits) g
/-- XMCST enters the channel (R242); the channel performs it as R256 give. -/
def execXmcst (g : Guard) (f : FmtXC) (s : State) : Res := xIntake s (wordOf 5 0x06 g f.toBits) g
/-- XRED enters the channel (R242); the channel performs it as R257 give. -/
def execXred (g : Guard) (f : FmtXC) (s : State) : Res := xIntake s (wordOf 5 0x07 g f.toBits) g
/-- XATOM enters the channel (R242); the channel performs it as R258 give. -/
def execXatom (g : Guard) (f : FmtXC) (s : State) : Res := xIntake s (wordOf 5 0x08 g f.toBits) g
/-- XAPND enters the channel (R242); the channel performs it as R259 give. -/
def execXapnd (g : Guard) (f : FmtXC) (s : State) : Res := xIntake s (wordOf 5 0x09 g f.toBits) g
/-- XSIG enters the channel (R242); the channel performs it as R260 give. -/
def execXsig (g : Guard) (f : FmtXC) (s : State) : Res := xIntake s (wordOf 5 0x0A g f.toBits) g
/-- XWAIT enters the channel (R242); the channel performs it as R261 give. -/
def execXwait (g : Guard) (f : FmtXC) (s : State) : Res := xIntake s (wordOf 5 0x0B g f.toBits) g
/-- XPREF enters the channel (R242); the channel performs it as R262 give. -/
def execXpref (g : Guard) (f : FmtXC) (s : State) : Res := xIntake s (wordOf 5 0x0C g f.toBits) g
/-- XCOMP enters the channel (R242); the channel performs it as R275 give. -/
def execXcomp (g : Guard) (f : FmtXC) (s : State) : Res := xIntake s (wordOf 5 0x10 g f.toBits) g
/-- XMRG enters the channel (R242); the channel performs it as R280 give. -/
def execXmrg (g : Guard) (f : FmtXC) (s : State) : Res := xIntake s (wordOf 5 0x11 g f.toBits) g
/-- XSNAP enters the channel (R242); the channel performs it as R282 give. -/
def execXsnap (g : Guard) (f : FmtXC) (s : State) : Res := xIntake s (wordOf 5 0x12 g f.toBits) g
/-- XHDR enters the channel (R242); the channel performs it as R270 give. -/
def execXhdr (g : Guard) (f : FmtXC) (s : State) : Res := xIntake s (wordOf 5 0x13 g f.toBits) g
/-- XTLD enters the channel (R242); the channel performs it as R283 give. -/
def execXtld (g : Guard) (f : FmtXC) (s : State) : Res := xIntake s (wordOf 5 0x18 g f.toBits) g
/-- XFST enters the channel (R242); the channel performs it as R284, R285 give. -/
def execXfst (g : Guard) (f : FmtXC) (s : State) : Res := xIntake s (wordOf 5 0x19 g f.toBits) g

/-! ### What a command's word says -/

/-- Function code of an X word (Table 13-1). -/
def Command.fn (c : Command) : Nat := bits c.word.slot.toNat 86 7

/-- The operand fields of an X word (Table 03-10). -/
def Command.xc (c : Command) : FmtXC := FmtXC.ofBits (c.word.slot.extractLsb' 0 66)

/-- The captured entries (R242). -/
def Command.sl (c : Command) : Nat := c.word.cap.sl.toNat
def Command.dl (c : Command) : Nat := c.word.cap.dl.toNat

/-- A captured register value: 0 sx, 1 sy, 2 dx, 3 dy, 4 cnt. -/
def Command.val (c : Command) (i : Nat) : Nat := (c.word.cap.vals.getD i 0).toNat
/-- A captured register value as a coordinate. -/
def Command.co (c : Command) (i : Nat) : Int := coord (c.word.cap.vals.getD i 0)

/-- var and sub of the word. -/
def Command.var (c : Command) : Nat := c.xc.var.toNat
def Command.sub (c : Command) : Nat := c.xc.sub.toNat

/-- Index mode of XGATH and XSCAT. -/
def Command.indexed (c : Command) : Bool := c.var == 8

/-- XCOPY from a compressed buffer (R251). -/
def Command.expands (c : Command) : Bool := c.fn == 1 && c.sub % 2 == 1

/-- A transforming command (R263). -/
def Command.transforms (c : Command) : Bool := c.fn ≥ 0x10

/-- What the word of a command of tile t is issued as, for a trap (R97, R264). -/
def Command.issue (c : Command) (t : Nat) : Issue := 
  { tile := t, eng := .X, addr := c.word.addr, num := c.num, tag := c.tag, seq := c.seq, cap := c.word.cap }

/-- The command of a slot. -/
def Tile.cmd? (x : Tile) (cslot : Nat) : Option Command := x.chan.find? fun c => c.cslot == cslot

/-- The command of a slot replaced. -/
def Tile.setCmd (x : Tile) (c : Command) : Tile := { x with chan := x.chan.map fun d => if d.cslot == c.cslot then c else d }

/-- The command of a slot of tile t replaced. -/
def State.setCmd (s : State) (t : Nat) (c : Command) : State := s.setTile t ((s.tile t).setCmd c)

end Sys2Proof.Machine
end

