-- ==== Sys2Proof/Machine/XAddr.lean ====
section
/-! DEFINITION. Where the elements of a move command lie (R244, R245, R252-R259), and the checks of acceptance that every
command makes on its entries and coordinates (R243, R264). -/

namespace Sys2Proof.Machine

/-! ### Faults -/

/-- A trap of a command: cause and TRAP_DATA (Table 13-4). -/
abbrev XFault := Nat × Nat

/-- A layout fault of a command: entry number, case, dimension, element. -/
def xLayout (entry case dim e : Nat) : XFault := (0x08, entry + case * 256 + dim * 2 ^ 12 + e % 2 ^ 48 * 2 ^ 16)

/-- A launch fault of a command. -/
def xLaunch (case e : Nat) : XFault := (0x10, case + e % 2 ^ 48 * 2 ^ 12)

/-! ### Locations -/

/-- A byte address that a command reaches: in a tile's scratchpad, or virtual. -/
inductive XLoc where
  | sp (tile a : Nat)
  | va (va : Nat)
  deriving DecidableEq, Repr

/-- An element at one side: its first byte, its bytes, which half of the byte a .e2m1 value takes, and a block's head. -/
structure ELoc where
  loc : XLoc
  n : Nat
  high : Option Bool := none
  head : Option XLoc := none
  deriving DecidableEq, Repr

/-- Unrank (R244). -/
def unrank (e L : Nat) : List Nat :=
  let n0 := layExt L 0
  let n1 := layExt L 1
  let n2 := layExt L 2
  [e % n0, e / n0 % n1, e / (n0 * n1) % n2, e / (n0 * n1 * n2)]

/-- Bits of an element of an entry (Table 13-2): a block's body slot has 512. -/
def xBits (L : Nat) : Nat := if layDesc L then 512 else tyWidth (layFmt L)

/-- Bytes that an element occupies. -/
def xBytes (L : Nat) : Nat := (xBits L + 7) / 8

/-- XResolve (R244) of coordinates of an entry, for n bytes: the location, in the peer `tile` for space 1. A run that passes the
end of the scratchpad is an address out of range, as is a peer above 895 (R182, R243). -/
def xResolve (own tile L n : Nat) (cs : List Int) : Except (Nat × Nat) XLoc :=
  match resolve L cs with
  | .error c => .error c
  | .ok (.stream _) => .error (2, 0)
  | .ok (.virt va) => .ok (.va va)
  | .ok (.row a) =>
    if a + n > spBytes then .error (5, 0)
    else if laySpace L = 0 then .ok (.sp own a)
    else .ok (.sp tile a)

/-- The head of the block at a location (R34): block number by 64-byte slots from the base. -/
def xHead (L : Nat) (loc : XLoc) : Except (Nat × Nat) XLoc :=
  match loc with
  | .sp t a =>
    let base := layBase L % 2 ^ 22
    let h := layHBase L % 2 ^ 22 + 2 * ((a - base) / 64)
    if a < base || h + 2 > spBytes then .error (5, 0) else .ok (.sp t h)
  | .va va => .ok (.va (wrap 57 (layHBase L + 2 * (((va : Int) - (layBase L % 2 ^ 57 : Nat)) / 64))))

/-- The element at coordinates of an entry (R245). Two .e2m1 values share the byte that dimension 0's coordinate, halved,
names; the even one takes its low half (R29, log 23). -/
def xElement (own tile L : Nat) (cs : List Int) : Except (Nat × Nat) ELoc :=
  if !layDesc L && layFmt L == 15 && laySpace L != 3 then
    match badCoord L cs with
    | some i => .error (1, i)
    | none =>
      let c0 := cs.getD 0 0
      match xResolve own tile L 1 (c0 / 2 :: cs.drop 1) with
      | .error c => .error c
      | .ok l => .ok { loc := l, n := 1, high := some (c0 % 2 == 1) }
  else match xResolve own tile L (xBytes L) cs with
    | .error c => .error c
    | .ok l =>
      if layDesc L then
        match xHead L l with
        | .error c => .error c
        | .ok h => .ok { loc := l, n := 64, head := some h }
      else .ok { loc := l, n := xBytes L }

/-- Coordinates of a walk: captured x and y plus the unranked element. -/
def walkCoords (x y : Int) (u : List Nat) : List Int :=
  [x + (u.getD 0 0 : Nat), y + (u.getD 1 0 : Nat), (u.getD 2 0 : Nat), (u.getD 3 0 : Nat)]

/-- The signed 32-bit index I[r] of a list in the issuing tile's scratchpad (R252). -/
def Tile.xIndex (x : Tile) (a r : Nat) : Int := signExt 32 (Memory.readLE x.sp (a + 4 * r) 4)

/-- The row of the walking entry's walk that element e of an index mode lies in. -/
def Command.ixRow (c : Command) (e : Nat) : Nat := e / layExt (if c.fn = 2 then c.dl else c.sl) 0

/-- The byte address of an index mode's list. -/
def Command.ixList (c : Command) : Nat := c.val (if c.fn = 2 then 1 else 3)

/-- The index of row r: as it was read when the row was reached, or as the list has it (R252). -/
def Command.index (c : Command) (x : Tile) (r : Nat) : Int :=
  match c.ix with
  | some (q, i) => if q = r then i else x.xIndex c.ixList r
  | none => x.xIndex c.ixList r

/-- The index of element e's row is still to be read. -/
def Command.ixFresh (c : Command) (e : Nat) : Bool :=
  (c.fn == 2 || c.fn == 3) && c.indexed && !(match c.ix with | some (q, _) => q == c.ixRow e | none => false)

/-- A command with the index of element e's row. -/
def Command.withIx (c : Command) (x : Tile) (e : Nat) : Command :=
  if c.ixFresh e then { c with ix := some (c.ixRow e, c.index x (c.ixRow e)) } else c

/-- Source coordinates of element e (R244, R252, R253). -/
def Command.srcCoords (c : Command) (x : Tile) (e : Nat) : List Int :=
  match c.fn with
  | 2 =>
    let u := unrank e c.dl
    let r := e / layExt c.dl 0
    if c.indexed then [c.co 0 + (u.getD 0 0 : Nat), c.index x r, 0, 0]
    else [c.co 0 + (u.getD 0 0 : Nat), c.co 1 + (r * (c.sub + 1) : Nat), 0, 0]
  | 4 =>
    let u := unrank e c.dl
    [c.co 0 + (u.getD 1 0 : Nat), c.co 1 + (u.getD 0 0 : Nat), 0, 0]
  | _ => walkCoords (c.co 0) (c.co 1) (unrank e c.sl)

/-- Destination coordinates of element e. -/
def Command.dstCoords (c : Command) (x : Tile) (e : Nat) : List Int :=
  match c.fn with
  | 3 =>
    let u := unrank e c.sl
    let r := e / layExt c.sl 0
    if c.indexed then [c.co 2 + (u.getD 0 0 : Nat), c.index x r, 0, 0]
    else [c.co 2 + (u.getD 0 0 : Nat), c.co 3 + (r * (c.sub + 1) : Nat), 0, 0]
  | 6 => walkCoords (c.co 2) 0 (unrank e c.dl)
  | _ => walkCoords (c.co 2) (c.co 3) (unrank e c.dl)

/-- The source element. -/
def Command.srcAt (c : Command) (x : Tile) (t e : Nat) : Except (Nat × Nat) ELoc :=
  xElement t (layPeer c.sl) c.sl (c.srcCoords x e)

/-- The destination element, in the peer tile given for space 1. -/
def Command.dstAt (c : Command) (x : Tile) (t peer e : Nat) : Except (Nat × Nat) ELoc :=
  xElement t peer c.dl (c.dstCoords x e)

/-- Source value i of block e of an XCONV (R254). -/
def Command.convAt (c : Command) (t i : Nat) : Except (Nat × Nat) ELoc :=
  xElement t (layPeer c.sl) c.sl (walkCoords (c.co 0) (c.co 1) (unrank i c.sl))

/-- Sources of an XRED element (R257). -/
def Command.redK (c : Command) : Nat := c.var / 4 + 1

/-- Entry k of an XRED's tile list, at byte Forwarded(sy). -/
def Tile.xTileOf (x : Tile) (a k : Nat) : Nat := Memory.readLE x.sp (a + 2 * k) 2

/-- Source k of element e of an XRED, its tile list read at each element (R257): DESIGN CHOICE (log 82). -/
def Command.redAt (c : Command) (x : Tile) (t e k : Nat) : Except (Nat × Nat) ELoc :=
  let u := unrank e c.dl
  if laySpace c.sl = 1 then
    xElement t (x.xTileOf (c.val 1) k) c.sl (walkCoords (c.co 0) 0 u)
  else
    xElement t t c.sl [c.co 0 + (u.getD 0 0 : Nat), c.co 1 + (u.getD 1 0 : Nat), (u.getD 2 0 : Nat), (k : Nat)]

/-! ### Checks of acceptance (R243) -/

/-- An entry's number in the word, for TRAP_DATA. -/
def Command.slNo (c : Command) : Nat := c.xc.sl.toNat
def Command.dlNo (c : Command) : Nat := c.xc.dl.toNat

/-- The first fault of a list of checks. -/
def firstFault (l : List (Option XFault)) : Option XFault := l.findSome? id

/-- A check that fails where its condition holds. -/
def failIf (b : Bool) (f : XFault) : Option XFault := if b then some f else none

/-- A source or destination entry of space 0 to 2: its space, its peer, its format (Table 13-2). -/
def checkEntry (no L : Nat) (peer : Bool) : Option XFault :=
  firstFault
    [failIf (laySpace L == 3) (xLayout no 2 0 0),
     failIf (peer && laySpace L == 1 && layPeer L > 895) (xLayout no 5 0 0),
     failIf (if layDesc L then codeWidth (layFmt L) == 0 else layFmt L > 22) (xLayout no 4 0 0)]

/-- A location check of element e as a fault of an entry. -/
def locFault {α : Type} (no e : Nat) (r : Except (Nat × Nat) α) : Option XFault :=
  match r with
  | .ok _ => none
  | .error (case, dim) => some (xLayout no case dim e)

/-- A destination in rows 0 to 3 of a scratchpad (R243). -/
def lowRow (r : Except (Nat × Nat) ELoc) : Bool :=
  match r with
  | .ok ⟨.sp _ a, _, _, h⟩ => a < 1024 || (match h with | some (.sp _ b) => b < 1024 | _ => false)
  | _ => false

/-- A destination check: its location, then rows 0 to 3. -/
def dstFault (no e : Nat) (r : Except (Nat × Nat) ELoc) : Option XFault :=
  firstFault [locFault no e r, failIf (lowRow r) (xLayout no 3 0 e)]

/-- The first element below e + n, from e up, that a check refuses. -/
def walkCheck (f : Nat → Option XFault) : (n e : Nat) → Option XFault
  | 0, _ => none
  | n + 1, e => match f e with
    | some x => some x
    | none => walkCheck f n (e + 1)

/-- Coordinates 2 and 3 of a walk that covers 0 and 1 only (R252). -/
def highCoord (no L e : Nat) : Option XFault :=
  let u := unrank e L
  if u.getD 2 0 ≠ 0 then some (xLayout no 1 2 e) else if u.getD 3 0 ≠ 0 then some (xLayout no 1 3 e) else none

/-- The captured registers that are start coordinates of a command's walks: sx and sy, but for an XGATH's list and for a
compressed source, which is read in buffer order; dx and dy, but for a stream, an XSCAT's list and an XMCST's mask (R244, R251,
R252, R256). -/
def Command.starts (c : Command) : List Nat :=
  (if c.expands then [] else if c.fn == 2 && c.indexed then [0] else [0, 1]) ++
    if laySpace c.dl == 3 then [] else if c.fn == 6 || (c.fn == 3 && c.indexed) then [2] else [2, 3]

/-- The .e2m1 rule: even count and even start coordinates (R245). -/
def checkHalf (c : Command) : Option XFault :=
  failIf (!layDesc c.sl && layFmt c.sl == 15 && (c.val 4 % 2 == 1 || c.starts.any fun i => c.val i % 2 == 1))
    (xLayout c.dlNo 4 0 0)

/-- Coordinate 0 of the other side of an index mode, which captured values alone give (R243, R252). -/
def checkCo0 (no L e : Nat) (x : Int) : Option XFault :=
  match badCoord L [x, 0, 0, 0] with
  | some i => some (xLayout no 1 i e)
  | none => none

/-- Entries of a word that accepts no described storage: an entry with desc = 1 is named itself, sl before dl (R209, R245). -/
def checkPlain (c : Command) : Option XFault :=
  firstFault [failIf (layDesc c.sl) (xLayout c.slNo 4 0 0), failIf (layDesc c.dl) (xLayout c.dlNo 4 0 0)]

/-- Equal kinds and widths of both entries (R245, R251-R253); a disagreement names dl (log 24). -/
def checkSame (c : Command) (descOk : Bool) : Option XFault :=
  firstFault [if descOk then none else checkPlain c,
    failIf (layDesc c.sl != layDesc c.dl || xBits c.sl != xBits c.dl) (xLayout c.dlNo 4 0 0)]

/-- Entries of a word that computes (R257, R258): plain storage of a type the word accepts, the same on both sides; an entry it
does not accept is named itself, sl before dl, and a disagreement names dl (log 24). -/
def checkTyped (c : Command) (ok : Nat → Bool) : Option XFault :=
  firstFault [checkPlain c, failIf (!ok (layFmt c.sl)) (xLayout c.slNo 4 0 0),
    failIf (layFmt c.sl != layFmt c.dl) (xLayout c.dlNo 4 0 0)]

/-- A stream destination of XCOPY (Table 13-2): blocks and values to a FIFO, 16-bit values to a scale queue. -/
def checkStream (c : Command) : Option XFault :=
  failIf (layBase c.dl % 4 ≥ 2 && (layDesc c.sl || xBits c.sl != 16)) (xLayout c.dlNo 4 0 0)

/-- The list of an index mode (R252): `no` is the walking entry, `rows` the rows walked. -/
def checkIndex (no a rows : Nat) : Option XFault :=
  failIf (a % 4 != 0 || (rows != 0 && a + 4 * rows > spBytes)) (xLayout no 5 0 0)

/-- The types of XATOM and its operations (R258). -/
def atomOk (fmt op : Nat) : Bool :=
  if fmt == 10 then op ≤ 2 || op == 6 else (fmt == 2 || fmt == 6 || fmt == 3 || fmt == 7) && op ≤ 6

/-- A 64-byte item's location (R259). -/
def Command.itemAt (c : Command) (t e : Nat) : Except (Nat × Nat) XLoc :=
  match xResolve t (layPeer c.sl) c.sl 64 (walkCoords (c.co 0) (c.co 1) (unrank e c.sl)) with
  | .error x => .error x
  | .ok (.sp u a) => if a % 64 ≠ 0 then .error (5, 0) else .ok (.sp u a)
  | .ok (.va va) => if va % 64 ≠ 0 then .error (5, 0) else .ok (.va va)

/-- The mask of an XMCST: the tiles selected in row Forwarded(dy) of the issuing tile (R256). -/
def Command.maskTiles (c : Command) (x : Tile) : List Nat :=
  (List.range 1024).filter fun t => bit (Memory.readLE x.sp (256 * c.val 3) 128) t

/-- The checks of a command that does not transform (R243, R251-R262), in order: its entries, its shape, then its elements,
source before destination. The case of a mask row beyond the scratchpad (R256), of an XRED's u3 (R257) and of an XPREF outside
space 2 (R262): DESIGN CHOICE (log 81). -/
def Command.check (c : Command) (x : Tile) (t : Nat) : Option XFault :=
  let n := c.val 4
  let sl := c.sl
  let dl := c.dl
  let slNo := c.slNo
  let dlNo := c.dlNo
  let src (e : Nat) := locFault slNo e (c.srcAt x t e)
  let dst (e : Nat) := dstFault dlNo e (c.dstAt x t (layPeer dl) e)
  let both (e : Nat) := firstFault [src e, dst e]
  match c.fn with
  | 1 =>
    if laySpace dl = 3 then
      firstFault [checkEntry slNo sl true, checkStream c, checkHalf c, walkCheck src n 0]
    else
      firstFault [checkEntry slNo sl true, checkEntry dlNo dl true, checkSame c true, checkHalf c, walkCheck both n 0]
  | 2 =>
    firstFault [checkEntry slNo sl true, checkEntry dlNo dl true, checkSame c false, checkHalf c,
      (if c.indexed then checkIndex dlNo (c.val 1) (ceilDiv n (layExt dl 0)) else none),
      walkCheck (fun e => firstFault
        [highCoord dlNo dl e, if c.indexed then checkCo0 slNo sl e (c.co 0 + (e % layExt dl 0 : Nat)) else src e, dst e]) n 0]
  | 3 =>
    firstFault [checkEntry slNo sl true, checkEntry dlNo dl true, checkSame c false, checkHalf c,
      (if c.indexed then checkIndex slNo (c.val 3) (ceilDiv n (layExt sl 0)) else none),
      walkCheck (fun e => firstFault
        [highCoord slNo sl e, src e, if c.indexed then checkCo0 dlNo dl e (c.co 2 + (e % layExt sl 0 : Nat)) else dst e]) n 0]
  | 4 =>
    firstFault [checkEntry slNo sl true, checkEntry dlNo dl true, checkSame c false, checkHalf c,
      failIf (layExt dl 0 > 256 || layExt dl 1 > 256 || n > layExt dl 0 * layExt dl 1) (xLayout dlNo 4 0 0), walkCheck both n 0]
  | 5 =>
    let conv (e : Nat) := walkCheck (fun i => locFault slNo e (c.convAt t i)) 32 (32 * e)
    let okFmt := (1 ≤ layFmt dl && layFmt dl ≤ 5) || (0x12 ≤ layFmt dl && layFmt dl ≤ 0x18)
    firstFault [checkEntry slNo sl true, failIf (layDesc sl || !(8 ≤ layFmt sl && layFmt sl ≤ 10)) (xLayout slNo 4 0 0),
      failIf (laySpace dl == 1 && layPeer dl > 895) (xLayout dlNo 5 0 0),
      failIf (!okFmt || (if laySpace dl == 3 then layBase dl % 4 ≥ 2 else !layDesc dl)) (xLayout dlNo 4 0 0),
      walkCheck (fun e => firstFault [conv e, if laySpace dl == 3 then none else dst e]) n 0]
  | 6 =>
    firstFault [checkEntry slNo sl true, failIf (laySpace dl != 1) (xLayout dlNo 2 0 0), checkEntry dlNo dl false,
      checkSame c true, checkHalf c,
      failIf (c.val 3 ≥ Config.spRows) (xLayout dlNo 5 0 0),
      failIf ((c.maskTiles x).any fun u => u > 895) (xLaunch 9 0), walkCheck both n 0]
  | 7 =>
    let k := c.redK
    let a := c.val 1
    let list := laySpace sl == 1
    let srcs (e : Nat) := walkCheck (fun i => locFault slNo e (c.redAt x t e i)) k 0
    let u3 (e : Nat) := failIf (!list && (unrank e dl).getD 3 0 != 0) (xLayout dlNo 1 3 e)
    firstFault [checkEntry slNo sl true, checkEntry dlNo dl true,
      checkTyped c (fun f => f == 10 || f == 2 || f == 6),
      failIf (list && (a % 2 == 1 || a + 2 * k > spBytes)) (xLayout slNo 5 0 0),
      walkCheck (fun e => firstFault [srcs e, u3 e, dst e]) n 0]
  | 8 =>
    let ret := c.sub % 2 == 1
    firstFault [checkEntry slNo sl true, checkEntry dlNo dl true,
      checkTyped c (fun f => atomOk f c.var),
      failIf (ret && laySpace sl == 2) (xLayout slNo 2 0 0),
      walkCheck (fun e => firstFault [if ret then dstFault slNo e (c.srcAt x t e) else src e, dst e]) n 0]
  | 9 =>
    firstFault [failIf (laySpace sl == 3) (xLayout slNo 2 0 0), failIf (laySpace sl == 1 && layPeer sl > 895) (xLayout slNo 5 0 0),
      failIf (laySpace dl > 1) (xLayout dlNo 2 0 0), failIf (laySpace dl == 1 && layPeer dl > 895) (xLayout dlNo 5 0 0),
      walkCheck (fun e => locFault slNo e (c.itemAt t e)) n 0]
  | 10 =>
    firstFault [failIf (laySpace dl > 1) (xLayout dlNo 2 0 0), failIf (laySpace dl == 1 && layPeer dl > 895) (xLayout dlNo 5 0 0)]
  | 12 => failIf (laySpace sl != 2) (xLayout slNo 2 0 0)
  | _ => none

end Sys2Proof.Machine
end

