-- ==== Sys2Proof/Machine/XMem.lean ====
section
/-! DEFINITION. How an element reaches memory: translation on the tile's transfer die with its translation entries (R221-R225),
the migration stall (R234), watchpoints on the tile's own rows (R387), access counters (R199, R233), the bytes themselves, and
the fault record of a suspension (R228-R230). -/

namespace Sys2Proof.Machine

/-! ### Translation entries -/

/-- The descriptor a die holds for a context, read at its first walk in it (R221). -/
def State.dieDesc (s : State) (d ctx : Nat) : State × BitVec 512 :=
  match Tab.get? ctx (s.die d).descs with
  | some w => (s, w)
  | none =>
    let w := s.readDesc ctx
    (s.setDie d { s.die d with descs := Tab.put ctx w (s.die d).descs }, w)

/-- The entry of a die that covers an address. -/
def Die.tlbAt (x : Die) (ctx va : Nat) : Option TlbEntry :=
  x.tlb.find? fun e => e.ctx == ctx && e.va == va / 2 ^ e.lg * 2 ^ e.lg

/-- The entries of a die without those that cover an address. -/
def Die.tlbDrop (x : Die) (ctx va : Nat) : Die :=
  { x with tlb := x.tlb.filter fun e => !(e.ctx == ctx && e.va == va / 2 ^ e.lg * 2 ^ e.lg) }

/-- A leaf kept as a translation entry; beyond 16,384 the oldest leave (R225). -/
def Die.tlbAdd (x : Die) (ctx va : Nat) (l : Leaf) : Die :=
  let y := x.tlbDrop ctx va
  { y with tlb := (⟨ctx, va / 2 ^ l.lg * 2 ^ l.lg, l.lg, BitVec.ofNat 64 l.pte⟩ :: y.tlb).take Config.tlbCap }

/-- A leaf that passes its checks becomes an entry; a walk that faults leaves none (R225). -/
def State.keepLeaf (s : State) (d ctx va : Nat) (k : Access) (r : Except Nat Leaf) : State × Except Nat Leaf :=
  match r with
  | .error f => (s, .error f)
  | .ok l => match checkLeaf l.pte k with
    | some f => (s, .error f)
    | none => (s.setDie d ((s.die d).tlbAdd ctx va l), .ok l)

/-- The translation of an access on die d (R223), with what a miss counts. Where the die holds an entry that the page tables no
longer give, the old entry or the new one is used, as the free choice has it (R225, log 8). -/
def State.dieXlate (s : State) (d ctx va : Nat) (k : Access) (miss : State → State) : State × Except Nat Leaf :=
  let va := va % 2 ^ 57
  if ctx = 0 then (s, physLeaf va)
  else
    let (s1, desc) := s.dieDesc d ctx
    let new := s1.walk desc va
    match (s1.die d).tlbAt ctx va with
    | none => (miss s1).keepLeaf d ctx va k new
    | some e =>
      let old : Leaf := ⟨e.pte.toNat, e.lg, bits desc.toNat 257 1⟩
      let same := match new with | .ok l => l.pte == old.pte && l.lg == old.lg | .error _ => false
      if same then s1.keepLeaf d ctx va k (.ok old)
      else
        let (b, s2) := s1.choose
        s2.keepLeaf d ctx va k (if b then .ok old else new)

/-- The translation of an access by a command of tile t on its die d; a miss is event 0x0E. -/
def State.xlate (s : State) (t d ctx va : Nat) (k : Access) : State × Except Nat Leaf :=
  s.dieXlate d ctx va k fun s1 => s1.setTile t ((s1.tile t).count 0x0E 1)

/-! ### Accesses -/

/-- An access of an element: where, how many bytes, for what, and which operand (0 source, 1 destination). -/
structure Acc where
  loc : XLoc
  n : Nat
  kind : Access
  opnd : Nat
  high : Option Bool := none
  deriving DecidableEq, Repr

/-- Where a piece of an access lands, and how many bytes of it. -/
inductive Spot where
  | sp (tile a n : Nat)
  | at (p : Place) (n : Nat)
  deriving DecidableEq, Repr

/-- An access translated: its pieces, the counted pages it touches with the die that executes the command (R233), and whether every page allows
tolerant merging (R280). -/
structure Touched where
  spots : List Spot
  counts : List (Nat × Nat)
  tol : Bool := true
  deriving DecidableEq, Repr

/-- Why an element does not perform. -/
inductive XStop where
  | fault (f : XFault)
  | susp (q : Suspension)
  | stall (ctx va : Nat)
  /-- it waits, for room or for a point that is away -/
  | wait
  deriving DecidableEq, Repr

/-- An element's state and outcome; what it writes is written only where it performs. -/
abbrev XRes (α : Type) := State × Except XStop α

/-- What an element runs as: its tile, command and index; `dead` where reads of host pages get no completion (R227). -/
structure XCtx where
  t : Nat
  c : Command
  e : Nat
  dead : Bool := false

def XCtx.die (k : XCtx) (s : State) : Nat := s.dieOf k.t
def XCtx.ctx (k : XCtx) (s : State) : Nat := (s.tile k.t).tctx

def accessCode : Access → Nat
  | .read => 0 | .write => 1 | .atomic => 2

/-- The suspension of an access at a fault (R228, R230). -/
def XCtx.suspend (k : XCtx) (s : State) (a : Acc) (kind va : Nat) : XStop := .susp ⟨kind, va % 2 ^ 57, accessCode a.kind, a.opnd, k.ctx s⟩

/-- The pieces of a virtual access, page by page. -/
def touchPages (k : XCtx) (a : Acc) : List (Nat × Nat) → State → XRes Touched
  | [], s => (s, .ok ⟨[], [], true⟩)
  | (va, n) :: l, s =>
    let d := k.die s
    let ctx := k.ctx s
    let (s1, r) := s.xlate k.t d ctx va a.kind
    match r with
    | .error f => (s1, .error (k.suspend s a f va))
    | .ok leaf =>
      if pteMig leaf.pte && ctx != 0 && a.kind != .read then
        (s1.setDie d ((s1.die d).tlbDrop ctx (va % 2 ^ 57)), .error (.stall ctx (va % 2 ^ 57)))
      else
        let p := leaf.place (va % 2 ^ 57)
        let cs := if pteCnt leaf.pte && ctx != 0 then [(d, bits leaf.pte 16 48)] else []
        let (s2, r2) := touchPages k a l s1
        (s2, match r2 with
          | .error x => .error x
          | .ok y => .ok ⟨.at p n :: y.spots, cs ++ y.counts, pteTol leaf.pte && y.tol⟩)

/-- A watchpoint on the tile's own rows matches an access of its channel: a trap at the element, or a quench (R387). -/
def watchAcc (k : XCtx) (s : State) (a n : Nat) (write : Bool) : XRes Unit :=
  let rows := (List.range ((a + n - 1) / 256 - a / 256 + 1)).map fun i => a / 256 + i
  match (s.tile k.t).watch rows write true with
  | none => (s, .ok ())
  | some (m, row, quench) =>
    let data := watchData m write row k.e
    let s' := s.traceHit k.t k.c.word.addr data true
    if quench then (s'.quenchSoon k.t, .ok ()) else (s', .error (.fault (0x0E, data)))

/-- A tile that holds a point of a launch in the same translation context (Table 13-4). -/
def State.sameCtx (s : State) (t u : Nat) : Bool :=
  u == t || (u < Config.numTiles && (s.tile u).point.isSome && (s.tile u).tctx == (s.tile t).tctx)

/-- One access checked and translated: a peer holds no point in the context, a watchpoint, or the pages (R223, R264). -/
def touch (k : XCtx) (s : State) (a : Acc) : XRes Touched :=
  match a.loc with
  | .sp u b =>
    if !s.sameCtx k.t u then (s, .error (.fault (xLaunch 5 k.e)))
    else if u = k.t then
      let (s1, r) := watchAcc k s b a.n (a.kind != .read)
      match r with
      | .error x => (s1, .error x)
      | .ok _ =>
        if a.kind == .atomic then
          let (s2, r2) := watchAcc k s1 b a.n false
          (s2, match r2 with | .error x => .error x | .ok _ => .ok ⟨[.sp u b a.n], [], false⟩)
        else (s1, .ok ⟨[.sp u b a.n], [], false⟩)
    else (s, .ok ⟨[.sp u b a.n], [], false⟩)
  | .va va => touchPages k a (piecesOf va a.n) s

/-- Accesses in order: the first that stops decides (R228: a source before a destination). -/
def touchAll (k : XCtx) : List Acc → State → XRes (List Touched)
  | [], s => (s, .ok [])
  | a :: l, s =>
    let (s1, r) := touch k s a
    match r with
    | .error x => (s1, .error x)
    | .ok y =>
      let (s2, r2) := touchAll k l s1
      (s2, match r2 with | .error x => .error x | .ok ys => .ok (y :: ys))

/-! ### The bytes -/

/-- The bytes at a list of pieces; none where a remote read fails (R406). -/
def State.readSpots (s : State) : List Spot → Option (List Byte)
  | [] => some []
  | .sp u a n :: l => (State.readSpots s l).map fun r => (s.tile u).readBytes a n ++ r
  | .at p n :: l => (s.readPlace p n).bind fun b => (State.readSpots s l).map fun r => b ++ r

/-- The bytes a key of older contents names. -/
def State.keyBytes (s : State) (key : Nat × Nat) : List Byte :=
  let (space, a, n) := keySpan key
  match space with
  | 0 => (s.tile (a / 2 ^ 22)).readBytes (a % 2 ^ 22) n
  | 1 => s.readPA a n
  | 2 => Memory.readN s.hostMem (hostKey 0 a) n
  | 3 => Memory.readN s.hostMem (hostKey 1 a) n
  | m => (List.range n).map fun i => s.farByte (m - 16) (a + i)

/-- Those bytes replaced, in what a read finds. -/
def State.pokeKey (c : OldCopy) (s : State) : State :=
  let (space, a, _) := keySpan c.key
  match space with
  | 0 => let x := s.tile (a / 2 ^ 22)
    s.setTile (a / 2 ^ 22) { x with sp := Memory.writeN x.sp (a % 2 ^ 22) c.bytes }
  | 1 => s.pokePA a c.bytes
  | 2 => { s with hostMem := Memory.writeN s.hostMem (hostKey 0 a) c.bytes }
  | 3 => { s with hostMem := Memory.writeN s.hostMem (hostKey 1 a) c.bytes }
  | m => { s with farMem := c.bytes.zipIdx.foldl (fun l b => Tab.put (farKey (m - 16) (a + b.2)) b.1 l) s.farMem }

/-- The module as a reader finds it with some older contents, oldest first: each stands for the bytes it names, an older one before a newer
(R296). -/
def State.withOld (s : State) (l : List OldCopy) : State := l.foldr State.pokeKey s

/-- The module as X word q of tile t reads it (R296). -/
def State.chanView (s : State) (t q : Nat) : State :=
  s.withOld ((s.tile t).copies.filter fun c => c.chan && !c.endedFor .X q)

/-- Tile t as its X word q reads it: the lists and masks in its own rows (R248). -/
def State.chanTile (s : State) (t q : Nat) : Tile := (s.chanView t q).tile t

/-- The module as the hosts read it. -/
def State.hostView (s : State) : State := s.withOld s.hostOld

/-- A piece of an access in the trail; `whole` where it is a unit of R291. -/
def Spot.trail (write whole : Bool) : Spot → Trail
  | .sp u a n => spTrail write u a n
  | .at p n =>
    let (space, a) := p.spaceAt
    { write := write, space := space, at_ := a, n := n, whole := whole }

/-- A write to memory that is single-copy atomic (R291): naturally aligned of 1, 2, 4 or 8 bytes, or the body slot of a described
element. -/
def unitWrite (desc : Bool) (a n : Nat) : Bool := (n == 1 || n == 2 || n == 4 || n == 8 || (n == 64 && desc)) && a % n == 0

/-- The half of a byte that a .e2m1 value takes, or the bytes themselves. -/
def takeHalf (high : Option Bool) (bs : List Byte) : List Byte :=
  match high with
  | none => bs
  | some h => [BitVec.ofNat 8 (bits (byteAt bs 0).toNat (if h then 4 else 0) 4)]

/-- The bytes of a piece; none where a remote read fails, as every read of a host or far page does where `dead` (R227, R406). -/
def State.readSpot (s : State) (dead : Bool) (p : Spot) : Option (List Byte) :=
  let away := match p with | .at (.host _ _) _ => true | .at (.far _ _) _ => true | _ => false
  if dead && away then none else s.readSpots [p]

/-- The address at which a remote read of an access fails: the element's first byte, or the first byte on the second page
(Table 12-4). -/
def State.deadVA (s : State) (dead : Bool) (a : Acc) (y : Touched) : Option Nat :=
  match a.loc with
  | .va va => (((piecesOf va a.n).zip y.spots).find? fun p => (s.readSpot dead p.2).isNone).map fun p => p.1.1
  | .sp _ _ => none

/-- The bytes of touched accesses; a failed remote read suspends its command with kind 5. -/
def readAll (k : XCtx) (s : State) : List (Acc × Touched) → Except XStop (List (List Byte))
  | [] => .ok []
  | (a, y) :: l =>
    match (match s.deadVA k.dead a y with | some _ => none | none => (s.chanView k.t k.c.word.cap.q).readSpots y.spots) with
    | none => .error (k.suspend s a 5 ((s.deadVA k.dead a y).getD 0))
    | some b => match readAll k s l with
      | .error x => .error x
      | .ok r => .ok (takeHalf a.high b :: r)

/-- Bytes written by X word q of tile `writer` from a scratchpad address up, row by row (R203). -/
def Tile.writeSpan (x : Tile) (a writer q : Nat) (bs : List Byte) : (fuel : Nat) → Tile
  | 0 => x
  | n + 1 =>
    if bs.isEmpty then x
    else
      let m := min bs.length (256 - a % 256)
      Tile.writeSpan (x.moveBytes a writer q (bs.take m)) (a + m) writer q (bs.drop m) n

/-- Bytes written into tile u's scratchpad by X word q of tile t. -/
def State.moveSpan (s : State) (t q u a : Nat) (bs : List Byte) : State :=
  (s.setTile u ((s.tile u).writeSpan a t q bs (bs.length / 256 + 2))).note [spTrail true u a bs.length]

/-- Bytes written by X word q of tile t at a list of pieces; none while the undo log is full (R379). -/
def State.writeSpots (s : State) (t q : Nat) (log : Option Nat) (bs : List Byte) : List Spot → Option State
  | [] => some s
  | .sp u a n :: l => State.writeSpots (s.moveSpan t q u a (bs.take n)) t q log (bs.drop n) l
  | .at p n :: l =>
    match s.writePlace log p (bs.take n) with
    | none => none
    | some s' => State.writeSpots s' t q log (bs.drop n) l

/-- A .e2m1 value merged into its byte; other bytes as they are. -/
def State.mergeHalf (s : State) (a : Acc) (y : Touched) (bs : List Byte) : List Byte :=
  match a.high with
  | none => bs
  | some h =>
    let old := byteAt ((s.readSpots y.spots).getD []) 0
    let v := byteAt bs 0
    [if h then (old &&& 0x0F) ||| (v <<< 4) else (old &&& 0xF0) ||| (v &&& 0x0F)]

/-- The writes of an element of X word q of tile t, in order. -/
def State.writeAll (s : State) (t q : Nat) (log : Option Nat) : List (Acc × Touched × List Byte) → Option State
  | [] => some s
  | (a, y, bs) :: l => (s.writeSpots t q log (s.mergeHalf a y bs) y.spots).bind fun s' => State.writeAll s' t q log l

/-- The pieces of touched accesses in the trail. -/
def readTrail (l : List (Acc × Touched)) : List Trail := l.flatMap fun p => p.2.spots.map (Spot.trail false false)

/-- The pieces that an element writes outside the scratchpads; `desc` where it is described. -/
def writeTrail (desc : Bool) (l : List (Acc × Touched × List Byte)) : List Trail :=
  l.flatMap fun p => p.2.1.spots.filterMap fun q => match q with
    | .sp _ _ _ => none
    | .at pl n => some (q.trail true (p.2.1.spots.length == 1 && unitWrite desc pl.spaceAt.2 n))

/-- The launch slot whose writes by tile t's commands are logged (R379). -/
def State.logOfTile (s : State) (t : Nat) : Option Nat :=
  match (s.tile t).point with
  | some p => s.logOf p.slot
  | none => none

/-! ### Access counters (R199, R233) -/

def acntCount (e : W64) : Nat := bits e.toNat 48 16
def acntFrame (e : W64) : Nat := bits e.toNat 0 48

/-- The counter entry that a frame takes: its own, a free one, or the one with the lowest count (R199). -/
def Die.acntIndex (x : Die) (frame : Nat) : Nat :=
  match x.acnt.find? fun p => acntCount p.2 != 0 && acntFrame p.2 == frame with
  | some p => p.1
  | none =>
    if x.acnt.length < Config.acntCap then
      ((List.range (x.acnt.length + 1)).find? fun i => acntCount (Assoc.get 0 i x.acnt) == 0).getD 0
    else
      (x.acnt.foldl (fun b p => match b with
        | none => some p
        | some q => if acntCount p.2 < acntCount q.2 then some p else some q) (none : Option (Nat × W64))).elim 0 fun p => p.1

/-- One command counted against a frame on a die; at THRESH a notification is placed and the count halves (R233). -/
def State.countPage (s : State) (d frame ctx : Nat) : State :=
  let x := s.die d
  let i := x.acntIndex frame
  let e := Assoc.get 0 i x.acnt
  let n := (if acntFrame e == frame then acntCount e else 0) + 1
  let hit := decide (n ≥ x.thresh.toNat)
  let m := if hit then max (n / 2) 1 else n
  let s1 := s.setDie d { x with acnt := Assoc.set 0 i (BitVec.ofNat 64 (frame + m * 2 ^ 48)) x.acnt }
  if hit then s1.pushRing .nq [frame + n % 2 ^ 16 * 2 ^ 48, d * 2 ^ 16 + ctx] else s1

/-- The counted pages of an element, once per command (R199). -/
def State.countPages (s : State) (k : XCtx) (c : Command) : List (Nat × Nat) → State × Command
  | [] => (s, c)
  | (d, f) :: l =>
    if c.counted.contains (d, f) then State.countPages s k c l
    else State.countPages (s.countPage d f (k.ctx s)) k { c with counted := (d, f) :: c.counted } l

/-! ### Suspension (R228-R230) -/

/-- The fault record of a suspended command (Table 12-4). -/
def faultWords (lid : Nat) (t : Nat) (c : Command) (q : Suspension) : List Nat :=
  [q.kind * 2 ^ 60 + q.va, q.access * 2 ^ 62 + q.opnd * 2 ^ 61 + c.e % 2 ^ 48, lid,
   t * 2 ^ 44 + c.cslot * 2 ^ 36 + c.word.addr * 2 ^ 16 + c.tag % 256 * 256 + q.ctx % 256]

/-- A translation fault record enters the fault queue, or waits on its die with its place in the order of arrival (R311). -/
def State.faultEnter (s : State) (d : Nat) (ws : List Nat) : State :=
  if s.fq.room && !s.dies.any (fun p => !p.2.faultWait.isEmpty) then s.pushRing .fq ws
  else { s.setDie d { s.die d with faultWait := (s.die d).faultWait ++ [(s.faultNum, ws.map (BitVec.ofNat 64))] } with
    faultNum := s.faultNum + 1 }

/-- The command suspends at its element, with its record and event 0x0F. -/
def State.suspendCmd (s : State) (t : Nat) (c : Command) (q : Suspension) : State :=
  let c' := { c with susp := some q, recTile := some t, unanswered := true }
  let x := ((s.tile t).setCmd c').count 0x0F 1
  (s.setTile t x).faultEnter (s.dieOf t) (faultWords x.launchId.toNat t c q)

end Sys2Proof.Machine
end

