-- ==== Sys2Proof/Machine/XElem.lean ====
section
/-! DEFINITION. What the commands that do not transform do at an element: the accesses they make (R244, R251-R259), the values
they write (R251, R254, R257, R258), stream pushes (R245, R171), list appends (R315), and waits (R261). -/

namespace Sys2Proof.Machine

/-! ### The accesses of an element -/

/-- The accesses of an element at one side: its value or body, and its head. -/
def ELoc.accs (l : ELoc) (kind : Access) (opnd : Nat) : List Acc :=
  ⟨l.loc, l.n, kind, opnd, l.high⟩ :: match l.head with | some h => [⟨h, 2, kind, opnd, none⟩] | none => []

/-- The accesses at a location, or its layout fault at element e of entry `no`. -/
def accsAt (no e : Nat) (kind : Access) (opnd : Nat) (r : Except (Nat × Nat) ELoc) : Except XFault (List Acc) :=
  match r with
  | .error (case, dim) => .error (xLayout no case dim e)
  | .ok l => if kind != .read && lowRow (.ok l) then .error (xLayout no 3 0 e) else .ok (l.accs kind opnd)

/-- Results joined, or the first fault. -/
def joinAccs : List (Except XFault (List Acc)) → Except XFault (List Acc)
  | [] => .ok []
  | .error f :: _ => .error f
  | .ok a :: l => match joinAccs l with | .error f => .error f | .ok r => .ok (a ++ r)

/-- The reads and the writes of element e of a command of tile t (R244). Two .e2m1 values go to a FIFO as one byte, with the
second (log 23). -/
def Command.accs (c : Command) (x : Tile) (t e : Nat) : Except XFault (List Acc × List Acc) :=
  let src (i : Nat) := accsAt c.slNo e .read 0 (c.srcAt x t i)
  let dst (kind : Access) := accsAt c.dlNo e kind 1 (c.dstAt x t (layPeer c.dl) e)
  let pair (r w : Except XFault (List Acc)) : Except XFault (List Acc × List Acc) :=
    match r, w with
    | .error f, _ => .error f
    | _, .error f => .error f
    | .ok a, .ok b => .ok (a, b)
  match c.fn with
  | 1 =>
    if laySpace c.dl = 3 then
      if !layDesc c.sl && layFmt c.sl == 15 && e % 2 == 1 then pair (joinAccs [src (e - 1), src e]) (.ok []) else pair (src e) (.ok [])
    else pair (src e) (dst .write)
  | 2 | 3 | 4 => pair (src e) (dst .write)
  | 5 =>
    pair (joinAccs ((List.range 32).map fun i => accsAt c.slNo e .read 0 (c.convAt t (32 * e + i))))
      (if laySpace c.dl = 3 then .ok [] else dst .write)
  | 6 => pair (src e) (joinAccs (c.mask.map fun u => accsAt c.dlNo e .write 1 (c.dstAt x t u e)))
  | 7 => pair (joinAccs ((List.range c.redK).map fun i => accsAt c.slNo e .read 0 (c.redAt x t e i))) (dst .atomic)
  | 8 =>
    pair (src e) (joinAccs [dst .atomic, if c.sub % 2 = 1 then accsAt c.slNo e .write 0 (c.srcAt x t e) else .ok []])
  | 9 => match c.itemAt t e with
    | .error (case, dim) => .error (xLayout c.slNo case dim e)
    | .ok l => .ok ([⟨l, 64, .read, 0, none⟩], [])
  | 12 => pair (src e) (.ok [])
  | _ => .ok ([], [])

/-! ### The rows and lines of accesses -/

/-- Keys of the rows and lines an access touches: scratchpad rows, and 64-byte lines where they lie. -/
def accKeys (s : State) (ctx : Nat) (a : Acc) : List (Nat × Nat) :=
  match a.loc with
  | .sp u b => (List.range ((b + a.n - 1) / 256 - b / 256 + 1)).map fun i => (0, u * 2 ^ 14 + b / 256 + i)
  | .va va => (piecesOf va a.n).flatMap fun p =>
      match (if ctx = 0 then physLeaf (p.1 % 2 ^ 57) else s.walk (s.readDesc ctx) (p.1 % 2 ^ 57)) with
      | .error _ => []
      | .ok l => match l.place (p.1 % 2 ^ 57) with
        | .mem pa => (linesOf pa p.2).map fun i => (1, i)
        | .host port b => (linesOf b p.2).map fun i => (2 + port, i)
        | .far m pa => (linesOf pa p.2).map fun i => (16 + m, i)

/-- The bytes of an access where they lie. -/
def accSpans (s : State) (ctx : Nat) (a : Acc) : List Trail :=
  match a.loc with
  | .sp u b => [spTrail false u b a.n]
  | .va va => (piecesOf va a.n).filterMap fun p =>
      match (if ctx = 0 then physLeaf (p.1 % 2 ^ 57) else s.walk (s.readDesc ctx) (p.1 % 2 ^ 57)) with
      | .error _ => none
      | .ok l => some ((Spot.at (l.place (p.1 % 2 ^ 57)) p.2).trail false false)

/-- The reads by which element e finds its coordinates: the index of its row, where that is still to be read, and an XRED's tile
list (R248, R252, R257). -/
def Command.lists (c : Command) (t e : Nat) : List Acc :=
  if c.ixFresh e then [⟨.sp t (c.ixList + 4 * c.ixRow e), 4, .read, 0, none⟩]
  else if c.fn == 7 && laySpace c.sl == 1 then [⟨.sp t (c.val 1), 2 * c.redK, .read, 0, none⟩]
  else []

/-! ### Ends of an element -/

/-- An element that does not perform: a fault ends its command, which retires with its trap (R265). A suspension waits until the
atomics of the elements before it are performed (R228). -/
def State.stopElem (s : State) (k : XCtx) (r : XStop) : State :=
  let s0 := s.forget
  match r with
  | .fault f => s0.setCmd k.t { k.c with trap := some (f.1, BitVec.ofNat 64 f.2), done := true }
  | .susp q => if k.c.opsOut = 0 then s0.suspendCmd k.t k.c q else s0
  | .stall ctx va => s0.setCmd k.t { k.c with stalled := some (ctx, va), rewalk := false }
  | .wait => s0

/-- Bytes moved by the tile's channel (event 0x10). -/
def Tile.countMoved (x : Tile) (n : Nat) : Tile :=
  let m := x.movedRest + n
  { x.count 0x10 (m / 64) with movedRest := m % 64 }

/-- What a held push still has to push goes in as far as there is room: a head and a payload independently (R245). -/
def Tile.pushHeld (x : Tile) (c : Command) : Tile × Command :=
  match c.held with
  | none => (x, c)
  | some h =>
    let (x1, hd) := match h.head with
      | some w => if x.queueRoom h.side ≥ 1 then (x.pushQueue h.side (toBytes 2 w.toNat) true, none) else (x, some w)
      | none => (x, none)
    let (x2, pl) := match h.payload with
      | some p => if x1.queueRoom (2 + h.side) ≥ p.length then (x1.pushQueue (2 + h.side) p true, none) else (x1, some p)
      | none => (x1, none)
    (x2, { c with held := if hd.isNone && pl.isNone then none else some { h with head := hd, payload := pl } })

/-- A command with a last step of its own after its elements: XFST's lane result, XSNAP's delta head, and the header of an XCOMP
of no bytes (R275, R282, R285). -/
def Command.lastStep (c : Command) : Bool := c.fn == 0x12 || c.fn == 0x19 || (c.fn == 0x10 && c.count == 0)

/-- An element has performed: the next one, or the command is done. -/
def Command.next (c : Command) : Command :=
  { c with e := c.e + 1, done := if c.lastStep then c.e ≥ c.count else c.e + 1 ≥ c.count }

/-- An element of n bytes has performed, with its push: a push that finds no room holds the element (R245). -/
def State.endElem (s : State) (k : XCtx) (n : Nat) (counts : List (Nat × Nat)) (push : Option HeldPush) : State :=
  let (s1, c) := s.countPages k k.c counts
  let (x, c1) := (s1.tile k.t).pushHeld { c with held := push }
  s1.setTile k.t ((x.countMoved n).setCmd (if c1.held.isNone then c1.next else c1))

/-! ### Copies and conversions -/

/-- What an element that only copies or converts writes and pushes. -/
structure Out where
  outs : List (List Byte)
  push : Option HeldPush := none

/-- The bytes an element reads, then where its writes land, and the pages to count: a source fault comes before a destination's
(R228). -/
def readsThenWrites (k : XCtx) (s : State) (reads writes : List Acc) : XRes (List (List Byte) × List Touched × List (Nat × Nat)) :=
  let (s1, r) := touchAll k reads s
  match r with
  | .error x => (s1, .error x)
  | .ok rs => match readAll k s1 (reads.zip rs) with
    | .error x => (s1, .error x)
    | .ok bs =>
      let (s2, q) := touchAll k writes s1
      match q with
      | .error x => (s2, .error x)
      | .ok ys => (s2.note (readTrail (reads.zip rs)), .ok (bs, ys, (rs ++ ys).flatMap fun y => y.counts))

/-- Reads, then writes, of an element (R228): nothing is written unless every access translates. -/
def runElem (k : XCtx) (s : State) (reads writes : List Acc) (out : List (List Byte) → Out) : State :=
  let (s1, r) := readsThenWrites k s reads writes
  match r with
  | .error x => s1.stopElem k x
  | .ok (bs, ys, counts) =>
    let o := out bs
    let ws := (writes.zip ys).zipWith (fun p b => (p.1, p.2, b)) o.outs
    match s1.writeAll k.t k.c.word.cap.q (s1.logOfTile k.t) ws with
    | none => s1.forget
    | some s2 =>
      let n := ((o.outs.map List.length).foldl (· + ·) 0) +
        (match o.push with
         | some h => (if h.head.isSome then 2 else 0) + (match h.payload with | some p => p.length | none => 0)
         | none => 0)
      (s2.note (writeTrail (layDesc k.c.dl) ws)).endElem k n counts o.push

/-- Payload bytes of a block from its head and body (R251): 4w, none for a zero block or a reserved code. -/
def payloadOf (head : Nat) (body : List Byte) : List Byte := body.take (4 * codeWidth (head % 256))

/-- The body a described copy writes (R251). -/
def copyBody (head : Nat) (body : List Byte) : List Byte :=
  let code := head % 256
  if code ≠ 0 && codeWidth code = 0 then body else padTo 64 (payloadOf head body)

/-- A push to a stream; an empty payload is no push. -/
def streamPush (side : Nat) (head : Option Nat) (payload : List Byte) : Option HeldPush :=
  if head.isNone && payload.isEmpty then none
  else some { side := side, head := head.map (BitVec.ofNat 16), payload := if payload.isEmpty then none else some payload }

/-- XCOPY (R251) from bytes read: into storage or a stream. -/
def copyOut (c : Command) (bs : List (List Byte)) : Out :=
  let stream := laySpace c.dl == 3
  let b := layBase c.dl % 4
  if layDesc c.sl then
    let body := bs.getD 0 []
    let head := bs.getD 1 []
    if stream then { outs := [], push := streamPush (b % 2) (some (ofBytes head)) (payloadOf (ofBytes head) body) }
    else { outs := [copyBody (ofBytes head) body, head] }
  else if !stream then { outs := [bs.getD 0 []] }
  else if b ≥ 2 then { outs := [], push := streamPush (b % 2) (some (ofBytes (bs.getD 0 []))) [] }
  else if layFmt c.sl == 15 then
    match bs with
    | [lo, hi] => { outs := [], push := streamPush b none [byteAt lo 0 ||| (byteAt hi 0 <<< 4)] }
    | _ => { outs := [] }
  else { outs := [], push := streamPush b none (bs.getD 0 []) }

/-- The start of XCONV's generator at block e (R255). -/
def convSeed (seed t q e : Nat) : Nat :=
  let g := (seed ^^^ t * 0x9E3779B9 ^^^ q * 0x85EBCA6B ^^^ e * 0x2545F491) % 2 ^ 32
  if g = 0 then 1 else g

/-- XCONV (R254, R44): one quantised block; FP_FLAGS do not change. Its generator starts by the TILE_ID at which the command was accepted,
so that a restored command draws the same bits (R255, log 31); tile t's where that is not known. -/
def convOut (c : Command) (t e : Nat) (bs : List (List Byte)) : Out :=
  let ty := codeType (layFmt c.dl)
  let rnd := c.var
  let g := convSeed c.word.cap.seed.toNat (c.vtile.getD t) c.word.cap.q e
  let us := (List.range 32).map fun i => if rnd = 4 then bits (xorshiftN (i + 1) g) 16 16 else 0
  let q := quantGroup ty rnd us (bs.map fun b => (fmtOfTy (layFmt c.sl)).decode (ofBytes b))
  let pay := (packBody (layFmt c.dl) (q.2.2.map fun r => r.1)).take (4 * codeWidth (layFmt c.dl))
  let head := layFmt c.dl + 256 * q.1
  if laySpace c.dl = 3 then { outs := [], push := streamPush (layBase c.dl % 2) (some head) pay }
  else { outs := [padTo 64 pay, toBytes 2 head] }

/-! ### Atomics (R236, R257, R258) -/

/-- An operation on values of a type: 0 add, 1 min, 2 max, 3 and, 4 or, 5 xor, 6 swap. -/
def atomOp (ty op d x : Nat) : Nat :=
  if op = 6 then x
  else if ty = 10 then
    if op = 0 then (Fmt.f32.add 0 0 (Fmt.f32.decode d) (Fmt.f32.decode x)).1 else Fmt.f32.minmax (op == 2) d x
  else match op with
    | 3 => d &&& x
    | 4 => d ||| x
    | 5 => d ^^^ x
    | o => (redInt o ty d x).1

/-- The launch ordinal, POINT_ID and replay mode that entries of a tile's point carry (R396). -/
def State.replayOf (s : State) (t : Nat) : BitVec 2 := match s.launchOf t with | some l => l.replay | none => 0

/-- A merge arrival or a row update in the replay log (kind 2 of Table 20-5); none where it must wait. -/
def State.logMerge (s : State) (mode : BitVec 2) (ord id line q e : Nat) : Option State :=
  s.logEvent mode [2 * 2 ^ 56 + ord % 2 ^ 48, line % 2 ^ 48, id, q % 2 ^ 32 + e % 2 ^ 32 * 2 ^ 32]

/-- Addresses of the bytes of module memory in a list of pieces. -/
def spotPAs (l : List Spot) : List Nat :=
  l.flatMap fun p => match p with | .at (.mem pa) n => (List.range n).map (pa + ·) | _ => []

/-- An atomic element, its sources combined to x: an operation sent to the write queue of its line (R236), or an update of a row
(R257, R258). `ret` is where the old value goes. -/
def runAtom (k : XCtx) (s : State) (reads writes : List Acc) (op : Nat) (x : List (List Byte) → Nat) : State :=
  let (s1, r) := readsThenWrites k s reads writes
  match r with
  | .error e => s1.stopElem k e
  | .ok (bs, ys, counts) =>
    let ty := layFmt k.c.dl
    let n := xBytes k.c.dl
    let retAt : Option (Nat × Nat) := match writes[1]?.map Acc.loc with
      | some (.sp u a) => some (u, a)
      | _ => none
    match writes.zip ys with
    | [] => s1.forget
    | (a, y) :: _ =>
      match a.loc with
      | .va _ =>
        let pas := spotPAs y.spots
        let x0 := s1.tile k.t
        let slot := match x0.point with | some p => p.slot | none => 64
        let o : WqOp :=
          { tile := k.t, cslot := k.c.cslot, e := k.e, pas := pas, ty := ty, op := op, x := BitVec.ofNat 64 (x bs), ret := retAt,
            slot := slot, q := k.c.word.cap.q, wid := BitVec.ofNat 64 (s1.pointKey k.t).2
            cut := (s1.cut? (16 + s1.dieOf k.t)).isSome }
        let d := dieOfLine (pas.headD 0 / 64)
        (s1.sendOp d o).endElem { k with c := { k.c with opsOut := k.c.opsOut + 1 } } n counts none
      | .sp u b =>
        let key := s1.pointKey k.t
        match s1.logMerge (s1.replayOf k.t) key.1 key.2 (b / 256) k.c.word.cap.q k.e with
        | none => s1.forget
        | some s2 =>
          let old := ofBytes ((s2.tile u).readBytes b n)
          let new := atomOp ty op old (x bs)
          let s3 := (s2.note [{ spTrail false u b n with now := true }]).moveSpan k.t k.c.word.cap.q u b (toBytes n new)
          let s4 := match retAt with
            | some (v, c) => s3.moveSpan k.t k.c.word.cap.q v c (toBytes n old)
            | none => s3
          s4.endElem k n counts none

/-! ### Appends, prefetches, waits -/

/-- XAPND's element (R259, R315): the item into the slot behind the last, and the count, at once. An element that finds the list
full, or its point away, holds the channel (R309). A tile that holds no point of a list launch is case 6, one of another context
case 5. -/
def runAppend (k : XCtx) (s : State) (reads : List Acc) : State :=
  match s.appendTo k.t k.c.word with
  | .away => s.setCmd k.t { k.c with full := true }
  | .nobody => s.stopElem k (.fault (xLaunch 6 k.e))
  | .tile u =>
    let y := s.tile u
    if !y.isList then s.stopElem k (.fault (xLaunch 6 k.e))
    else if !s.sameCtx k.t u then s.stopElem k (.fault (xLaunch 5 k.e))
    else if y.nwl = 0 || y.wlGone || y.wlDone then s.stopElem k (.fault (xLaunch 6 k.e))
    else if y.wlCount ≥ y.wlCap then s.setCmd k.t { k.c with full := true }
    else
      let i := (y.wlHead + y.wlCount) % y.wlCap
      let (s1, r) := readsThenWrites k s reads (if u = k.t then [⟨.sp u (y.wlSlot i), 64, .write, 1, none⟩] else [])
      match r with
      | .error x => s1.stopElem k x
      | .ok (bs, _, counts) =>
        let z := s1.tile u
        let s2 := ((s1.setTile u { z.moveBytes (z.wlSlot i) k.t k.c.word.cap.q (bs.getD 0 []) with wlCount := z.wlCount + 1 }).note
          [spTrail true u (z.wlSlot i) 64]).releaseTo u listSem 2 (CopyMark.byChan k.t (· ≤ k.c.word.cap.q))
        (s2.listCount u 1 0).endElem { k with c := { k.c with full := false } } 64 counts none

/-- XPREF's element (R262): the walk fills an entry, or is dropped; nothing else changes. -/
def runPrefetch (k : XCtx) (s : State) (reads : List Acc) : State :=
  let s1 := reads.foldl (fun s0 a => match a.loc with
    | .va va => (piecesOf va a.n).foldl (fun s0 p => (s0.xlate k.t (k.die s0) (k.ctx s0) p.1 .read).1) s0
    | .sp _ _ => s0) s
  s1.setCmd k.t k.c.next

/-- XWAIT (R261): it takes its place among the waiters of its semaphore, and is done once the unit has served it (R327), with an acquire
for the younger commands of its channel (R294). -/
def runWait (k : XCtx) (s : State) : State :=
  let x := s.tile k.t
  let sem := k.c.xc.sem.toNat
  let n := k.c.val 4 % 2 ^ 32
  let ended : Command := { k.c with e := 1, done := true }
  let acquired (y : Tile) : Tile := y.chanAcquired k.c.word.cap.q sem k.c.xc.scope.toNat
  if n = 0 then s.setTile k.t ((acquired x).setCmd ended)
  else match x.waiters.find? (fun w => w.eng == .X) with
    | some w =>
      if w.served then s.setTile k.t ((acquired { x with waiters := x.waiters.filter fun v => v.eng != Engine.X }).setCmd ended) else s
    | none => s.setTile k.t ((x.beginWait .X sem n s.scyc).setCmd { k.c with waiting := true })

/-- Element e of a command that does not transform, its index and tile list read. -/
def plainBody (k : XCtx) (s : State) : State :=
  let c := k.c
  match c.accs (s.chanTile k.t c.word.cap.q) k.t k.e with
    | .error f => if c.fn = 12 then s.setCmd k.t c.next else s.stopElem k (.fault f)
    | .ok (rs, ws) =>
      let ty := layFmt c.dl
      match c.fn with
      | 1 => runElem k s rs ws (copyOut c)
      | 5 => runElem k s rs ws (convOut c k.t k.e)
      | 6 => runElem k s rs ws fun bs =>
          let o := copyOut { c with word := { c.word with cap := { c.word.cap with dl := 0 } } } bs
          { outs := c.mask.flatMap fun _ => o.outs }
      | 7 =>
        let op := if c.sub % 2 = 1 then c.var % 4 else 6
        runAtom k s rs ws op fun bs =>
          match bs.map ofBytes with
          | [] => 0
          | x :: xs => xs.foldl (atomOp ty (c.var % 4)) x
      | 8 => runAtom k s rs ws c.var fun bs => ofBytes (bs.getD 0 [])
      | 9 => runAppend k s rs
      | 12 => runPrefetch k s rs
      | _ => runElem k s rs ws fun bs => { outs := [bs.getD 0 []] }

/-- Element e of a command that does not transform: what it reads to find its coordinates is under the watchpoints (R387) and
may be older than its rows now are (R248), and the index of a row is read when the row's first element is reached (R252). -/
def plainElem (k : XCtx) (s : State) : State :=
  if k.c.fn = 11 then runWait k s
  else
    let (s1, r) := touchAll k (k.c.lists k.t k.e) s
    match r with
    | .error x => s1.stopElem k x
    | .ok ys =>
      plainBody { k with c := k.c.withIx (s1.chanTile k.t k.c.word.cap.q) k.e } (s1.note (readTrail ((k.c.lists k.t k.e).zip ys)))

end Sys2Proof.Machine
end

