-- ==== Sys2Proof/Machine/Codec.lean ====
section
/-! DEFINITION. Compressed buffers as data: the header and its validity (R268, R269), the codecs ZD and DS (R272, R273), a
transducer lane (R200, R284), frames (R271, R274), and tolerance (R279, R280). -/

namespace Sys2Proof.Machine

/-! ### The buffer header (Table 14-1) -/

/-- A field of a 64-byte header: word w, bits [lo+len-1 : lo]. -/
def bufField (h w lo len : Nat) : Nat := bits h (64 * w + lo) len

def bufMagic : Nat := 0x42465848
def bufCodec (h : Nat) : Nat := bufField h 0 40 2
def bufTol (h : Nat) : Bool := bufField h 0 44 1 == 1
def bufPw (h : Nat) : Nat := bufField h 0 45 2
def bufRaw (h : Nat) : Nat := bufField h 1 0 48
def bufFrames (h : Nat) : Nat := bufField h 2 0 32
def bufTfmt (h : Nat) : Nat := bufField h 4 16 8
def bufTolu (h : Nat) : Nat := bufField h 4 0 16
def bufDtab (h : Nat) : Nat := bufField h 5 0 33
def bufRef (h : Nat) : Nat := bufField h 6 0 48
def bufCand (h : Nat) : Nat := bufField h 7 0 48

/-- A valid header (R269). -/
def bufValid (h : Nat) : Bool :=
  bufField h 0 0 32 == bufMagic && bufField h 0 32 8 == 1 && bufField h 0 48 4 == 0 && bufPw h != 3 &&
    bufField h 0 52 12 == 0 && bufField h 0 47 1 == 0 && bufField h 1 48 16 == 0 && bufField h 2 32 32 == 0 &&
    bufField h 3 48 16 == 0 && bufField h 4 24 40 == 0 && bufField h 5 33 31 == 0 && bufField h 6 48 16 == 0 &&
    bufField h 7 48 16 == 0 &&
    (!bufTol h || (bufCodec h == 0 && 8 ≤ bufTfmt h && bufTfmt h ≤ 12 && bufRef h % 4 == 0 && bufCand h % 4 == 0)) &&
    !(bufCodec h == 3 && bufField h 0 42 2 ≥ 2)

/-- The header that XCOMP writes (R275). -/
def bufHeader (codec xp pw raw frames : Nat) : Nat :=
  bufMagic + 2 ^ 32 + codec * 2 ^ 40 + xp * 2 ^ 42 + pw * 2 ^ 45 + 2 ^ 64 * (raw % 2 ^ 48) + 2 ^ 128 * (frames % 2 ^ 32)

/-- First byte of frame data (R271). -/
def frameStart (frames : Nat) : Nat := 64 + 64 * ceilDiv (8 * frames) 64

/-- Raw bytes of frame f of a buffer of raw bytes. -/
def frameRaw (raw f : Nat) : Nat := min 4096 (raw - 4096 * f)

/-- A frame-table entry (Table 14-2). -/
def frameEntry (xp mode len off : Nat) : Nat := xp * 2 ^ 56 + mode * 2 ^ 54 + len * 2 ^ 41 + off % 2 ^ 41

def entMode (e : Nat) : Nat := bits e 54 2
def entLen (e : Nat) : Nat := bits e 41 13
def entOff (e : Nat) : Nat := bits e 0 41

/-- Bytes cut into pieces of k; n bounds their number. -/
def cutBytes (k : Nat) : (n : Nat) → List Byte → List (List Byte)
  | 0, _ => []
  | n + 1, bs => if bs.isEmpty then [] else bs.take k :: cutBytes k n (bs.drop k)

/-- Some byte is not zero. -/
def anyByte (bs : List Byte) : Bool := bs.any fun b => b != 0

/-! ### ZD (R272) -/

/-- Plane p of a byte string of width b. -/
def planeOf (b p : Nat) (d : List Byte) : List Byte := ((d.zipIdx).filter fun x => x.2 % b == p).map fun x => x.1

/-- Differences mod 256 from the byte before. -/
def deltas (prev : Byte) : List Byte → List Byte
  | [] => []
  | x :: l => (x - prev) :: deltas x l

/-- Sums mod 256: the inverse of `deltas`. -/
def undeltas (prev : Byte) : List Byte → List Byte
  | [] => []
  | x :: l => (prev + x) :: undeltas (prev + x) l

/-- Planes woven back into a byte string: byte b k + p from plane p at k. -/
def weave (b : Nat) (planes : List (List Byte)) (n : Nat) : List Byte :=
  (List.range n).map fun i => byteAt (planes.getD (i % b) []) (i / b)

/-- The 64-bit mask of the nonzero pieces. -/
def maskBytes (l : List (List Byte)) : Nat := maskOf (fun i => anyByte (l.getD i [])) 64

/-- A frame encoded by ZD with planes of 2^pw bytes. -/
def zdEncode (pw : Nat) (raw : List Byte) : List Byte :=
  let b := 2 ^ pw
  let lines := cutBytes 64 64 raw
  let d := (lines.filter anyByte).flatten
  let p := (List.range b).flatMap fun i => deltas 0 (planeOf b i d)
  let groups := cutBytes 64 64 p
  toBytes 8 (maskBytes lines) ++ toBytes 8 (maskBytes groups) ++ (groups.filter anyByte).flatten

/-- Pieces of 64 bytes put at the places a mask names below n, zeros elsewhere. -/
def spread (mask : Nat) : (n i : Nat) → List Byte → List Byte
  | 0, _, _ => []
  | n + 1, i, bs =>
    if bit mask i then padTo 64 (bs.take 64) ++ spread mask n (i + 1) (bs.drop 64)
    else List.replicate 64 0 ++ spread mask n (i + 1) bs

/-- A ZD frame decoded to n lines; none where its masks and length disagree (R276). -/
def zdDecode (pw lines : Nat) (enc : List Byte) : Option (List Byte) :=
  let m1 := ofBytes (enc.take 8)
  let m2 := ofBytes ((enc.drop 8).take 8)
  let n := popCount m1 64
  let m := popCount m2 64
  if enc.length ≠ 16 + 64 * m || m1 ≥ 2 ^ lines || m2 ≥ 2 ^ n then none
  else
    let p := spread m2 n 0 (enc.drop 16)
    let b := 2 ^ pw
    let w := 64 * n / b
    let planes := (List.range b).map fun i => undeltas 0 ((p.drop (w * i)).take w)
    some (spread m1 lines 0 (weave b planes (64 * n)))

/-! ### DS (R273) -/

/-- A frame of blocks, each its body and head, encoded by DS. -/
def dsEncode (blocks : List (List Byte × Nat)) : List Byte :=
  (blocks.flatMap fun b => toBytes 2 b.2) ++ blocks.flatMap fun b => payloadOf b.2 b.1

/-- A DS frame of n blocks decoded; none where its length disagrees. -/
def dsDecode (n : Nat) (enc : List Byte) : Option (List (List Byte × Nat)) :=
  let hs := unpackElems 16 n (ofBytes (enc.take (2 * n)))
  let sizes := hs.map fun h => 4 * codeWidth (h % 256)
  if enc.length ≠ 2 * n + sizes.foldl (· + ·) 0 then none
  else
    some ((hs.zip sizes).foldl (fun (acc : List (List Byte × Nat) × List Byte) x =>
      (acc.1 ++ [(padTo 64 (acc.2.take x.2), x.1)], acc.2.drop x.2)) ([], enc.drop (2 * n))).1

/-! ### Transducer lanes (R200, R284) -/

/-- A table word: base in KiB, start state, states. -/
def tabBase (g : Nat) : Nat := bits g 0 13
def tabStart (g : Nat) : Nat := bits g 13 10
def tabStates (g : Nat) : Nat := bits g 23 10 + 1

/-- A table lies in the 8 MiB of the die's table SRAM. -/
def tabOk (g : Nat) : Bool := tabBase g + tabStates g ≤ 8192

/-- Whether two tables share a KiB. -/
def tabsMeet (b1 n1 b2 n2 : Nat) : Bool := overlaps b1 n1 b2 n2

/-- A lane at its start. -/
def laneStart (g : Nat) : Lane := { q := tabStart g }

/-- What a table entry did: the lane after it, the bytes it emitted, and whether it consumed the input byte. -/
structure LaneStep where
  lane : Lane
  out : List Byte
  used : Bool

/-- One table entry used on byte x (R284); none is the lane fault. -/
def laneEntry (sram : List Host.Cell) (g : Nat) (l : Lane) (x : Byte) : Option LaneStep :=
  let e := Memory.readLE sram (tabBase g * 1024 + (256 * l.q + x.toNat) * 4) 4
  let next := bits e 0 10
  let act := bits e 10 4
  let out := bits e 14 8
  let fr := bits e 22 2
  let hold := bit e 24
  let f0 := l.fields.getD fr []
  if l.q ≥ tabStates g || act > 5 || next ≥ tabStates g then none
  else if bit e 25 && f0.length ≥ 64 then none
  else if hold && l.holds + 1 ≥ 1024 then none
  else
    let f1 := if bit e 25 then f0 ++ [x] else f0
    let seen := min (l.inCount + 1) 16383
    let emit : List Byte := match act with
      | 1 => [BitVec.ofNat 8 out]
      | 2 => f1
      | 3 => toBytes 4 (out + l.q * 2 ^ 8 + seen * 2 ^ 18)
      | _ => []
    let f2 := if bit e 26 then [] else f1
    some
      { lane := { l with
          q := next
          fields := l.fields.set fr f2
          counter := if act = 4 then l.counter + 1 else l.counter
          outCount := l.outCount + emit.length
          inCount := if act = 3 then 0 else if hold then l.inCount else seen
          holds := if hold then l.holds + 1 else 0
          failed := act = 5
          consumed := if hold then l.consumed else l.consumed + 1 }
        out := emit
        used := !hold }

/-- Entries used until the byte is consumed or the lane fails: at most 1,025. -/
def laneByte (sram : List Host.Cell) (g : Nat) (x : Byte) : (n : Nat) → Lane → Option (Lane × List Byte)
  | 0, _ => none
  | n + 1, l =>
    match laneEntry sram g l x with
    | none => none
    | some r =>
      if r.used || r.lane.failed then some (r.lane, r.out)
      else (laneByte sram g x n r.lane).map fun p => (p.1, r.out ++ p.2)

/-- A lane run over bytes until they end or it fails: its output and its last state; none is the lane fault. -/
def laneRun (sram : List Host.Cell) (g : Nat) : List Byte → Lane → Option (List Byte × Lane)
  | [], l => some ([], l)
  | x :: xs, l =>
    if l.failed then some ([], l)
    else match laneByte sram g x 1025 l with
      | none => none
      | some (l', o) => (laneRun sram g xs l').map fun p => (o ++ p.1, p.2)

/-! ### Frames -/

/-- A frame encoded: its mode and stored bytes. A lane that fails leaves its frame raw (log 27). -/
def encodeFrame (codec pw : Nat) (sram : List Host.Cell) (g : Nat) (blocks : List (List Byte × Nat)) : Option (Nat × List Byte) :=
  let raw := blocks.flatMap fun b => b.1
  match codec with
  | 1 =>
    if !anyByte raw then some (2, [])
    else
      let z := zdEncode pw raw
      some (if z.length ≥ raw.length then (0, raw) else (1, z))
  | 2 => some (if blocks.all fun b => b.2 % 256 == 0 then (2, []) else (1, dsEncode blocks))
  | _ => match laneRun sram g raw (laneStart g) with
    | none => none
    | some (o, l) => some (if o.length > raw.length || l.failed then (0, raw) else (1, o))

/-- The head of a zero block as the device writes it: code 0x00, scale byte 0x7F (R32). -/
def zeroHead : Nat := 0x7F00

/-- A frame expanded to its blocks or lines of 64 bytes, with heads for DS; the launch case where it cannot be: 7 where it is
inconsistent (R276), 8 where its lane faults or its table does not lie in the SRAM (R264, R274). -/
def decodeFrame (h : Nat) (sram : List Host.Cell) (mode raw : Nat) (enc : List Byte) : Except Nat (List (List Byte × Nat)) :=
  let n := raw / 64
  let linesOfRaw (bs : List Byte) : List (List Byte × Nat) := (cutBytes 64 64 bs).map fun l => (l, 0)
  let orBad (r : Option (List (List Byte × Nat))) : Except Nat (List (List Byte × Nat)) :=
    match r with | some ls => .ok ls | none => .error 7
  match mode with
  | 0 => orBad (if enc.length = raw && bufCodec h != 2 then some (linesOfRaw enc) else none)
  | 2 => orBad (if enc.isEmpty then some (List.replicate n (List.replicate 64 0, if bufCodec h = 2 then zeroHead else 0)) else none)
  | 1 => match bufCodec h with
    | 1 => orBad ((zdDecode (bufPw h) n enc).map linesOfRaw)
    | 2 => orBad (dsDecode n enc)
    | _ =>
      if !tabOk (bufDtab h) then .error 8
      else match laneRun sram (bufDtab h) enc (laneStart (bufDtab h)) with
        | none => .error 8
        | some (o, _) => orBad (if o.length = raw then some (linesOfRaw o) else none)
  | _ => .error 7

/-! ### Tolerance (R279, R280) -/

def noRef : Nat := 0xFFFFFFFF

/-- ord of an element of width w. -/
def ordOf (w x : Nat) : Int := if bit x (w - 1) then -((x % 2 ^ (w - 1) : Nat) : Int) else (x % 2 ^ (w - 1) : Nat)

/-- The elements of a block of type t. -/
def tolElems (t : Nat) (b : List Byte) : List Nat := unpackElems (fmtOfTy t).wid (512 / (fmtOfTy t).wid) (ofBytes b)

/-- Two blocks within tolerance. -/
def within (t tolu : Nat) (a b : List Byte) : Bool :=
  let f := fmtOfTy t
  (List.zipWith (fun x y => !(f.decode x).isNaN && !(f.decode y).isNaN && decide ((ordOf f.wid x - ordOf f.wid y).natAbs ≤ tolu))
    (tolElems t a) (tolElems t b)).all id

/-- The sum S of a block (R280). -/
def tolSum (t : Nat) (b : List Byte) : Nat :=
  let f := fmtOfTy t
  ((tolElems t b).zipIdx.map fun x => x.1 / 2 ^ f.mw * 2 ^ f.mw * (2 * x.2 + 1)).foldl (· + ·) 0 % 2 ^ 16

end Sys2Proof.Machine
end

