-- ==== Sys2Proof/Machine/XForm.lean ====
section
/-! DEFINITION. The transforming commands at their elements (R263, R268-R286, R443, Tables 13-3 and 13-6): XCOMP, XMRG, XSNAP, XHDR,
XTLD, XFST, and XCOPY from a compressed buffer (R251, R276, R281). -/

namespace Sys2Proof.Machine

/-! ### Locations -/

/-- A location n bytes further on. -/
def XLoc.plus (l : XLoc) (n : Nat) : XLoc :=
  match l with
  | .sp t a => .sp t (a + n)
  | .va v => .va (v + n)

/-- Coordinate 0 of an entry, every higher one 0 (R263). -/
def xAt (t L n : Nat) (x : Int) : Except (Nat × Nat) XLoc := xResolve t (layPeer L) L n [x, 0, 0, 0]

/-- Source unit e of n bytes: coordinate 0 counts the command's named unit (R263, log 26). -/
def Command.unitAt (c : Command) (t n e : Nat) : Except (Nat × Nat) XLoc := xAt t c.sl n (c.co 0 + (e : Nat))


/-- The block at source unit e, with its head (R263, R273). -/
def Command.blockAt (c : Command) (t e : Nat) : Except (Nat × Nat) (XLoc × XLoc) :=
  match c.unitAt t 64 e with
  | .error x => .error x
  | .ok l => match xHead c.sl l with
    | .error x => .error x
    | .ok h => .ok (l, h)

/-- The base of an entry's own field (R251, R280). -/
def bufBase (t L : Nat) : XLoc :=
  if laySpace L = 2 then .va (layBase L % 2 ^ 57) else .sp (if laySpace L = 0 then t else layPeer L) (layBase L % 2 ^ 22)

/-- An access of n bytes, in the scratchpad only below its end and, for a write, above row 3. -/
def mkAcc (no e : Nat) (l : XLoc) (n : Nat) (kind : Access) (opnd : Nat) : Except XFault Acc :=
  match l with
  | .sp _ a =>
    if a + n > spBytes then .error (xLayout no 5 0 e)
    else if kind != .read && a < 1024 then .error (xLayout no 3 0 e)
    else .ok ⟨l, n, kind, opnd, none⟩
  | .va _ => .ok ⟨l, n, kind, opnd, none⟩

/-! ### An element in steps -/

/-- What an element gathers while it goes: its state, and the writes it will make. -/
structure Walk where
  s : State
  writes : List (Acc × Touched × List Byte) := []
  counts : List (Nat × Nat) := []
  tol : Bool := true
  reads : List Trail := []

/-- A step of an element: it goes on, or it stops in a state. -/
abbrev Step (α : Type) := Walk → Walk × Except XStop α

/-- Two steps in order. -/
def Step.then {α β : Type} (p : Step α) (f : α → Step β) : Step β := fun w =>
  match p w with
  | (w1, .error x) => (w1, .error x)
  | (w1, .ok a) => f a w1

def Step.ok {α : Type} (a : α) : Step α := fun w => (w, .ok a)
def Step.fail {α : Type} (f : XFault) : Step α := fun w => (w, .error (.fault f))
def Step.waits {α : Type} : Step α := fun w => (w, .error .wait)

/-- The access touched: its pieces translate, and it is noted for the counters. -/
def Step.touch (k : XCtx) (a : Acc) : Step Touched := fun w =>
  let (s1, r) := Machine.touch k w.s a
  match r with
  | .error x => ({ w with s := s1 }, .error x)
  | .ok y => ({ w with s := s1, counts := w.counts ++ y.counts, tol := w.tol && y.tol }, .ok y)

/-- Bytes read. -/
def Step.read (k : XCtx) (no : Nat) (l : XLoc) (n opnd : Nat) : Step (List Byte) :=
  match mkAcc no k.e l n .read opnd with
  | .error f => Step.fail f
  | .ok a => (Step.touch k a).then fun y w =>
    match readAll k w.s [(a, y)] with
    | .error x => (w, .error x)
    | .ok bs => ({ w with reads := w.reads ++ readTrail [(a, y)] }, .ok (bs.getD 0 []))

/-- Bytes to be written where the element performs. -/
def Step.write (k : XCtx) (no : Nat) (l : XLoc) (bs : List Byte) : Step Unit :=
  if bs.isEmpty then Step.ok ()
  else match mkAcc no k.e l bs.length .write 1 with
    | .error f => Step.fail f
    | .ok a => (Step.touch k a).then fun y w => ({ w with writes := w.writes ++ [(a, y, bs)] }, .ok ())

/-- A list of steps in order. -/
def Step.all {α β : Type} (f : α → Step β) : List α → Step (List β)
  | [] => Step.ok []
  | a :: l => (f a).then fun b => (Step.all f l).then fun bs => Step.ok (b :: bs)

/-- An element performed: its writes in order, then what its answer does to the state and the command; nothing where it stops,
or while the undo log is full. -/
def State.runSteps {α : Type} (s : State) (k : XCtx) (p : Step α) (fin : α → State → Command → State × Command)
    (push : α → Option HeldPush) : State :=
  let (w, r) := p { s := s }
  match r with
  | .error x => w.s.stopElem k x
  | .ok a =>
    match w.s.writeAll k.t k.c.word.cap.q (w.s.logOfTile k.t) w.writes with
    | none => w.s.forget
    | some s0 =>
      let s1 := s0.note (w.reads ++ writeTrail (k.c.expands && layDesc k.c.dl) w.writes)
      let (s2, c) := fin a s1 k.c
      let n := (w.writes.map fun x => x.2.2.length).foldl (· + ·) 0 +
        (match push a with
         | some h => (if h.head.isSome then 2 else 0) + (match h.payload with | some b => b.length | none => 0)
         | none => 0)
      s2.endElem { k with c := c } n w.counts (push a)

/-- The table SRAM of the die of tile t's channel. -/
def State.sramOf (s : State) (t : Nat) : List Host.Cell := (s.die (s.dieOf t)).tsram

/-! ### What a command writes at captured places -/

/-- Codec, expansion point, plane width and frames of an XCOMP (R272, R275): the plane width is that of an element of sl. -/
def Command.codec (c : Command) : Nat := c.var / 4
def Command.point (c : Command) : Nat := c.var % 4
def Command.planes (c : Command) : Nat :=
  let w := if layDesc c.sl then codeWidth (layFmt c.sl) else xBits c.sl
  if w ≤ 8 then 0 else if w = 16 then 1 else 2
def Command.frames (c : Command) : Nat := if c.codec = 0 then 0 else ceilDiv (c.val 4) 4096

/-- Bytes from the base of dl on whose place captured values alone give: a header, and an XCOMP's frame table or plain lines (R243, R263,
R275). -/
def Command.reach (c : Command) : Nat :=
  if c.fn = 0x10 then 64 + (if c.codec = 0 then c.val 4 else 8 * c.frames) else 64

/-- The base of dl, at the captured coordinate 0 (R263, log 26). -/
def Command.baseAt (c : Command) (t : Nat) : Except (Nat × Nat) XLoc := xAt t c.dl c.reach (c.co 2)

/-! ### XHDR (R270) -/

def hdrSteps (k : XCtx) : Step (List HeldPush) :=
  match k.c.unitAt k.t 64 0, k.c.baseAt k.t with
  | .error (a, d), _ => Step.fail (xLayout k.c.slNo a d 0)
  | _, .error (a, d) => Step.fail (xLayout k.c.dlNo a d 0)
  | .ok l, .ok b => (Step.read k k.c.slNo l 64 0).then fun bs =>
      if bufValid (ofBytes bs) then (Step.write k k.c.dlNo b bs).then fun _ => Step.ok []
      else Step.fail (xLaunch 7 k.e)

/-! ### XTLD (R200, R283) -/

/-- The bytes at a location where they can be read. -/
def State.bytesAt (s : State) (t : Nat) (l : XLoc) (n : Nat) : Option (List Byte) :=
  match l with
  | .sp u a => if a + n > spBytes then none else some ((s.tile u).readBytes a n)
  | .va va => s.readVA (s.tile t).tctx va n

/-- The header of a compressed source where it can be read (R276), as the channel finds it. -/
def Command.seenHeader (c : Command) (s : State) (t : Nat) : Option Nat :=
  ((s.chanView t c.word.cap.q).bytesAt t (bufBase t c.sl) 64).map ofBytes

/-- The table a command runs a lane on: XFST's, codec 3's encoding table, or the one that the header of a codec 3 source names
(R274, R283). -/
def Command.laneTab (c : Command) (s : State) (t : Nat) : Option Nat :=
  if c.fn = 0x19 then some (c.val 1)
  else if c.fn = 0x10 && c.var / 4 == 3 then some (c.val 1)
  else if c.expands then (((c.seenHeader s t).filter bufValid).filter fun h => bufCodec h == 3).map bufDtab
  else none

/-- The commands of a die's channels. -/
def State.cmdsOn (s : State) (d : Nat) : List Command := s.tiles.flatMap fun p => if s.dieOf p.1 = d then p.2.chan else []

/-- The tables of the lanes taken on a die. -/
def State.lanesOn (s : State) (d : Nat) : List Nat :=
  (s.cmdsOn d).filterMap fun c => if c.accepted && !c.done then c.tab else none

/-- A lane may start on a table of tile t's die: one of its 64 lanes is free, and no XTLD is in the middle of loading the table
(R200, R283). -/
def State.laneOpen (s : State) (t g : Nat) : Bool :=
  let d := s.dieOf t
  (s.lanesOn d).length < 64 &&
    !(s.cmdsOn d).any fun c => c.fn == 0x18 && c.accepted && !c.done && c.e != 0 &&
      tabsMeet (c.val 2 % 2 ^ 13) (c.val 4) (tabBase g) (tabStates g)

/-- A command takes the lane it needs before its element; none where it must wait for it. -/
def State.takeLane (s : State) (t : Nat) (c : Command) : Option Command :=
  match c.tab, c.laneTab s t with
  | none, some g => if s.laneOpen t g then some { c with tab := some g } else none
  | _, _ => some c

def loadSteps (k : XCtx) (s : State) : Step (List Byte) :=
  let base := k.c.val 2 % 2 ^ 13
  if (s.lanesOn (s.dieOf k.t)).any fun g => tabsMeet base (k.c.val 4) (tabBase g) (tabStates g) then Step.waits
  else match k.c.unitAt k.t 1024 k.e with
    | .error (a, d) => Step.fail (xLayout k.c.slNo a d k.e)
    | .ok l => Step.read k k.c.slNo l 1024 0

/-! ### XFST (R284, R285) -/

/-- Output byte j of XFST, at coordinate 16 + j of the output (R285). -/
def outSteps (k : XCtx) (off : Nat) (bs : List Byte) : Step Unit :=
  (Step.all (fun (p : Byte × Nat) =>
    match xAt k.t k.c.dl 1 (k.c.co 2 + ((off + p.2 : Nat) : Int)) with
    | .error (a, d) => Step.fail (xLayout k.c.dlNo a d k.e)
    | .ok l => Step.write k k.c.dlNo l [p.1]) bs.zipIdx).then fun _ => Step.ok ()

/-- The lane result (R285). -/
def laneResult (l : Lane) : List Byte :=
  toBytes 8 (l.outCount % 2 ^ 32 + l.consumed % 2 ^ 31 * 2 ^ 32 + ofBool l.failed * 2 ^ 63) ++ toBytes 8 (l.counter.toNat + l.q * 2 ^ 32)

/-- One input byte, with the lane result where it fails the lane; or the lane result once input has ended. -/
def fstSteps (k : XCtx) (s : State) : Step (Option Lane) :=
  let c := k.c
  if c.e ≥ c.count then (outSteps k 0 (laneResult c.lane)).then fun _ => Step.ok none
  else match c.unitAt k.t 1 k.e with
    | .error (a, d) => Step.fail (xLayout c.slNo a d k.e)
    | .ok l => (Step.read k c.slNo l 1 0).then fun bs =>
      match laneByte (s.sramOf k.t) (c.val 1) (byteAt bs 0) 1025 c.lane with
      | none => Step.fail (xLaunch 8 k.e)
      | some (ln, o) => (outSteps k (16 + c.lane.outCount) o).then fun _ =>
        (if ln.failed then outSteps k 0 (laneResult ln) else Step.ok ()).then fun _ => Step.ok (some ln)

/-! ### XSNAP (R201, R282) -/

/-- One 4 KiB block: whether it was emitted. -/
def snapSteps (k : XCtx) : Step Bool :=
  let c := k.c
  match c.unitAt k.t 4096 k.e, c.baseAt k.t with
  | .error (a, d), _ => Step.fail (xLayout c.slNo a d k.e)
  | _, .error (a, d) => Step.fail (xLayout c.dlNo a d k.e)
  | .ok l, .ok b =>
    let entry : XLoc := .va (c.val 1 + 16 * k.e)
    (Step.read k c.slNo l 4096 0).then fun blk => (Step.read k c.slNo entry 16 0).then fun old =>
      let h := shake256 16 blk
      if anyByte old && old == h then Step.ok false
      else
        (Step.write k c.dlNo (b.plus (64 + 4160 * c.outPos)) (toBytes 8 k.e ++ h ++ List.replicate 40 0 ++ blk)).then fun _ =>
          (Step.write k c.dlNo entry h).then fun _ => Step.ok true

/-- The delta head (R282). -/
def deltaSteps (k : XCtx) : Step Unit :=
  match k.c.baseAt k.t with
  | .error (a, d) => Step.fail (xLayout k.c.dlNo a d k.e)
  | .ok b => Step.write k k.c.dlNo b
      (toBytes 8 0x44535848 ++ toBytes 8 (k.c.outPos % 2 ^ 32) ++ toBytes 8 (k.c.val 4 % 2 ^ 48) ++ List.replicate 40 0)

/-! ### XMRG (R280) -/

/-- The block number of element e. -/
def Command.mrgBlock (c : Command) (e : Nat) : Nat := c.val 2 + e

/-- One block: a valid tolerant header, pages that allow it, and one table entry written (R280). -/
def mrgSteps (k : XCtx) : Step Unit :=
  let c := k.c
  let no := c.dlNo
  let base := bufBase k.t c.dl
  let bad : Step Unit := Step.fail (xLaunch 7 k.e)
  let n := c.mrgBlock k.e
  (Step.read k no base 64 1).then fun hb =>
    let h := ofBytes hb
    if !bufValid h || !bufTol h then bad
    else
      let ref (i : Nat) := base.plus (bufRef h + 4 * i)
      let blk (i : Nat) := Step.read k no (base.plus (64 + 64 * i)) 64 1
      let check : Step Unit := fun w => if w.tol then (w, .ok ()) else (w, .error (.fault (xLaunch 7 k.e)))
      (Step.read k no (ref n) 4 1).then fun r =>
        if ofBytes r != noRef then check
        else (blk n).then fun b =>
          let cell := base.plus (bufCand h + 4 * (tolSum (bufTfmt h) b % 1024))
          (Step.read k no cell 4 1).then fun cb =>
            let cnd := ofBytes cb
            let keep := (Step.write k no cell (toBytes 4 n)).then fun _ => check
            if cnd == noRef || cnd == n then keep
            else (Step.read k no (ref cnd) 4 1).then fun rc =>
              if ofBytes rc != noRef then keep
              else (blk cnd).then fun b2 =>
                if within (bufTfmt h) (bufTolu h) b b2 then (Step.write k no (ref n) (toBytes 4 cnd)).then fun _ => check
                else keep

/-! ### XCOMP (R275) -/

/-- Where an XCOMP's first data lie: behind the header and the frame table (R275). -/
def Command.dataStart (c : Command) : Nat := if c.codec = 0 then 64 else frameStart c.frames

/-- Source line i: its 64 bytes, and its head for a block (R273). -/
def lineSteps (k : XCtx) (i : Nat) : Step (List Byte × Nat) :=
  match k.c.unitAt k.t 64 i with
  | .error (a, d) => Step.fail (xLayout k.c.slNo a d k.e)
  | .ok l => (Step.read k k.c.slNo l 64 0).then fun bs =>
    if k.c.codec != 2 then Step.ok (bs, 0)
    else match xHead k.c.sl l with
      | .error (a, d) => Step.fail (xLayout k.c.slNo a d k.e)
      | .ok h => (Step.read k k.c.slNo h 2 0).then fun hb => Step.ok (bs, ofBytes hb)

/-- The header before the first frame: codec 3's is read and checked, the others' written without W3. -/
def compHead (k : XCtx) (b : XLoc) : Step Unit :=
  let c := k.c
  if c.codec = 3 then
    (Step.read k c.dlNo b 64 1).then fun h =>
      if bufValid (ofBytes h) && bufCodec (ofBytes h) == 3 then Step.ok () else Step.fail (xLaunch 7 k.e)
  else
    let h := toBytes 64 (bufHeader c.codec c.point c.planes (c.val 4) c.frames)
    (Step.write k c.dlNo b (h.take 24)).then fun _ => Step.write k c.dlNo (b.plus 32) (h.drop 32)

/-- W3 of the header, last (R275). -/
def compEnd (k : XCtx) (b : XLoc) (stored : Nat) : Step Unit := Step.write k k.c.dlNo (b.plus 24) (toBytes 8 (stored % 2 ^ 48))

/-- One source line; at the last of a frame its lines are read and the frame and its table entry written, and at the last of all W3. The
answer is
the next frame's offset. -/
def compSteps (k : XCtx) (s : State) : Step Nat :=
  let c := k.c
  match c.baseAt k.t with
  | .error (a, d) => Step.fail (xLayout c.dlNo a d k.e)
  | .ok b =>
    let start := c.dataStart
    let pos := if k.e = 0 then start else c.outPos
    let last := k.e + 1 ≥ c.count
    let first : Step Unit := if k.e = 0 then compHead k b else Step.ok ()
    if c.count = 0 then first.then fun _ => (compEnd k b start).then fun _ => Step.ok start
    else
      let f := k.e / 64
      let whole := c.codec != 0 && (k.e % 64 == 63 || last)
      (Step.all (lineSteps k) (if whole then (List.range (k.e % 64 + 1)).map (64 * f + ·) else [k.e])).then fun lines => first.then fun _ =>
        if c.codec = 0 then
          (Step.write k c.dlNo (b.plus pos) (lines.headD ([], 0)).1).then fun _ =>
            (if last then compEnd k b (pos + 64) else Step.ok ()).then fun _ => Step.ok (pos + 64)
        else if !whole then Step.ok pos
        else match encodeFrame c.codec c.planes (s.sramOf k.t) (c.val 1) lines with
        | none => Step.fail (xLaunch 8 k.e)
        | some (mode, enc) =>
          (Step.write k c.dlNo (b.plus pos) enc).then fun _ =>
            (Step.write k c.dlNo (b.plus (64 + 8 * f)) (toBytes 8 (frameEntry c.point mode enc.length pos))).then fun _ =>
              (if last then compEnd k b (pos + enc.length) else Step.ok ()).then fun _ =>
                Step.ok (pos + 64 * ceilDiv enc.length 64)

/-! ### XCOPY from a compressed buffer (R251, R276, R281) -/

/-- A DS buffer and a destination that do not go together (R276). -/
def expandKind (c : Command) (h : Nat) : Option XFault :=
  let ds := !bufTol h && bufCodec h == 2
  let descDst := laySpace c.dl != 3 && layDesc c.dl
  failIf (layDesc c.sl != ds || (if ds then laySpace c.dl != 3 && !layDesc c.dl else descDst)) (xLayout c.dlNo 4 0 0)

/-- The fault of an element whose buffer does not go with its destination, or that reaches past rawlen (R276). -/
def expandBad (c : Command) (h e : Nat) : Option XFault :=
  firstFault [expandKind c h, failIf ((e + 1) * xBits c.sl > 8 * bufRaw h) (xLayout c.slNo 1 0 e)]

/-- The line that block i of a buffer is read from: its own, or for a tolerant buffer the one its reference names; the reference is
read once for all the elements of a block (R281). -/
def refLine (k : XCtx) (b : XLoc) (h i : Nat) : Step Nat :=
  if !bufTol h then Step.ok i
  else match k.c.ref.filter fun p => p.1 == i with
    | some p => Step.ok p.2
    | none => (Step.read k k.c.slNo (b.plus (bufRef h + 4 * i)) 4 0).then fun r => Step.ok (if ofBytes r = noRef then i else ofBytes r)

/-- Line i of a buffer, decompressed, with its head for DS; `j` is the line a codec 0 buffer reads it from. -/
def bufLine (k : XCtx) (s : State) (b : XLoc) (h i j : Nat) : Step (List Byte × Nat) :=
  let no := k.c.slNo
  if bufCodec h = 0 then (Step.read k no (b.plus (64 + 64 * j)) 64 0).then fun l => Step.ok (l, 0)
  else
    let f := i / 64
    (Step.read k no (b.plus (64 + 8 * f)) 8 0).then fun eb =>
      let e := ofBytes eb
      (if entLen e = 0 then Step.ok [] else Step.read k no (b.plus (entOff e)) (entLen e) 0).then fun enc =>
        match decodeFrame h (s.sramOf k.t) (entMode e) (frameRaw (bufRaw h) f) enc with
        | .error case => Step.fail (xLaunch case k.e)
        | .ok ls => Step.ok (ls.getD (i % 64) ([], 0))

/-! ### Racing reads (R278) -/

/-- What a read of a buffer that is being written finds: the bytes that stand there, values the spec leaves open, or what the
decoder takes for a bad frame (log 53). -/
inductive Race where
  | as | free (n : Nat) | bad
  deriving DecidableEq, Repr

/-- What an element reads of a buffer with header h for block i: the line, with the reference to it; or the table entry of its frame, and the
frame. -/
def Command.frameAccs (c : Command) (s : State) (t h i : Nat) : List Acc :=
  let b := bufBase t c.sl
  let rd (off n : Nat) : Acc := ⟨b.plus off, n, .read, 0, none⟩
  if bufCodec h = 0 then
    rd (64 + 64 * i) 64 ::
      (if !bufTol h then [] else
        rd (bufRef h + 4 * i) 4 :: match (s.bytesAt t (b.plus (bufRef h + 4 * i)) 4).map ofBytes with
          | some j => if j = noRef then [] else [rd (64 + 64 * j) 64]
          | none => [])
  else
    let at_ := 64 + 8 * (i / 64)
    rd at_ 8 :: match (s.bytesAt t (b.plus at_) 8).map ofBytes with
      | some e => if entLen e = 0 then [] else [rd (entOff e) (entLen e)]
      | none => []

/-- An access of n bytes at a location, where there is one. -/
def reachAcc (kind : Access) (opnd n : Nat) (l : Except (Nat × Nat) XLoc) : List Acc :=
  match l with
  | .ok l => if n = 0 then [] else [⟨l, n, kind, opnd, none⟩]
  | .error _ => []

/-- The lines of element e's frame that an XCOMP has read, or reads, with it (R275). -/
def Command.frameLines (c : Command) (t e : Nat) : List Acc :=
  (List.range (e % 64 + 1)).flatMap fun i =>
    let l := c.unitAt t 64 (e / 64 * 64 + i)
    reachAcc .read 0 64 l ++
      (if c.codec != 2 then [] else match l with | .ok a => reachAcc .read 0 2 (xHead c.sl a) | .error _ => [])

/-- The accesses that element e of a transforming command, or of an XCOPY from a compressed buffer, makes; where its place depends on data,
all that it may reach (R247, log 25). -/
def Command.formAccs (c : Command) (s : State) (t e : Nat) : List Acc :=
  let rd (n : Nat) (l : XLoc) := reachAcc .read 0 n (.ok l)
  let wr (n : Nat) (l : XLoc) := reachAcc .write 1 n (.ok l)
  let unit (n : Nat) := reachAcc .read 0 n (c.unitAt t n e)
  let based (f : XLoc → List Acc) : List Acc := match c.baseAt t with | .ok b => f b | .error _ => []
  match c.fn with
  | 0x01 =>
    rd 64 (bufBase t c.sl) ++
      (match (c.seenHeader s t).filter bufValid with
       | none => []
       | some h => c.frameAccs s t h (e * xBits c.sl / 512)) ++
      (if laySpace c.dl = 3 then [] else match c.dstAt (s.tile t) t (layPeer c.dl) e with
        | .ok l => l.accs .write 1
        | .error _ => [])
  | 0x10 => c.frameLines t e ++ based fun b =>
      wr 64 b ++ (if c.codec = 0 then wr 64 (b.plus (64 + 64 * e)) else
        wr 8 (b.plus (64 + 8 * (e / 64))) ++ wr (8192 * (e / 64 - c.e / 64 + 1)) (b.plus c.outPos))
  | 0x11 =>
    let b := bufBase t c.dl
    wr 64 b ++ (match (s.bytesAt t b 64).map ofBytes with
      | none => []
      | some h => if !bufValid h then [] else
          wr 4 (b.plus (bufRef h + 4 * c.mrgBlock e)) ++ wr 4096 (b.plus (bufCand h)) ++ wr (bufRaw h) (b.plus 64) ++
            wr (bufRaw h / 16) (b.plus (bufRef h)))
  | 0x12 => unit 4096 ++ wr 16 (.va (c.val 1 + 16 * e)) ++ based fun b =>
      wr 64 b ++ wr (4160 * (e - c.e + 1)) (b.plus (64 + 4160 * c.outPos))
  | 0x13 => unit 64 ++ based (wr 64)
  | 0x18 => unit 1024
  | 0x19 => unit 1 ++ ((List.range (layExt c.dl 0)).filter fun x => decide ((x : Int) < c.co 2 + 16 ∨ c.co 2 + 16 + c.lane.outCount ≤ x)).flatMap
      fun x => reachAcc .write 1 1 (xAt t c.dl 1 x)
  | _ => []

/-- What element e of a command writes, or may write where that depends on data. XMRG's entries are written whole (R280), so that no read
meets them partly written. -/
def Command.writeAccs (c : Command) (s : State) (t e : Nat) : List Acc :=
  if c.fn = 0x11 then []
  else if c.transforms || c.expands then (c.formAccs s t e).filter fun a => a.kind == .write
  else match c.accs (s.tile t) t e with
    | .ok (_, w) => w
    | .error _ => []

/-- Another channel writes what block i of a buffer is read from: a command of it, whatever it does, has elements left that write, or may
write, bytes of the frame or of its table entry (R278). -/
def State.racing (s : State) (t : Nat) (c : Command) (h i : Nat) : Bool :=
  let frame := (c.frameAccs s t h i).flatMap (accSpans s (s.tile t).tctx)
  s.tiles.any fun p => p.1 != t && p.2.chan.any fun d =>
    d.accepted && !d.done && (List.range (d.count - d.e + ofBool d.lastStep)).any fun j =>
      ((d.writeAccs s p.1 (d.e + j)).flatMap (accSpans s p.2.tctx)).any fun w => frame.any w.overlaps

/-- How an element's read of a compressed source goes, and the state with the choices made. -/
def State.race (s : State) (t : Nat) (c : Command) : Race × State :=
  match (c.seenHeader s t).filter bufValid with
  | some h =>
    if s.racing t c h (c.e * xBits c.sl / 512) then
      (if Config.freeBool s.fresh then .as else if Config.freeBool (s.fresh + 1) then .free s.fresh else .bad, { s with fresh := s.fresh + 2 })
    else (.as, s)
  | none => (.as, s)

/-- The block of a buffer that an element reads, and the line it was read from; where it meets a write, values that are free, its head with
them (R278). -/
def blockRead (k : XCtx) (s : State) (race : Race) (b : XLoc) (h i : Nat) : Step ((List Byte × Nat) × Option (Nat × Nat)) :=
  match race with
  | .free n =>
    let bs := (List.range 66).map (Config.raceByte n)
    Step.ok ((bs.take 64, ofBytes (bs.drop 64)), none)
  | _ => (refLine k b h i).then fun j => (bufLine k s b h i j).then fun line =>
      Step.ok (line, if bufTol h then some (i, j) else none)

/-- One element read from a compressed buffer and copied as XCOPY does (R251): the push it makes, and the line its block was read
from. -/
def expandSteps (k : XCtx) (s : State) (race : Race) : Step (List HeldPush × Option (Nat × Nat)) :=
  let c := k.c
  let b := bufBase k.t c.sl
  (Step.read k c.slNo b 64 0).then fun hb =>
    let h := ofBytes hb
    if !bufValid h || race == .bad then Step.fail (xLaunch 7 k.e)
    else match expandBad c h k.e with
      | some f => Step.fail f
      | none =>
        let pos := k.e * xBits c.sl
        (blockRead k s race b h (pos / 512)).then fun read =>
          let line := read.1
          let ref := read.2
          let v := bits (ofBytes line.1) (pos % 512) (xBits c.sl)
          let lo := bits (ofBytes line.1) (pos % 512 - 4) 4
          let bs := if layDesc c.sl then [line.1, toBytes 2 line.2]
            else if layFmt c.sl == 15 && laySpace c.dl == 3 && k.e % 2 == 1 then [toBytes 1 lo, toBytes 1 v]
            else [toBytes (xBytes c.sl) v]
          let o := copyOut c bs
          let push := match o.push with | some p => [p] | none => []
          if laySpace c.dl = 3 then Step.ok (push, ref)
          else match accsAt c.dlNo k.e .write 1 (c.dstAt (s.tile k.t) k.t (layPeer c.dl) k.e) with
            | .error f => Step.fail f
            | .ok accs => (Step.all (fun (p : Acc × List Byte) =>
                (Step.touch k p.1).then fun y w => ({ w with writes := w.writes ++ [(p.1, y, p.2)] }, .ok ()))
                (accs.zip o.outs)).then fun _ => Step.ok (push, ref)

/-! ### Elements and checks -/

/-- A lane that fails ends the command with that byte (R285). -/
def Command.laneAfter (c : Command) (l : Lane) : Command := { c with lane := l, e := if l.failed then c.count else c.e }

/-- A state of a table put into the die's table SRAM (R283). -/
def State.loadTable (s : State) (t a : Nat) (bs : List Byte) : State :=
  s.setDie (s.dieOf t) { s.die (s.dieOf t) with tsram := Memory.writeN (s.sramOf t) a bs }

/-- Element e of a transforming command, or of an XCOPY from a compressed buffer. -/
def formElem (k : XCtx) (s : State) : State :=
  let c := k.c
  match c.fn with
  | 0x01 =>
    let (r, s0) := s.race k.t c
    s0.runSteps k (expandSteps k s0 r) (fun a s1 c1 => (s1, { c1 with ref := a.2 })) fun a => a.1.head?
  | 0x10 => s.runSteps k (compSteps k s) (fun pos s1 c1 => (s1, { c1 with outPos := pos })) fun _ => none
  | 0x11 => s.runSteps k (mrgSteps k) (fun _ s1 c1 => (s1, c1)) fun _ => none
  | 0x12 =>
    if c.e ≥ c.count then s.runSteps k (deltaSteps k) (fun _ s1 c1 => (s1, c1)) fun _ => none
    else s.runSteps k (snapSteps k) (fun out s1 c1 => (s1, { c1 with outPos := c1.outPos + ofBool out })) fun _ => none
  | 0x13 => s.runSteps k (hdrSteps k) (fun _ s1 c1 => (s1, c1)) fun _ => none
  | 0x18 =>
    s.runSteps k (loadSteps k s) (fun bs s1 c1 => (s1.loadTable k.t ((c.val 2 % 2 ^ 13 + k.e) * 1024) bs, c1)) fun _ => none
  | 0x19 =>
    s.runSteps k (fstSteps k s) (fun ln s1 c1 => (s1, match ln with | some l => c1.laneAfter l | none => c1)) fun _ => none
  | _ => s

/-- Elements of a command (R244, Table 13-3). -/
def Command.countOf (c : Command) : Nat :=
  match c.fn with
  | 10 | 11 => 0
  | 0x10 => c.val 4 / 64
  | 0x13 => 1
  | _ => c.val 4

/-- What acceptance itself reads: an XMCST's mask, and the header of a compressed source (R256, R276). -/
def Command.acceptAccs (c : Command) (t : Nat) : List Acc :=
  if c.fn = 6 then [⟨.sp t (256 * c.val 3), 128, .read, 0, none⟩]
  else if c.expands then [⟨bufBase t c.sl, 64, .read, 0, none⟩]
  else []

/-- The checks of acceptance of a transforming command and of XCOPY from a compressed buffer (R243, R263, R276, Table 13-3). -/
def Command.formCheck (c : Command) (s : State) (t : Nat) : Option XFault :=
  let x := s.tile t
  let sl := c.sl
  let dl := c.dl
  let slNo := c.slNo
  let dlNo := c.dlNo
  let n := c.countOf
  let space (no L : Nat) (ok : List Nat) := failIf (!ok.contains (laySpace L)) (xLayout no 2 0 0)
  let peer (no L : Nat) := failIf (laySpace L == 1 && layPeer L > 895) (xLayout no 5 0 0)
  let units (size : Nat) := walkCheck (fun e => locFault slNo e (c.unitAt t size e)) n 0
  let low (b : Except (Nat × Nat) XLoc) : Option XFault :=
    match b with
    | .error (a, d) => some (xLayout dlNo a d 0)
    | .ok (.sp _ a) => failIf (a < 1024) (xLayout dlNo 3 0 0)
    | .ok _ => none
  match c.fn with
  | 0x01 =>
    let h := (c.seenHeader s t).filter bufValid
    firstFault
      [checkEntry slNo sl true,
       (if laySpace dl = 3 then checkStream c else firstFault [checkEntry dlNo dl true, checkSame c true]),
       checkHalf c,
       (match bufBase t sl with
        | .sp _ a => failIf (a + 64 > spBytes) (xLayout slNo 5 0 0)
        | .va _ => none),
       (match h with
        | some w => firstFault [expandKind c w, failIf (n * xBits sl > 8 * bufRaw w) (xLayout slNo 1 0 (8 * bufRaw w / xBits sl))]
        | none => none),
       (if laySpace dl = 3 then none else walkCheck (fun e => dstFault dlNo e (c.dstAt x t (layPeer dl) e)) n 0)]
  | 0x10 =>
    firstFault
      [checkEntry slNo sl true, space dlNo dl [0, 2], low (c.baseAt t),
       failIf (layDesc sl != (c.codec == 2) || c.val 4 % 64 != 0) (xLayout slNo 4 0 0),
       failIf (c.codec == 3 && c.point ≥ 2) (xLaunch 7 0), failIf (c.codec == 3 && !tabOk (c.val 1)) (xLaunch 8 0),
       (if c.codec == 2 then walkCheck (fun e => locFault slNo e (c.blockAt t e)) n 0 else units 64)]
  | 0x11 => space dlNo dl [2]
  | 0x12 =>
    firstFault
      [failIf (!x.priv.getLsbD 0) (0x0C, 0), space slNo sl [2], space dlNo dl [2], low (c.baseAt t),
       failIf (c.val 1 % 16 != 0) (xLayout slNo 5 0 0),
       walkCheck (fun e => match c.unitAt t 4096 e with
         | .error (a, d) => some (xLayout slNo a d e)
         | .ok (.va va) => failIf (va % 4096 != 0) (xLayout slNo 5 0 e)
         | .ok _ => none) n 0]
  | 0x13 => firstFault [space slNo sl [0], space dlNo dl [0, 2], low (c.baseAt t), units 64]
  | 0x18 =>
    firstFault
      [space slNo sl [0, 2], failIf (n == 0 || n > 1024 || c.val 2 % 2 ^ 13 + n > 8192) (xLaunch 8 0), units 1024]
  | 0x19 =>
    firstFault
      [space slNo sl [0, 1, 2], peer slNo sl, space dlNo dl [0, 1, 2], peer dlNo dl,
       failIf (layDesc dl || layFmt dl != 4) (xLayout dlNo 4 0 0),
       walkCheck (fun j => low (xAt t dl 1 (c.co 2 + (j : Nat)))) 16 0, failIf (n > 2 ^ 31 - 1 || !tabOk (c.val 1)) (xLaunch 8 0),
       units 1]
  | _ => none

end Sys2Proof.Machine
end

