-- ==== Sys2Proof/Machine/Order.lean ====
section
/-! DEFINITION. Channel order on a line or a row (R247): what the elements of a command may touch, and the commands in front that hold it
back. -/

namespace Sys2Proof.Machine

/-! ### What an element touches -/

/-- The work list that an XAPND appends to, into which one channel's commands enter items in order, and the rows of its slots (R315). -/
def Command.listKeys (c : Command) (s : State) (t : Nat) : List (Nat × Nat) :=
  if c.fn != 9 then []
  else match s.appendTo t c.word with
    | .tile u =>
      let y := s.tile u
      (0, 2 ^ 30 + u) :: (if y.isList then (List.range y.nwl).map fun i => (0, u * 2 ^ 14 + y.wlRow + i) else [])
    | _ => [(0, 2 ^ 30 + 2 ^ 20 + layPeer c.dl)]

/-- The keys of element e of a command. -/
def Command.keys (c : Command) (s : State) (t e : Nat) : List (Nat × Nat) :=
  c.listKeys s t ++
    (if c.transforms || c.expands then c.formAccs s t e
     else match c.accs (s.chanTile t c.word.cap.q) t e with
       | .error _ => c.lists t e
       | .ok (r, w) => c.lists t e ++ r ++ w).flatMap (accKeys s (s.tile t).tctx)

/-! ### Who is held -/

/-- The commands of the channel in front of a command. -/
def Tile.olderCmds (x : Tile) (c : Command) : List Command := x.chan.takeWhile fun o => o.cslot != c.cslot

/-- Atomics of some of tile t's commands that are on their way to a write queue touch one of the keys, with their line or with
the rows of their return write. -/
def State.atomsOn (s : State) (t : Nat) (cslots : List Nat) (ks : List (Nat × Nat)) : Bool :=
  s.dies.any fun d => d.2.wqIn.any fun p =>
    p.tile == t && cslots.contains p.cslot &&
      ((p.pas.any fun a => ks.contains (1, a / 64)) ||
        match p.ret with
        | some (u, b) => (accKeys s 0 ⟨.sp u b, max 1 p.pas.length, .write, 0, none⟩).any ks.contains
        | none => false)

/-- The keys of what a command has still to touch. -/
def Command.keysLeft (c : Command) (s : State) (t : Nat) : List (Nat × Nat) :=
  if c.done then [] else (List.range (c.count - c.e + ofBool c.lastStep)).flatMap fun i => c.keys s t (c.e + i)

/-- One of some older commands has still to touch one of the keys (R247). `own` is the command slot of the one that asks, whose own atomics
count too. -/
def State.keysHold (s : State) (t : Nat) (older : List Command) (own : List Nat) (ks : List (Nat × Nat)) : Bool :=
  older.any (fun o => (o.keysLeft s t).any ks.contains) || s.atomsOn t (own ++ older.map Command.cslot) ks

/-- The accepted commands in front of a command. -/
def Tile.olderIn (x : Tile) (c : Command) : List Command := (x.olderCmds c).filter fun o => o.accepted && !o.void

/-- Two commands of a channel of which one loads the table that the other runs its lane on: they go in order (log 25). -/
def State.tableHold (s : State) (t : Nat) (o c : Command) : Bool :=
  let lane (l : Command) : Option Nat := match l.tab with | some g => some g | none => l.laneTab s t
  let meets (ld l : Command) : Bool :=
    ld.fn == 0x18 && match lane l with
      | some g => tabsMeet (ld.val 2 % 2 ^ 13) (ld.val 4) (tabBase g) (tabStates g)
      | none => false
  !o.done && (meets o c || meets c o)

/-- An older command, or an atomic of its own, has still to touch a line or a row that element e of this one touches (R247). XWAIT waits for
none (R261). -/
def State.orderHold (s : State) (t : Nat) (c : Command) : Bool :=
  let older := (s.tile t).olderIn c
  c.fn != 11 && (s.keysHold t older [c.cslot] (c.keys s t c.e) || older.any fun o => s.tableHold t o c)

end Sys2Proof.Machine
end

