-- ==== Sys2Proof/Machine/Channel.lean ====
section
/-! DEFINITION. The events of the transfer channels: acceptance (R243, R246), elements (R244, R228, R229), pushes that waited for
room (R171, R309), retirement with its signal (R246, R249, R250, R260) or its trap (R264, R265, R231). -/

namespace Sys2Proof.Machine

/-- A command that holds its channel in order behind it: suspended, stalled, held at a push, or about to trap (R229, R234, R245,
R265). -/
def Command.blocks (c : Command) : Bool := c.susp.isSome || c.stalled.isSome || c.trap.isSome || c.held.isSome

/-- A command that holds the younger ones of its channel: one that is held itself, or whose append waits for room (R309). -/
def Command.holdsBack (c : Command) : Bool := c.blocks || c.full

/-- A point whose X engine has trapped runs no more elements (R265). -/
def Tile.xTrapped (x : Tile) : Bool :=
  match x.stop with
  | some st => st.trapped && st.eng == some .X
  | none => false

/-- Commands in flight (R246). -/
def Tile.inFlightCmds (x : Tile) : Nat := (x.chan.filter fun c => c.accepted).length

/-- The channel may start its next command: none in front holds it, no XWAIT is pending, fewer than four are in flight, and the
point is not stopping (R229, R246, R261, R266). -/
def Tile.mayAccept (x : Tile) : Bool :=
  x.stop.isNone && !x.quenched && x.inFlightCmds < Config.chanFlight &&
    !(x.chan.any fun c => c.holdsBack || (c.accepted && c.fn == 11 && !c.done))

/-- What acceptance reads has still to be touched by an older command (R247). -/
def State.acceptHold (s : State) (t : Nat) (c : Command) : Bool :=
  let ks := (c.acceptAccs t).flatMap (accKeys s (s.tile t).tctx)
  !ks.isEmpty && s.keysHold t ((s.tile t).olderIn c) [] ks

/-- Acceptance's own read of a mask under the tile's watchpoints (R387): the state, and the trap it takes. -/
def State.acceptWatch (s : State) (t : Nat) (c : Command) : State × Option XFault :=
  if c.fn = 6 && c.val 3 < Config.spRows then
    match watchAcc { t := t, c := c, e := 0 } s (256 * c.val 3) 128 false with
    | (s1, .error (.fault f)) => (s1, some f)
    | (s1, _) => (s1, none)
  else (s, none)

/-- What acceptance itself reads, in the trail: where it can be read. -/
def State.acceptTrail (s : State) (t : Nat) (c : Command) : List Trail :=
  ((c.acceptAccs t).flatMap (accKeys s (s.tile t).tctx)).map fun k =>
    let (space, a, n) := keySpan k
    { write := false, space := space, at_ := a, n := n }

/-- The checks of acceptance (R243); a mask, a list and a header as the channel finds them (R248). -/
def Command.acceptCheck (c : Command) (s : State) (t : Nat) : Option XFault :=
  if c.transforms || c.expands then c.formCheck s t else c.check (s.chanTile t c.word.cap.q) t

/-- A command accepted on tile t (R243): its element count and mask are fixed, and TILE_ID for its generators (R255); one of no elements is
done, but for a wait and a last step of its own. -/
def Command.start (c : Command) (x : Tile) (t : Nat) : Command :=
  let n := c.countOf
  let c1 := { c with accepted := true, vtile := some t, count := n, mask := if c.fn = 6 then c.maskTiles x else [],
                     outPos := if c.fn = 0x10 then c.dataStart else 0
                     lane := if c.fn = 0x19 then laneStart (c.val 1) else {} }
  { c1 with done := n == 0 && c.fn != 11 && !c1.lastStep }

/-- COMMAND_ACCEPT (R243). -/
def execCommandAccept (tile : Nat) (s : State) : Res :=
  let x := s.tile tile
  match x.chan.find? fun c => !c.accepted && !c.void with
  | none => .next s
  | some c =>
    if !x.mayAccept || s.acceptHold tile c then .next s
    else match c.acceptCheck s tile with
      | some f => .next (s.setCmd tile { c with trap := some (f.1, BitVec.ofNat 64 f.2) })
      | none => match s.acceptWatch tile c with
        | (s1, some f) => .next (s1.setCmd tile { c with trap := some (f.1, BitVec.ofNat 64 f.2) })
        | (s1, none) => .next ((s1.setCmd tile (c.start (s.chanTile tile c.word.cap.q) tile)).note (s.acceptTrail tile c))

/-- A command may perform its next element: accepted, not held, and no command in front of it holds the channel (R229). -/
def State.mayElement (s : State) (tile : Nat) (c : Command) : Bool :=
  let x := s.tile tile
  c.accepted && !c.done && !c.blocks && !x.quenched && !x.xTrapped && !((x.olderCmds c).any Command.holdsBack)

/-- The next element of a command; `dead` where host pages give no completion. -/
def State.element (s : State) (tile : Nat) (c : Command) (dead : Bool) : State :=
  if c.transforms || c.expands then
    match s.takeLane tile c with
    | some c1 => formElem { t := tile, c := c1, e := c.e, dead := dead } s
    | none => s
  else plainElem { t := tile, c := c, e := c.e, dead := dead } s

/-- ELEMENT_PERFORM (R244). -/
def execElementPerform (tile cslot : Nat) (s : State) : Res :=
  match (s.tile tile).cmd? cslot with
  | none => .next s
  | some c => if s.mayElement tile c && !s.orderHold tile c then .next (s.element tile c false) else .next s

/-- QUEUE_PUSH (R171, R309): the L engine's push, or a command's. -/
def execQueuePush (tile : Nat) (cslot : Option Nat) (s : State) : Res :=
  let x := s.tile tile
  match cslot with
  | none =>
    match x.lPush, x.nextWord tile .L with
    | some (q, bs), some (i, _) =>
      if x.quenched || x.stop.isSome then .next s
      else
        let s1 := { s with issue := i }
        finish s1 (pushL s1 q bs)
    | _, _ => .next s
  | some n =>
    match x.cmd? n with
    | none => .next s
    | some c =>
      if c.held.isNone || x.quenched || x.xTrapped then .next s
      else
        let (y, c1) := x.pushHeld c
        .next (s.setTile tile (y.setCmd (if c1.held.isNone then c1.next else c1)))

/-! ### Retirement -/

/-- The tiles whose semaphore a command's signal reaches (R249, R260); XWAIT, XPREF and XTLD name no destination. An append's list
may be away: the signal then waits. -/
def State.signalTiles (s : State) (t : Nat) (c : Command) : Option (List Nat) :=
  match c.fn with
  | 6 => some c.mask
  | 9 => match s.appendTo t c.word with
    | .tile u => some [u]
    | .away => none
    | .nobody => some []
  | 11 | 12 | 0x18 => some [t]
  | _ => some [if laySpace c.dl = 1 then layPeer c.dl else t]

/-- The amount of a signal: XSIG's count, 1 for a fused one, none without one. -/
def Command.signalAmount (c : Command) : Option Nat :=
  if c.fn = 10 then some (c.val 4 % 2 ^ 32) else if c.xc.sig = 1 then some 1 else none

/-- The increments of a signal in order, each a release at the word's scope (R249, R294); the first tile in
ascending order at which one saturates (R250): DESIGN CHOICE (log 79). -/
def State.signal (s : State) (t sem scope n : Nat) (covers : CopyMark → Bool) : List Nat → State × Option Nat
  | [] => (s, none)
  | u :: us =>
    let s0 := s.releaseTo u sem scope covers
    let (s1, o) := s0.semAdd u sem n { kind := 1, sid := t, seng := s.dieOf t }
    let (s2, r) := State.signal s1 t sem scope n covers us
    (s2, if o then some u else r)

/-- What a signal releases: a fused one its command's payload (R249), XSIG every older command of the channel (R260). -/
def Command.releases (c : Command) (t : Nat) : CopyMark → Bool :=
  CopyMark.byChan t fun q => if c.fn = 10 then decide (q ≤ c.word.cap.q) else q == c.word.cap.q

/-- The head of the channel leaves it, and with it a section whose last command it was (R68, R246). -/
def Tile.retireX (x : Tile) (c : Command) : Tile :=
  let y := ({ x with chan := x.chan.filter fun d => d.cslot != c.cslot }.sweep).count 7 1
  if c.void then y.count 0x11 1 else y

/-- The X engine's trap at a command; one ended at an element or by RESUME has retired (R231, R265), one that acceptance turned away
stays (R243). A point that has trapped already keeps the command,
so that it traps again when it runs after a restore (R361). -/
def State.trapX (s : State) (tile : Nat) (c : Command) (cause data : Nat) : State :=
  if (s.tile tile).trapAgain s.scyc .X then s.setTile tile ((s.tile tile).setWait .X 7)
  else
    let s1 := s.takeTrap (c.issue tile) false cause data
    let x := s1.tile tile
    if x.chan.isEmpty then s1
    else if c.done then (s1.setTile tile (x.retireX c)).keepBack tile { cmd := some c, event := 7 }
    else s1.setCmd tile { c with trap := none }

/-- A tile that the signal would reach and that holds no point in the translation context (case 5 of R264). -/
def State.signalAway (s : State) (t : Nat) (us : List Nat) : Bool := us.any fun u => !s.sameCtx t u

/-- A signal made and its command retired; one that overflows traps after it, or, where the point has trapped before, leaves the
command for the restore (R250, R361). -/
def State.endSignal (s : State) (t : Nat) (c : Command) (n : Nat) (us : List Nat) : State :=
  let x := s.tile t
  let (s1, o) := s.signal t c.xc.sem.toNat c.xc.scope.toNat n (c.releases t) us
  let s2 := s1.setTile t ((s1.tile t).retireX c)
  match o with
  | none => s2
  | some u =>
    if x.trapAgain s.scyc .X then s.setTile t (x.setWait .X 7)
    else (s2.trapWith (c.issue t) false 0x0A (c.xc.sem.toNat + u * 256) (x.trapGen .X c.seq c.tag)).keepBack t
      { cmd := some c, event := 7, sems := semsAdded s s1 c.xc.sem.toNat 1 t (s.dieOf t) us }

/-- COMMAND_RETIRE (R246): the oldest command, with everything it issued performed. -/
def execCommandRetire (tile : Nat) (s : State) : Res :=
  let x := s.tile tile
  match x.chan with
  | [] => .next s
  | c :: _ =>
    if x.quenched || x.xTrapped then .next s
    else if c.void then .next (s.setTile tile (x.retireX c))
    else match c.trap with
      | some (cause, data) => if c.opsOut != 0 then .next s else .next (s.trapX tile c cause data.toNat)
      | none =>
        if !c.done || c.held.isSome || c.opsOut != 0 then .next s
        else match c.signalAmount with
          | none => .next (s.setTile tile (x.retireX c))
          | some n =>
            match s.signalTiles tile c with
            | none => .next s
            | some us =>
              if s.signalAway tile us then
                let f := xLaunch 5 c.e
                .next (s.setCmd tile { c with trap := some (f.1, BitVec.ofNat 64 f.2) })
              else .next (s.endSignal tile c n us)

end Sys2Proof.Machine
end

