-- ==== Sys2Proof/Machine/Section.lean ====
section
/-! DEFINITION. The S engine at a slot: fetching S words and headers with every check of R72, breakpoints (R386), beginning S
sections (R68, R69, R113), forwarding sections with rotation and capture (R66, R71, R87, R155), and the start of forwarded
sections (R68, R364). -/

namespace Sys2Proof.Machine

/-! ### Decoding a slot (R46, R300) -/

/-- The contents of a slot that a decode finds: those it had before some write that may still be unseen, or those it has (log 9). -/
def State.pickOld (s : State) (a : Nat) (now : Slot) : List CodeWrite → Slot × State
  | [] => (now, s)
  | w :: ws => match Tab.get? a w.slots with
    | none => State.pickOld s a now ws
    | some old =>
      let (b, s1) := s.choose
      if b then (old, s1) else State.pickOld s1 a now ws

/-- A decode uses up one of those that may still find a performed write's old contents. -/
def countDecode (ws : List CodeWrite) : List CodeWrite :=
  (ws.map fun w => if w.need == .none then { w with left := w.left - 1 } else w).filter fun w => w.need != .none || w.left != 0

/-- A slot decoded from the code rows: while old copies may be held, it is the old or the new contents (log 9). -/
def State.decodeAt (s : State) (t a : Nat) : Slot × State :=
  let x := s.tile t
  if x.codeOld.isEmpty then (x.slotAt a, s)
  else
    let (w, s1) := s.pickOld a (x.slotAt a) x.codeOld
    (w, s1.setTile t { x with codeOld := countDecode x.codeOld })

/-- The slot at PC; one at which the S engine already stands is not decoded again, and is as it was when it was reached. -/
def State.decodePC (s : State) (t : Nat) : Slot × State :=
  let x := s.tile t
  let a := x.pc.toNat
  match x.standing with
  | some w => (w, s)
  | none =>
    if x.codeOld.isEmpty then (x.slotAt a, s)
    else if x.waitWhy .S != 0 then ((x.codeOld.findSome? fun w => Tab.get? a w.slots).getD (x.slotAt a), s)
    else
      let (w, s1) := s.decodeAt t a
      (w, s1.setTile t { s1.tile t with standing := some w })

/-- n consecutive slots from address a. -/
def State.decodeRun (s : State) (t a : Nat) : (n : Nat) → List Slot × State
  | 0 => ([], s)
  | n + 1 =>
    let (w, s1) := s.decodeAt t a
    let (ws, s2) := State.decodeRun s1 t (a + 1) n
    (w :: ws, s2)

/-- Function code of a word (Table 03-1). -/
def slotFn (w : Slot) : Nat := bits w.toNat 86 7

/-- The check of a word's bits in a section of engine e: cause and TRAP_DATA of its fault (R72, Tables 03-16 and 19-1). Both rows apply
to a word of another engine's class whose bits are illegal too: DESIGN CHOICE (log 56), misplaced-word. -/
def wordFault (e : Engine) (w : Slot) : Option (Nat × Nat) :=
  let c := slotClass w
  if c ≤ 5 && c != e.code then some (2, c + 16 * e.code)
  else match decode w with
    | .ok _ => none
    | .error _ => some (1, 0)

/-! ### Traps and breakpoints of the S engine -/

/-- What the S engine executes with at an address. -/
def State.issueS (s : State) (t addr num : Nat) : Issue :=
  let x := s.tile t
  { tile := t, eng := .S, addr := addr, num := num, tag := x.tagNow, seq := x.nowSeq }

/-- The S engine of tile t traps at an address. -/
def State.trapS (s : State) (t addr num : Nat) (fwd : Bool) (cause data : Nat) : State :=
  s.takeTrap (s.issueS t addr num) fwd cause data

/-- Breakpoint n matches a slot reached at address a (R386): one of kind 1 the first slot it finds in time, once. -/
def Tile.bpMatch (x : Tile) (scyc a n : Nat) : Bool :=
  let b := x.readDbg n
  bit b 63 && if bit b 61 then !x.bpFired.getLsbD n && decide (bits b 0 60 ≤ scyc) else bits b 0 20 == a

/-- The breakpoint that matches the slot at address a, by the lowest number: number, kind, whether it quenches (R386). A slot at
which the S engine waits has been reached before. -/
def Tile.breakHit (x : Tile) (scyc a : Nat) : Option (Nat × Bool × Bool) :=
  if x.bpPassed || x.waitWhy .S != 0 then none
  else (List.range 4).findSome? fun n =>
    if x.bpMatch scyc a n then some (n, bit (x.readDbg n) 61, bit (x.readDbg n) 62) else none

/-- The schedule-cycle breakpoints that match the slot reached have found their slot, whichever is reported. -/
def Tile.markFired (x : Tile) (scyc a : Nat) : Tile :=
  { x with bpFired := (List.range 4).foldl (fun m n =>
      if bit (x.readDbg n) 61 && x.bpMatch scyc a n then m ||| (1#4 <<< n) else m) x.bpFired }

/-- A breakpoint at the slot at PC takes hold before the slot has any effect: a trap, or a quench of the tile at the end of the
cycle, after which the slot is passed (R386). Where the point has trapped already, its trap is taken when the point has been resumed
(R361), and no breakpoint has found its slot. -/
def State.breakAt (s : State) (t num : Nat) : Option State :=
  let x := s.tile t
  let a := x.pc.toNat
  match x.breakHit s.scyc.toNat a with
  | none => none
  | some (n, kind, quench) =>
    let data := n + 4 * ofBool kind
    if !quench && x.trapAgain s.scyc .S then some (s.trapS t a num false 0x0D data)
    else
    let s1 := (s.traceHit t a data false).setTile t (x.markFired s.scyc.toNat a)
    if quench then some ((s1.setTile t { s1.tile t with bpPassed := true, bpHold := true }).quenchSoon t)
    else some (s1.trapS t a num false 0x0D data)

/-- The S engine of tile t may act: a started point, not halted, not stopped at a boundary, and not at a slot whose breakpoint quenches
the tile. -/
def State.sReady (s : State) (t : Nat) : Bool :=
  let x := s.tile t
  (match x.point with | some p => p.started | none => false) && !x.halted && !x.quenched && !x.stopHolds .S && !x.bpHold

/-- The S word at PC inside an S section, or the state after the fault or breakpoint found at its fetch. -/
inductive FetchedS where
  | stop (s : State)
  | word (i : Instr) (w : Issue) (s : State)

/-- Fetch of an S word (R46, R72, R386). -/
def State.fetchS (s : State) (t : Nat) : FetchedS :=
  let x := s.tile t
  let a := x.pc.toNat
  if !x.inCode a then .stop (s.trapS t a x.sNum false 1 0)
  else
    let (w, s1) := s.decodePC t
    match wordFault .S w, decode w with
    | some (cause, data), _ => .stop (s1.trapS t a x.sNum false cause data)
    | none, .error _ => .stop (s1.trapS t a x.sNum false 1 0)
    | none, .ok i =>
      match s1.breakAt t x.sNum with
      | some s2 => .stop s2
      | none => .word i (s1.issueS t a x.sNum) s1

/-- The header at PC, or the state after the fault or breakpoint found there. -/
inductive FetchedH where
  | stop (s : State)
  | hdr (h : Header) (s : State)

/-- The section number a slot read as a header would have; 0 where it is no header (log 16). -/
def headerNum (w : Slot) : Nat :=
  if w.extractLsb' 64 32 == 0xE0000000 then (Header.ofBits (w.extractLsb' 0 64)).num.toNat else 0

/-- Fetch of a header (R67, R70, R72, R386). A PC outside the code rows is in no section, and its illegal-word fault gives section
number 0: DESIGN CHOICE (log 59). -/
def State.fetchH (s : State) (t : Nat) : FetchedH :=
  let x := s.tile t
  let a := x.pc.toNat
  if !x.inCode a then .stop (s.trapS t a 0 false 1 0)
  else
    let (w, s1) := s.decodePC t
    match decodeHeader w with
    | .error c => .stop (s1.trapS t a (headerNum w) false 3 c)
    | .ok h =>
      if !x.inCode (a + h.len.toNat) then .stop (s1.trapS t a h.num.toNat false 3 6)
      else match s1.breakAt t h.num.toNat with
        | some s2 => .stop s2
        | none => .hdr h s1

/-- The S engine waits at the header at PC. -/
def State.waitS (s : State) (t why : Nat) : State := s.setTile t ((s.tile t).setWait .S why)

/-! ### S sections -/

/-- A record whose epilogue has run is removed when an S section begins (R113). -/
def Tile.endRecord (x : Tile) : Tile :=
  match x.ks with
  | [] => x
  | k :: _ => if kRec k && kIdx k == kLim k then x.popK else x

/-- An S section begins once its own dependences and gfence are met (R68, R69, R113). -/
def State.beginS (s : State) (t : Nat) (h : Header) : State :=
  let x := s.tile t
  if (h.gfence == 1 && !x.drained) || (x.depsOf h .S).any x.live then s.waitS t 8
  else
    let a := x.pc.toNat
    let y := { x.endRecord with
      sIn := true, sHdr := x.pc, sNum := h.num.toNat, sEnd := a + 1 + h.len.toNat
      pc := BitVec.ofNat 20 (a + 1)
      copies := x.copies.map (OldCopy.beginS (x.depsOf h .S))
      atLoop := false, bpPassed := false, standing := none }
    s.setTile t (y.setWait .S 0)

/-! ### Forwarding -/

/-- The engine of a header's code. -/
def engOf (n : Nat) : Engine :=
  match n with
  | 0 => .S | 1 => .L | 2 => .A | 3 => .W | 4 => .M | _ => .X

/-- Low bit positions of the 8-bit fields of a word that name vector registers, by class and function code (Tables 03-2 to
03-9). -/
def vregFields (cls fn : Nat) : List Nat :=
  if cls == 2 then
    if fn == 0x02 then [58, 50]
    else if fn == 0x08 || fn == 0x23 || fn == 0x24 || fn == 0x4C then [58, 50, 30, 10]
    else if 0x38 ≤ fn && fn ≤ 0x3B then (if fn == 0x39 then [50] else [50, 30])
    else if fn == 0x49 then [58, 50]
    else if fn == 0x4E then [50]
    else if 0x60 ≤ fn && fn ≤ 0x63 then [50]
    else if fn < 0x60 then [58, 50, 30]
    else []
  else if cls == 1 then
    if fn == 0x01 || fn == 0x03 then [58] else if fn == 0x02 then [58, 0] else []
  else if cls == 3 then
    if fn == 0x01 || fn == 0x04 then [58] else if fn == 0x02 then [58, 0] else []
  else if cls == 4 then
    if fn == 0x03 || fn == 0x04 || fn == 0x05 then [54] else []
  else []

/-- A field of 8 bits of a slot replaced. -/
def putField (w : Slot) (lo v : Nat) : Slot :=
  w - BitVec.ofNat 96 (bits w.toNat lo 8 * 2 ^ lo) + BitVec.ofNat 96 (v % 256 * 2 ^ lo)

/-- A word with every vector register field replaced by its physical number (R87). -/
def rotateSlot (rb : BitVec 7) (w : Slot) : Slot :=
  (vregFields (slotClass w) (slotFn w)).foldl (fun w' lo => putField w' lo (physReg rb (bits w.toNat lo 8))) w

/-- The general registers captured with a word, in field order (R66). -/
def captured (w : Slot) : List Nat :=
  let c := slotClass w
  let fld (lo : Nat) : Nat := bits w.toNat lo 6
  if c == 5 then [fld 44, fld 38, fld 32, fld 26, fld 20]
  else if slotFn w == 0x70 || slotFn w == 0x71 then [fld 52]
  else if (c == 1 || c == 3) && slotFn w < 0x70 then [fld 44, fld 38, fld 32]
  else []

/-- The general register a VTOG empties (R155); g0 is none. -/
def vtogTarget (w : Slot) : Option Nat :=
  if slotClass w == 2 && slotFn w == 0x4E && bits w.toNat 58 8 != 0 then some (bits w.toNat 58 6) else none

/-- The names of predicates in a word whose values are captured: those of the guard and of a predicate operand (R66, R57). -/
def namedPreds (w : Slot) : List Nat :=
  let f := FmtVP.ofBits (w.extractLsb' 0 66)
  [bits w.toNat 74 4, bits w.toNat 70 4, bits w.toNat 66 4] ++
    (if slotClass w == 2 && 0x60 ≤ slotFn w then [vpNameA f, vpNameB f, vpNameC f] else [])

/-- The captured predicate values: stage predicates, and scalar predicates for M and X words (R66). -/
def Tile.capPreds (x : Tile) (w : Slot) : BitVec 16 :=
  (namedPreds w).foldl (fun m n =>
    if (8 ≤ n || 4 ≤ slotClass w) && x.readCS n then m ||| (1#16 <<< n) else m) 0

/-- The captures of a word; `q` is the count of X words forwarded before it (R66, R53, R255). -/
def Tile.capture (x : Tile) (w : Slot) (q : Nat) : Capture :=
  let c := slotClass w
  let reg := bits w.toNat 54 8
  { preds := x.capPreds w
    vals := (captured w).map x.readG
    sl := if c == 5 then BitVec.ofNat 512 (x.readLay (bits w.toNat 58 8)) else 0
    dl := if c == 5 then BitVec.ofNat 512 (x.readLay (bits w.toNat 50 8)) else 0
    seed := if c == 5 then x.seed else 0
    q := if c == 5 then q % 2 ^ 32 else 0
    regs := if c == 4 && (slotFn w == 0x04 || slotFn w == 0x05) then
      (List.range 4).map fun i => physReg x.rb (reg + i) else []
    rb := x.rb }

/-- The words of a section as they are forwarded. -/
def Tile.fwdWords (x : Tile) : (addr q : Nat) → List Slot → List FwdWord
  | _, _, [] => []
  | addr, q, w :: ws =>
    ⟨rotateSlot x.rb w, addr, x.capture w q⟩ :: Tile.fwdWords x (addr + 1) (q + 1) ws

/-- The first word of a section whose bits fail a check: its address, cause and TRAP_DATA (R72). -/
def firstBadWord (e : Engine) : (addr : Nat) → List Slot → Option (Nat × Nat × Nat)
  | _, [] => none
  | addr, w :: ws =>
    match wordFault e w with
    | some (cause, data) => some (addr, cause, data)
    | none => firstBadWord e (addr + 1) ws

/-- Forwarding of the section whose header stands at PC: it waits on its gfence, the slip rule, room in the section queue and
empty captured registers; a check that fails traps; else the section joins its engine's queue (R66, R69, R71, R72, R308). A register
that two VTOGs of the section name is marked empty once, and is full with the first result: DESIGN CHOICE (log 58). An X word's q counts
the X words before it (R255): DESIGN CHOICE (log 80). -/
def State.forward (s : State) (t : Nat) (h : Header) : State :=
  let x := s.tile t
  let e := engOf h.eng.toNat
  let a := x.pc.toNat
  let n := h.len.toNat
  if x.stop.isSome then s.waitS t 7
  else if h.gfence == 1 && !x.drained then s.waitS t 8
  else if x.slipHold then s.waitS t 5
  else if x.queueFull e n then s.waitS t 4
  else
    let (ws, s1) := s.decodeRun t (a + 1) n
    match firstBadWord e (a + 1) ws with
    | some (addr, cause, data) => s1.trapS t addr h.num.toNat true cause data
    | none =>
      let gds := ws.filterMap vtogTarget
      if (ws.flatMap captured).any x.emptyG || gds.any x.emptyG then s.waitS t 3
      else
        let y := s1.tile t
        let c : Section :=
          { eng := e, hdr := h, hdrAddr := a, seq := y.seqNext, tag := y.tagNow, gens := y.records,
            deps := (y.depsOf h e).filter y.live, words := y.fwdWords (a + 1) y.xq ws }
        let y1 := { y with
          secs := y.secs ++ [c]
          copies := y.copies.map (OldCopy.follow (y.depsOf h e) c.span)
          seqNext := y.seqNext + 1
          lastSec := Assoc.set 0 (256 * e.code + h.num.toNat) (y.seqNext + 1) y.lastSec
          xq := if e == Engine.X then (y.xq + n) % 2 ^ 32 else y.xq
          pc := BitVec.ofNat 20 (a + 1 + n)
          atLoop := false, bpPassed := false, standing := none }
        s1.setTile t ((gds.foldl (fun z g => z.markG g true) y1).setWait .S 0)

/-- SECTION_FORWARD (R66): the header at PC is that of an L, A, W, M or X section, or faults. -/
def execSectionForward (tile : Nat) (s : State) : Res :=
  if !s.sReady tile || (s.tile tile).sIn then .next s
  else match s.fetchH tile with
    | .stop s1 => .next s1
    | .hdr h s1 => if h.eng == 0 then .next s else .next (s1.forward tile h)

/-! ### Section start (R68, R364, R369) -/

/-- A stopping point starts no section of a generation above G (R364), which is relative to the record that was innermost when the stop
began (R363), and none on the engine that trapped. -/
def Tile.mayStart (x : Tile) (e : Engine) (c : Section) : Bool :=
  match x.stop with
  | none => true
  | some st => st.eng != some e &&
    (match st.inst with
     | none => true
     | some id => decide (c.relGen id ≤ st.gen))

/-- The section an engine may start: its next in order, with its dependences retired. -/
def Tile.startable (x : Tile) (e : Engine) : Option Section :=
  match x.headSec e with
  | none => none
  | some c => if !c.started && !c.deps.any x.live && x.mayStart e c then some c else none

/-- SECTION_START (R68): an S section begins at the header at PC; another engine starts the section next in its queue. -/
def execSectionStart (tile : Nat) (e : Engine) (s : State) : Res :=
  match e with
  | .S =>
    if !s.sReady tile || (s.tile tile).sIn then .next s
    else match s.fetchH tile with
      | .stop s1 => .next s1
      | .hdr h s1 => if h.eng != 0 then .next s else .next (s1.beginS tile h)
  | .L | .A | .W | .M | .X =>
    let x := s.tile tile
    if x.quenched then .next s
    else match x.startable e with
      | none => .next s
      | some c => .next (s.setTile tile (x.setSec c.seq fun d => { d with started := true }))

end Sys2Proof.Machine
end

