-- ==== Sys2Proof/Machine/HostMem.lean ====
section
/-! DEFINITION. What hosts do through BAR2 and BAR4: the ordering point (R297, R298), translated writes and reads (R402, R238),
semaphore writes (R330), replay's host writes (R397), and stalls on migrating pages (R234). -/

namespace Sys2Proof.Machine

/-! ### Masters and the ordering point -/

/-- Master numbers: ports 0 and 1, the management port 2, module link n as 16 + n (R404); 256 stands for Yelsutor (log 28). -/
def yelsutor : Nat := 256

/-- The master that made a write. -/
def writerOf : Instr → Nat
  | .bar2Write m _ _ | .bar4Write m _ _ _ | .claim m | .handover m _ | .submit m _ | .gangSubmit m _
  | .resumeRetry m _ | .resumeFail m _ | .resumeClearStray m _ | .shootCtlStart m _ | .shootCtlClearLost m _
  | .slotCtlResume m _ _ | .slotCtlKill m _ _ | .slotCtlPark m _ _ | .ringCfgWrite m _ _ | .ringHeadWrite m _ _
  | .lcReqReset m _ | .lcReqAdvance m _ | .lcStateTripClear m _ | .attest m _ | .pwrCap m _ | .thresh m _ _
  | .perfCtl m _ | .replayCtl m _ | .quenchCtl m _ | .temper m _ | .blazeCtl m _ | .controlWrite m _ _ => m
  | _ => 512

/-- Some posted write of requester m that reached the ordering point before number n has not been acknowledged. -/
def State.unacked (s : State) (m n : Nat) : Bool := s.posted.any fun p => p.m == m && p.num < n

/-- Some write of requester m is held at the ordering point. -/
def State.heldBy (s : State) (m : Nat) : Bool := s.heldQ.any fun p => writerOf p.2 == m

/-- A write that must be held behind the earlier posted writes of its requester (R297). -/
def State.mustHold (s : State) (m : Nat) : Bool := s.unacked m s.hostNum || s.heldBy m

/-- A write held at the ordering point. -/
def State.hold (s : State) (i : Instr) : State :=
  { s with heldQ := s.heldQ ++ [(s.hostNum, i)], hostNum := s.hostNum + 1 }

/-! ### Replay's host writes (R397, Table 20-5) -/

/-- The entries of a host write at an address, 16 bytes to an entry. -/
def hostEntries (bar4 : Bool) : (fuel : Nat) → (addr : Nat) → List Byte → List (List Nat)
  | 0, _, _ => []
  | k + 1, addr, bs =>
    if bs.isEmpty then []
    else
      let b := bs.take 16
      [3 * 2 ^ 56 + b.length + ofBool bar4 * 32, addr, ofBytes (b.take 8), ofBytes (b.drop 8)] ::
        hostEntries bar4 k (addr + 16) (bs.drop 16)

/-- The entries of a host write, recorded or taken one after another; none where one cannot be. -/
def State.logHostGo (s : State) (bar4 : Bool) (addr : Nat) (bs : List Byte) : Option State :=
  (hostEntries bar4 (bs.length / 16 + 1) addr bs).foldl
    (fun r ws => r.bind fun s' => s'.logEvent s.ctl.replayMode ws) (some s)

/-- The host write of master m in the replay log: recorded, where a full log lets none pass; in replay, one of the owner that is next in
the log commits its entries, and any other passes and commits none (R397, R399). -/
def State.logHost (s : State) (m : Nat) (bar4 : Bool) (addr : Nat) (bs : List Byte) : Option State :=
  if s.ctl.replayMode == 2 then
    some (if s.ctl.owner.toNat == m then (s.logHostGo bar4 addr bs).getD s else s)
  else s.logHostGo bar4 addr bs

/-! ### BAR2 (R402) -/

/-- Context and virtual address that a BAR2 offset of port m reaches. -/
def State.bar2Ctx (s : State) (m : Nat) : Nat := (Assoc.get 0 m s.ctl.bar2Ctx).toNat
def State.bar2At (s : State) (m off : Nat) : Nat :=
  ((Assoc.get 0 m s.ctl.bar2Va).toNat / 65536 * 65536 + off) % 2 ^ 57

/-- A refused BAR2 access is counted; the count saturates (R402, Table 21-4). -/
def State.countAbort (s : State) : State :=
  { s with ctl := { s.ctl with abortCnt := if s.ctl.abortCnt == BitVec.allOnes 32 then s.ctl.abortCnt else s.ctl.abortCnt + 1 } }

/-- A request of a port that BAR2 can carry: within 64 GiB, and within a 4 KiB boundary. -/
def bar2Ok (m off n : Nat) : Bool :=
  m ≤ 1 && 1 ≤ n && off + n ≤ 2 ^ 36 && off / 4096 == (off + n - 1) / 4096

/-- Lines that two runs of bytes share. -/
def sameLine (a n b k : Nat) : Bool := (linesOf a n).any (linesOf b k).contains

/-- The transfer die that translates a BAR2 access: the one that serves its VA taken as a physical address (R419). -/
def hostDie (va : Nat) : Nat := (placeGranule (va % 2 ^ 57)).die

/-- The translation of a BAR2 access on that die, with the descriptor and the entries that the die holds (R221, R402). -/
def State.hostXlate (s : State) (ctx va : Nat) (k : Access) : State × Except Nat Leaf := s.dieXlate (hostDie va) ctx va k id

/-- A host access in the trail. -/
def hostTrail (write : Bool) (p : Place) (n : Nat) : Trail := (Spot.at p n).trail write (write && unitWrite false p.spaceAt.2 n)

/-- A BAR2 write translated and performed, discarded at a fault, or stalled at position i of the posted writes: on a migrating page, of
which no entry is kept (R402, R234), or on a remote page that no link that is up reaches, where it is tried again (R406). -/
def State.performBar2 (s : State) (p : Posted) (i : Nat) : State :=
  match s.hostXlate p.ctx p.va .write with
  | (s1, .error _) => s1.countAbort
  | (s1, .ok l) =>
    if pteMig l.pte && p.ctx != 0 then
      { s1.setDie (hostDie p.va) ((s1.die (hostDie p.va)).tlbDrop p.ctx (p.va % 2 ^ 57)) with
        posted := s1.posted.take i ++ [{ p with rewalk := false }] ++ s1.posted.drop i }
    else match s1.writePlace none (l.place p.va) p.data with
      | some s2 => s2.note [hostTrail true (l.place p.va) p.data.length]
      | none => { s1 with posted := s1.posted.take i ++ [{ p with rewalk := true }] ++ s1.posted.drop i }

/-- BAR2_WRITE (R402): writes of one requester to one line perform in order (R297); while the wipe runs it completes as
Unsupported Request and has no effect (R238). -/
def execBar2Write (m off : Nat) (data : List Byte) (s : State) : Res :=
  if !bar2Ok m off data.length || s.wiping then .next s
  else match s.logHost m false off data with
    | none => .next s
    | some s1 =>
      let p : Posted := ⟨m, off, data, s1.bar2Ctx m, s1.bar2At m off, true, s1.hostNum⟩
      let s2 := { s1 with hostNum := s1.hostNum + 1 }
      if s2.posted.any fun q => q.m == m && sameLine q.va q.data.length p.va data.length then
        .next { s2 with posted := s2.posted ++ [p] }
      else .next (s2.performBar2 p s2.posted.length)

/-- A completion returned to a host. -/
def State.complete (s : State) (c : Completion) : State := { s with cpl := s.cpl ++ [c] }

/-- The completion words that a host has read as they stand: what their launches have released is ordered before the hosts' later reads
(R24, R298). -/
def State.sawDone (s : State) (p : Place) (bs : List Byte) : State :=
  let (space, a) := p.spaceAt
  (s.doneAt.filter fun w => w.1 == space && decide (a ≤ w.2.1) && decide (w.2.1 + 8 ≤ a + bs.length) &&
      s.readPlace p bs.length == some bs).foldl (fun s1 w => s1.hostAcquired (doneSem w.2.2)) s

/-- BAR2_READ (R402, R298): the read is served once every earlier posted write of its requester has been acknowledged, and finds
what the hosts may still find (R296); a fault is Completer Abort; while the wipe runs, Unsupported Request. -/
def execBar2Read (m off len : Nat) (s : State) : Res :=
  if !bar2Ok m off len then .next s
  else if s.wiping then .next (s.complete (.unsupported m))
  else if s.mustHold m then .next s
  else
    let va := s.bar2At m off
    match s.hostXlate (s.bar2Ctx m) va .read with
    | (s1, .error _) => .next (s1.countAbort.complete (.abort m))
    | (s1, .ok l) => match s1.hostView.readPlace (l.place va) len with
      | none => .next (s1.countAbort.complete (.abort m))
      | some bs => .next (((s1.note [hostTrail false (l.place va) len]).sawDone (l.place va) bs).complete (.data m bs))

/-- A posted write that has waited walks again: the covering shootdown has completed, and no earlier write of its requester to
the line waits (R234, R297). -/
def State.rewalkPosted (s : State) (k : Nat) : State :=
  match s.posted[k]? with
  | none => s
  | some p =>
    if !p.rewalk || (s.posted.take k).any (fun q => q.m == p.m && sameLine q.va q.data.length p.va p.data.length) then s
    else ({ s with posted := s.posted.eraseIdx k }).performBar2 p k

/-! ### BAR4 (R330, R401) -/

def bar4End : Nat := 0xE0000

/-- The aligned 4-byte units that a BAR4 write covers with every byte enable set: tile, semaphore and value, in ascending
order. -/
def bar4Units (off : Nat) (data : List Byte) (be : List Bool) : List (Nat × Nat × Nat) :=
  (List.range ((off + data.length + 3) / 4 - off / 4)).filterMap fun i =>
    let a := 4 * (off / 4 + i)
    if a < off || a + 4 > off + data.length || a ≥ bar4End then none
    else if (List.range 4).all fun j => be.getD (a - off + j) false then
      some (a / 1024, a % 1024 / 4, ofBytes ((data.drop (a - off)).take 4))
    else none

/-- Setter of a BAR4 write (Table 17-3). -/
def bar4Setter (m : Nat) : Setter := if m = 2 then { kind := 3 } else { kind := 2, sid := m }

/-- A saturating addition is event 0x12 (R330); one to a quenched tile is seen at its temper (R392). -/
def Tile.countOver (x : Tile) : Tile := if x.quenched then { x with ovFrozen := x.ovFrozen + 1 } else x.count 0x12 1

/-- The additions of a BAR4 write; an overflow saturates and is event 0x12 (R330). -/
def State.bar4Add (s : State) (m : Nat) : List (Nat × Nat × Nat) → State
  | [] => s
  | (t, n, v) :: us =>
    let (s1, sat) := (s.releaseTo t n 3 (CopyMark.byHost m)).semAdd t n v (bar4Setter m)
    State.bar4Add (if sat then s1.setTile t (s1.tile t).countOver else s1) m us

/-- A BAR4 write that passes the ordering point; none while a full replay log holds it. -/
def State.performBar4 (s : State) (m off : Nat) (data : List Byte) (be : List Bool) : Option State :=
  (s.logHost m true off data).map fun s1 => s1.bar4Add m (bar4Units off data be)

/-- BAR4_WRITE (R330): held while an earlier posted write of its requester is not acknowledged (R297). -/
def execBar4Write (m off : Nat) (data : List Byte) (be : List Bool) (s : State) : Res :=
  if m > 2 || data.isEmpty || off + data.length > 2 ^ 20 then .next s
  else if s.mustHold m then .next (s.hold (.bar4Write m off data be))
  else match s.performBar4 m off data be with
    | none => .next s
    | some s1 => .next { s1 with hostNum := s1.hostNum + 1 }

/-- A byte of BAR4 (R401). -/
def State.bar4Byte (s : State) (a : Nat) : Byte :=
  if a < bar4End then Memory.read (s.tile (a / 1024)).sp (a % 1024) else 0

/-- The semaphores that a run of BAR4 bytes touches, as the hosts acquire them. -/
def bar4Sems (off len : Nat) : List Nat :=
  ((List.range ((off + len + 3) / 4 - off / 4)).map fun i => 4 * (off / 4 + i)).filterMap fun a =>
    if a < bar4End then some (hostSem (a / 1024) (a % 1024 / 4)) else none

/-- BAR4_READ (R298): served once every earlier posted write of its requester has been acknowledged; what the releases on a semaphore it
reads have ordered, at system scope, comes before the hosts' later reads. -/
def execBar4Read (m off len : Nat) (s : State) : Res :=
  if m > 2 || len = 0 || off + len > 2 ^ 20 || s.mustHold m then .next s
  else .next (((bar4Sems off len).foldl State.hostAcquired s).complete (.data m ((List.range len).map fun i => s.bar4Byte (off + i))))

end Sys2Proof.Machine
end

