-- ==== Sys2Proof/Machine/MemEvents.lean ====
section
/-! DEFINITION. Events of the transfer dies and of memory: fault records that waited (R311), walks after a migration (R234),
write queues (R236, R257, R258), shootdowns (R226), completion timeouts (R227), remote pages (R406), memory errors (R220) and
rollback (R382). -/

namespace Sys2Proof.Machine

/-- FAULT_RECORD_ENTER (R311): the record that waits on the die enters once there is room, where it is the first that arrived of all
that wait. -/
def execFaultRecordEnter (die : Nat) (s : State) : Res :=
  match (s.die die).faultWait with
  | [] => .next s
  | (n, w) :: ws =>
    if !s.fq.room || s.dies.any (fun d => d.2.faultWait.any fun r => r.1 < n) then .next s
    else
      let s1 := s.setDie die { s.die die with faultWait := ws }
      .next (s1.pushRing .fq (w.map BitVec.toNat))

/-- MIGRATION_REWALK (R234): after the covering shootdown, the element or the host write walks again and performs. -/
def execMigrationRewalk (who : StallRef) (s : State) : Res :=
  match who with
  | .host k => .next (s.rewalkPosted k)
  | .command tile cslot =>
    match (s.tile tile).cmd? cslot with
    | none => .next s
    | some c =>
      if c.stalled.isNone || !c.rewalk then .next s
      else
        let c1 := { c with stalled := none, rewalk := false }
        let s1 := s.setCmd tile c1
        if s1.mayElement tile c1 && !s1.orderHold tile c1 then .next (s1.element tile c1 false) else .next s

/-! ### Write queues (R236) -/

/-- The lines of a list of byte addresses. -/
def pasLines (pas : List Nat) : List Nat := (pas.map (· / 64)).eraseDups

/-- A line read into a queue entry, where it has none. -/
def State.openEntry (s : State) (line : Nat) : State :=
  let d := dieOfLine line
  if (Tab.get? line (s.die d).wq).isSome then s
  else s.setDie d { s.die d with wq := Tab.put line (s.readLine line) (s.die d).wq }

/-- Bytes written one by one at physical addresses. -/
def State.pokeEach (s : State) : List Nat → List Byte → State
  | pa :: pas, b :: bs => State.pokeEach (s.writePA1 pa b) pas bs
  | _, _ => s

/-- Replay mode and launch ordinal of the launch an operation belongs to. -/
def State.opReplay (s : State) (o : WqOp) : BitVec 2 × Nat :=
  match s.launch? o.slot with
  | some l => (l.replay, s.ordinal l.seq)
  | none => (0, 0)

/-- The command that sent an operation hears of it: the old value at `ret`, and one operation less on its way (R236, R258). -/
def State.opBack (s : State) (o : WqOp) (old : List Byte) : State :=
  match (s.tile o.tile).cmd? o.cslot with
  | none => s
  | some c =>
    if c.opsOut = 0 || (s.tile o.tile).point.map Point.slot != some o.slot then s
    else
      let s1 := match o.ret with
        | some (u, a) => s.moveSpan o.tile o.q u a old
        | none => s
      s1.setCmd o.tile { c with opsOut := c.opsOut - 1 }

/-- An operation that arrives at a die with a cut, and was sent before its own die's, is part of the state of the last link of its way
(R8, R393). -/
def State.noteOp (s : State) (die : Nat) (o : WqOp) : State :=
  match (if o.cut then none else (s.opWay die o).getLast?) with
  | some p => s.noteFlit p o
  | none => s

/-- WRITE_QUEUE_OPERATION (R236): the k-th operation on its way to the die arrives and is applied to its line's entry. One
channel's operations on a line arrive in order (R247), replay follows the logged order (R397), and one sent after its die's cut
does not arrive before this die's (R393). -/
def execWriteQueueOperation (die k : Nat) (s : State) : Res :=
  match (s.die die).wqIn[k]? with
  | none => .next s
  | some o =>
    let lines := pasLines o.pas
    if o.cut && (s.cut? (16 + die)).isNone then .next s
    else if ((s.die die).wqIn.take k).any fun p => p.tile == o.tile && (pasLines p.pas).any lines.contains then .next s
    else
      let (mode, ord) := s.opReplay o
      match s.logMerge mode ord o.wid.toNat (o.pas.headD 0 / 64) o.q o.e with
      | none => .next s
      | some s1 =>
        match (match s1.logOf o.slot with | some slot => s1.logLines slot lines | none => some s1) with
        | none => .next s
        | some s2 =>
          let s3 := lines.foldl State.openEntry s2
          let old := o.pas.map s3.readPA1
          let new := atomOp o.ty o.op (ofBytes old) o.x.toNat
          let s4 := s3.pokeEach o.pas (toBytes o.pas.length new)
          let at_ : Trail := { write := true, space := 1, at_ := o.pas.headD 0, n := o.pas.length, whole := true }
          let s5 := (s4.setDie die { s4.die die with wqIn := (s4.die die).wqIn.eraseIdx k }).note [at_, { at_ with write := false, now := true }]
          .next (((s5.opBack o old).noteOp die o).settleKill o.slot)

/-- WRITE_QUEUE_DRAIN (R236): an entry is written to the array. -/
def execWriteQueueDrain (die line : Nat) (s : State) : Res :=
  let x := s.die die
  match Tab.get? line x.wq with
  | none => .next s
  | some w =>
    let s1 := s.setDie die { x with wq := Assoc.erase line x.wq }
    .next (s1.pokePA (64 * line) (toBytes 64 w.toNat))

/-! ### Shootdowns (R226, R234) -/

/-- log2 of the size of what a shootdown's scope covers; none for a whole context or every context. -/
def shootLg (scope : Nat) : Option Nat := if scope = 0 then some 16 else if scope = 1 then some 29 else none

/-- A page of 2^lg bytes at va in a context is covered by the current shootdown. -/
def State.shootCovers (s : State) (ctx va lg : Nat) : Bool :=
  (s.ctl.shootScope == 3 || s.ctl.shootCtx.toNat == ctx) &&
    match shootLg s.ctl.shootScope.toNat with
    | none => true
    | some k => va / 2 ^ max k lg == s.ctl.shootFor.toNat / 2 ^ max k lg

/-- What a die drops: the entries that match, and for scopes 2 and 3 the cached descriptors. -/
def State.shootDie (s : State) (d : Nat) : State :=
  let x := s.die d
  s.setDie d { x with
    tlb := x.tlb.filter fun e => !s.shootCovers e.ctx e.va e.lg
    descs := if s.ctl.shootScope.toNat < 2 then x.descs else x.descs.filter fun p => !s.shootCovers p.1 0 0
    shootPend := false }

/-- A command stalled on a page that the shootdown covers may walk again; its page is the 64 KiB page of its address, also where the
leaf was larger: DESIGN CHOICE (log 77). -/
def State.freeCmd (s : State) (c : Command) : Command :=
  match c.stalled with
  | some (ctx, va) => if s.shootCovers ctx va 16 then { c with rewalk := true } else c
  | none => c

/-- Everything stalled on a covered page may walk again (R234). -/
def State.freeStalled (s : State) : State :=
  { s.mapTiles (fun x => { x with chan := x.chan.map s.freeCmd }) with
    posted := s.posted.map fun p => if s.shootCovers p.ctx p.va 16 then { p with rewalk := true } else p }

/-- Elements of the die's tiles that are translated and not performed (R226): operations that have not arrived at a write queue, and
elements that the shootdown's context gave whose push waits for room. -/
def State.opsFrom (s : State) (die : Nat) : Bool :=
  (s.dies.any fun d => d.2.wqIn.any fun o => s.dieOf o.tile == die) ||
    s.tiles.any fun p => s.dieOf p.1 == die && (s.ctl.shootScope == 3 || s.ctl.shootCtx.toNat == p.2.tctx) &&
      p.2.chan.any fun c => c.held.isSome && laySpace c.sl == 2

/-- SHOOTDOWN_ACK (R226): the die has dropped its entries and performed what it translated through them; with the last die, busy
clears. -/
def execShootdownAck (die : Nat) (s : State) : Res :=
  if !s.ctl.shootBusy || !(s.die die).shootPend || s.opsFrom die then .next s
  else
    let s1 := s.shootDie die
    if (List.range Config.numDies).any fun d => (s1.die d).shootPend then .next s1
    else .next { s1.freeStalled with ctl := { s1.ctl with shootBusy := false } }

/-! ### Host and remote pages -/

/-- COMPLETION_TIMEOUT (R227): a read of a host page by the command's next element ends as fault kind 5. It concerns no other
element. -/
def execCompletionTimeout (tile cslot : Nat) (s : State) : Res :=
  match (s.tile tile).cmd? cslot with
  | none => .next s
  | some c =>
    if !s.mayElement tile c || s.orderHold tile c then .next s
    else
      let s1 := s.element tile c true
      match (s1.tile tile).cmd? cslot with
      | some c1 => match c1.susp with
        | some q => if q.kind = 5 then .next s1 else .next s
        | none => .next s
      | none => .next s

/-- REMOTE_PAGE_ACCESS (R406): a far module's element arrives over a link that is up: a write is performed and acknowledged, a
read returns its bytes, and an address above module memory is refused. -/
def execRemotePageAccess (link pa : Nat) (data : Option (List Byte)) (len : Nat) (s : State) : Res :=
  if !(Assoc.get 0 link s.ctl.links).getLsbD 16 then .next s
  else
    let n := match data with | some bs => bs.length | none => len
    if pa + n > Config.memBytes then .next (s.complete (.abort (16 + link)))
    else match data with
      | some bs => .next ((s.pokePA pa bs).complete (.data (16 + link) []))
      | none => .next (s.complete (.data (16 + link) (s.readPA pa len)))

/-! ### Memory errors (R220, R382) -/

/-- ECC_CORRECTED (R220): counted on the line's die; software sees no change. -/
def execEccCorrected (line : Nat) (s : State) : Res :=
  if 64 * line ≥ Config.memBytes then .next s
  else
    let d := dieOfLine line
    .next (s.setDie d { s.die d with eccCount := (s.die d).eccCount + 1 })

/-- Launch slots that are checkpointed; one that is being killed is no longer marked or rolled back. -/
def State.ckptSlots (s : State) : List Nat := (s.launches.filter fun p => p.2.checkpointed && p.2.dying.isNone).map fun p => p.1

/-- An undo-log entry applied: its 64 bytes written back. -/
def State.undoEntry (s : State) (base i : Nat) : State :=
  let a := base + 72 * i
  s.pokePA (bits (s.wordPA a) 0 40) (s.readPA (a + 8) 64)

/-- A die's log applied in reverse order of writing (R382). The interval goes on with it: only undo-log writes and marks change its
counters (R322), and the lines it holds have their old contents logged. -/
def State.undoDie (s : State) (d : Nat) : State :=
  let x := s.die d
  (List.range (x.undoUsed / 72)).foldr (fun i s' => s'.undoEntry x.undoBase.toNat i) s

/-- Points of a list launch as its last mark saved them, with the counts of the list record (R371, R382). -/
def State.restoreList (s : State) (slot : Nat) (l : Launch) : State :=
  match l.markPts with
  | none => s.setLaunch slot { l with pts := [], started := false, cntA := 0, cntC := 0, cleared := false, idle := 0, ntrap := 0 }
  | some ps =>
    let idxOf (p : LPoint) : Option Nat := match p.place with | .parked i => some i | .trapped i => some i | _ => none
    let pts := ps.filterMap fun p => (idxOf p).map fun i => { p with place := if s.recTrapped l i then .trapped i else .parked i }
    let a := ((s.wordVA l.tctx (l.ctxVA + 8)).getD 0, (s.wordVA l.tctx (l.ctxVA + 16)).getD 0)
    let parked := pts.filterMap fun p => match p.place with | .parked i => some (slot, i) | _ => none
    let trapped := pts.filterMap fun p => match p.place with | .trapped i => some i | _ => none
    let l1 := { l with
      pts := pts, started := true, cntA := a.1, cntC := a.2, cleared := false, idle := 0, ntrap := trapped.length }
    trapped.foldl (fun s1 i => s1.noteTrapped slot (l.recVA i)) { s.setLaunch slot l1 with parkedQ := s.parkedQ ++ parked }

/-- A checkpointed launch restored in its own slot, from its frontier and records where a mark has saved them or it was itself restored from
them, else from its start (R351, R382). A frontier that cannot be restored is rejected with condition 11 (R197). -/
def State.restoreLaunch (s : State) (slot : Nat) : State :=
  match s.launch? slot with
  | none => s
  | some l =>
    let l0 := { l with state := if l.state = 3 then 3 else 1, held := false, ending := false, ntrap := 0, pts := [], cols := [] }
    if l0.isList then s.restoreList slot l0
    else if l0.markPts.isSome || l0.saved then
      match s.loadFrontier l0 with
      | some (l1, cols, fly) => s.putFrontier slot l1 cols fly
      | none => (s.freeSlot slot).rejectLaunch l0 slot 11
    else s.setLaunch slot l0

/-- A rollback (R382): every point of every checkpointed launch stops without saving, the logs are applied, and each launch is
restored. -/
def State.rollback (s : State) : State :=
  let slots := s.ckptSlots
  let s1 := s.vacateAll (slots.flatMap s.tilesOf)
  let s2 := { s1.mapDies (fun x => { x with wqIn := x.wqIn.filter fun o => !slots.contains o.slot }) with
    parkedQ := s1.parkedQ.filter fun p => !slots.contains p.1
    heldFail := s1.heldFail.filter fun p => !slots.contains p.1
    resumeWait := s1.resumeWait.filter fun p => !slots.contains p.1 }
  let s3 := (List.range Config.numDies).foldl State.undoDie s2
  slots.foldl State.restoreLaunch s3

/-- Cause 0x11's TRAP_DATA and the tile and engine that consume the data (Table 19-1). -/
def siteData : ErrSite → Option (Nat × Engine × Nat)
  | .line t e pa => some (t, e, 1 + pa / 64 * 2 ^ 8)
  | .row t e r => some (t, e, 2 + r * 2 ^ 8)
  | .register t e => some (t, e, 3)
  | .queue t e => some (t, e, 4)
  | .unowned _ => none

/-- The word an engine of a tile executes next, at which an error is met: for the X engine, the command whose element runs. -/
def State.trapAt (s : State) (t : Nat) (e : Engine) (data : Nat) : State :=
  let x := s.tile t
  match e with
  | .S =>
    if x.halted then s
    else s.trapS t x.pc.toNat (if x.sIn then x.sNum else match x.headerAtPC with | some h => h.num.toNat | none => 0) false 0x11 data
  | .X => match x.chan.find? fun c => c.accepted && !c.done && c.trap.isNone with
    | some c => s.setCmd t { c with trap := some (0x11, BitVec.ofNat 64 data) }
    | none => s
  | .L | .A | .W | .M => match x.nextWord t e with
    | some (i, _) => s.takeTrap i false 0x11 data
    | none => s

/-- UNCORRECTABLE_SOFT_ERROR (R382): in a checkpointed launch a rollback; else the point that meets it traps, and an error that
is in no point's own state kills the launch. -/
def execUncorrectableSoftError (site : ErrSite) (s : State) : Res :=
  match site, siteData site with
  | .unowned slot, _ => match s.launch? slot with
    | none => .next s
    | some l => .next (if l.checkpointed then s.rollback else s.kill slot 4)
  | _, some (t, e, data) => match s.launchOf t with
    | none => .next s
    | some l => .next (if l.checkpointed then s.rollback else s.trapAt t e data)
  | _, none => .next s

end Sys2Proof.Machine
end

