-- ==== Sys2Proof/Machine/Record.lean ====
section
/-! DEFINITION. The context record of a point (R371-R376, Tables 19-4 and 19-5): its bytes, and their writing into the context
area. A quench dump has the same layout (R391). -/

namespace Sys2Proof.Machine

/-! ### Liveness (R375) -/

/-- The liveness slots of the innermost active loop record; none where no record is active, or where its slots are not known
(log 31). -/
def Tile.liveness (x : Tile) : Option (BitVec 288) :=
  match (x.kLive.zip x.ks).find? fun p => kRec p.2 with
  | some (l, _) => l
  | none => none

/-- Bit k of the three liveness slots taken as one string (Table 03-12); without slots every register is live. -/
def liveBit (l : Option (BitVec 288)) (k : Nat) : Bool := match l with | some b => b.getLsbD k | none => true

def liveG (l : Option (BitVec 288)) (n : Nat) : Bool := liveBit l (192 + n)
def liveP (l : Option (BitVec 288)) (n : Nat) : Bool := liveBit l (256 + n)
def liveM (l : Option (BitVec 288)) (n : Nat) : Bool := liveBit l (264 + n)
def liveC (l : Option (BitVec 288)) (n : Nat) : Bool := liveBit l (268 + n)

/-- The name that maps to a physical vector register under RB (R87). -/
def vregName (rb : BitVec 7) (phys : Nat) : Nat := if phys < 64 then phys else 64 + (phys - 64 + 128 - rb.toNat) % 128

def liveV (l : Option (BitVec 288)) (rb : BitVec 7) (phys : Nat) : Bool := liveBit l (vregName rb phys)

/-! ### Word, section and command records (R373, R374) -/

/-- n zero bytes. -/
def zeros (n : Nat) : List Byte := List.replicate n 0

/-- A word record: 192 bytes for an X word, 64 for another. -/
def FwdWord.record (e : Engine) (w : FwdWord) : List Byte :=
  let vals := w.cap.vals.flatMap fun v => toBytes 8 v.toNat
  let front := toBytes 12 w.slot.toNat ++ toBytes 2 w.cap.preds.toNat ++ zeros 2
  if e == Engine.X then
    front ++ padTo 40 vals ++ toBytes 4 w.cap.seed.toNat ++ toBytes 4 w.cap.q ++ toBytes 64 w.cap.sl.toNat ++ toBytes 64 w.cap.dl.toNat
  else front ++ padTo 32 vals ++ padTo 16 (w.cap.regs.map (BitVec.ofNat 8))

/-- Bytes of a word record. -/
def wordRecBytes (e : Engine) : Nat := if e == Engine.X then 192 else 64

/-- The section's generation as W3 of its record gives it, relative to the innermost active record. -/
def Tile.recGen (x : Tile) (c : Section) : Nat :=
  match x.records with
  | [] => 0
  | (id, _) :: _ => if c.relGen id < 0 then 2 ^ 32 else (c.relGen id).toNat % 2 ^ 32

/-- A section record, of the words not yet executed. -/
def Tile.secRecord (x : Tile) (c : Section) : List Byte :=
  let ws := c.words.drop c.idx
  toBytes 8 { c.hdr with len := BitVec.ofNat 10 ws.length }.toBits.toNat ++
    toBytes 8 (c.seq % 2 ^ 32 + c.tag % 256 * 2 ^ 32 + (c.first + c.idx) % 1024 * 2 ^ 40 + ofBool c.started * 2 ^ 50) ++
    toBytes 8 (c.hdrAddr % 2 ^ 20) ++ toBytes 8 (x.recGen c) ++ ws.flatMap (FwdWord.record c.eng)

/-- A held push: bytes 208 to 279 of a command record. -/
def pushRecord : Option HeldPush → List Byte
  | none => zeros 72
  | some h =>
    let p := h.payload.getD []
    toBytes 2 (match h.head with | some w => w.toNat | none => 0) ++ toBytes 1 p.length ++
      toBytes 1 (ofBool h.head.isSome + ofBool h.payload.isSome * 2) ++ zeros 4 ++ padTo 64 p

/-- Lane state: bytes 280 to 297. -/
def Lane.record (l : Lane) : List Byte :=
  toBytes 2 l.q ++ (List.range 4).flatMap (fun i => toBytes 1 (l.fields.getD i []).length) ++ toBytes 4 l.counter.toNat ++
    toBytes 2 l.inCount ++ toBytes 2 l.holds ++ toBytes 4 l.outCount

/-- A command failed by RESUME, its trap waiting for older commands: it is saved as suspended, and failed again at its restore
(log 30). -/
def Command.failed (c : Command) : Bool := match c.trap with | some (cause, d) => cause == 0x10 && bits d.toNat 0 4 == 4 | none => false

/-- A command record: 768 bytes. -/
def Command.record (c : Command) : List Byte :=
  let susp := c.susp.isSome || c.failed
  let pos := if c.fn = 0x19 then c.lane.outCount else c.outPos
  c.word.record Engine.X ++
    toBytes 8 (c.e % 2 ^ 48 + ofBool c.accepted * 2 ^ 48 + ofBool susp * 2 ^ 49 + ofBool c.void * 2 ^ 50) ++
    toBytes 8 pos ++ pushRecord c.held ++ c.lane.record ++ zeros 2 ++
    toBytes 4 (c.word.addr % 2 ^ 20 + c.tag % 256 * 2 ^ 20) ++
    toBytes 2 (c.recTile.getD 0 + ofBool c.unanswered * 2 ^ 15) ++ toBytes 1 c.cslot ++ zeros 205 ++
    (List.range 4).flatMap fun i => padTo 64 (c.lane.fields.getD i [])

/-! ### The record (Tables 19-4, 19-5) -/

def recMagic : Nat := 0x5843_5848
def dumpMagic : Nat := 0x5144_5848

/-- The sections a record holds: those with words not yet executed; a dump also holds those whose results are in flight (R391). -/
def Tile.recSecs (x : Tile) (dump : Bool) : List Section :=
  x.secs.filter fun c => decide (c.idx < c.words.length) || (dump && (x.inflight.any (fun i => i.seq == c.seq) || x.late.any fun i => i.seq == c.seq))

/-- Bytes of the section records. -/
def Tile.secBytes (x : Tile) (dump : Bool) : List Byte := (x.recSecs dump).flatMap x.secRecord

/-- The S engine stands at a waiting word, and did not trap there. -/
def Tile.sWaits (x : Tile) : Bool :=
  x.waitWhy .S != 0 && !(match x.stop with | some st => st.trapped && st.eng == some Engine.S | none => false)

/-- gstop: the stopping generation in eight bits. -/
def Tile.recGstop (x : Tile) : Nat := match x.stop with | some st => wrap 8 st.gen | none => 0

/-- The record's header (Table 19-5). -/
def Tile.recHeader (x : Tile) (dump : Bool) (scyc : Nat) : List Byte :=
  let trapped := match x.stop with | some st => st.trapped | none => false
  let known := !dump && x.liveness.isSome
  [(if dump then dumpMagic else recMagic) + 2 ^ 32,
   ofBool trapped + ofBool x.halted * 2 + ofBool known * 4 + ofBool x.sWaits * 8 + x.recGstop * 256,
   x.pointId.toNat, x.launchId.toNat,
   x.fifoA.length + x.fifoB.length * 2 ^ 16 + x.sqa.length * 2 ^ 32 + x.sqb.length * 2 ^ 48,
   x.chan.length + (x.secBytes dump).length * 2 ^ 32,
   (match x.mStep with | some (k + 1) => (k + 1) % 2 ^ 16 + 2 ^ 16 | _ => 0),
   scyc,
   (match x.point with | some p => p.home | none => 0),
   (if x.sIn then x.sHdr.toNat + 2 ^ 20 else 0)].flatMap (toBytes 8)

/-- c0-c7, s0-s7, RB and depth, with the scalar predicates that are live. -/
def Tile.recPreds (x : Tile) (l : Option (BitVec 288)) : Nat :=
  maskOf (fun n => x.c.getLsbD n && liveC l n) 8 + x.sw.toNat * 2 ^ 8 + x.rb.toNat * 2 ^ 16 + x.ks.length * 2 ^ 24

/-- Work-list state (Table 16-4). -/
def Tile.recList (x : Tile) : Nat := ofBool x.wlGone + ofBool x.wlDone * 2 + x.wlHead * 2 ^ 2 + x.wlCount * 2 ^ 18

/-- The parts of a record that are not zero, as offsets and bytes; the bytes between them are zero. -/
def Tile.recSegs (x : Tile) (dump : Bool) (scyc : Nat) : List (Nat × List Byte) :=
  let l := if dump then none else x.liveness
  let fixed : List (Nat × List Byte) :=
    [(0, x.recHeader dump scyc),
     (0x100, [x.pc.toNat, (~~~x.gEmpty).toNat, x.recPreds l, x.fp.toNat, x.seed.toNat, x.trapCause.toNat, x.trapEngine.toNat,
       x.trapSection.toNat, x.trapWord.toNat, x.trapData.toNat, x.waitHead.toNat, x.xq % 2 ^ 32].flatMap (toBytes 8)),
     (0x1C0, x.ks.flatMap fun k => toBytes 16 k.toNat),
     (0x600, toBytes 36 (match l with | some b => b.toNat | none => 0)),
     (0x640, toBytes 24 (~~~x.vEmpty).toNat),
     (0x660, toBytes 8 x.recList),
     (0x1000, regBytes x.lg),
     (0x8000, x.fifoA), (0xC000, x.fifoB),
     (0x10000, x.sqa.flatMap fun w => toBytes 2 w.toNat), (0x10800, x.sqb.flatMap fun w => toBytes 2 w.toNat),
     (0x100000, x.chan.flatMap Command.record),
     (0x130000, x.secBytes dump)]
  fixed ++
    x.pcs.map (fun p => (0x180 + 8 * p.1, toBytes 8 p.2.toNat)) ++
    (x.g.filter fun p => liveG l p.1).map (fun p => (0x400 + 8 * p.1, toBytes 8 p.2.toNat)) ++
    (x.p.filter fun p => liveP l p.1).map (fun p => (0x680 + 128 * (p.1 - 1), toBytes 128 p.2.toNat)) ++
    x.rings.map (fun p => (0xA00 + 16 * p.1, toBytes 16 p.2.toNat)) ++
    x.layout.map (fun p => (0x2000 + 64 * p.1, toBytes 64 p.2.toNat)) ++
    x.waitLog.map (fun p => (0x6000 + 16 * p.1, toBytes 16 p.2.toNat)) ++
    (x.m.filter fun p => liveM l p.1).map (fun p => (0x20000 + 16384 * p.1, toBytes 16384 p.2.toNat)) ++
    (x.v.filter fun p => liveV l x.rb p.1).map (fun p => (0x30000 + 4096 * p.1, regBytes p.2))

/-- Offset of scratchpad row r in a record. -/
def recRow (r : Nat) : Nat := 0xC00000 + 256 * r

/-! ### Saved rows (R376) -/

/-- The live-row map of a launch: bit r for row r; none where it cannot be read. -/
def State.liveMap (s : State) (l : Launch) : Option Nat :=
  let va := hdrField l.hdr 6 0 64
  if va = 0 then some 0 else (s.readVA l.tctx va 2048).map ofBytes

/-- The rows a record of a launch holds, beneath its live-row map. -/
def Launch.savedRows (l : Launch) (live : Nat) : List Nat :=
  let code := hdrField l.hdr 4 20 14
  let ncode := hdrField l.hdr 4 34 14
  let wl := hdrField l.hdr 5 0 14
  let nwl := hdrField l.hdr 5 14 14
  (List.range Config.spRows).filter fun r =>
    r < 4 || (wl ≤ r && r < wl + nwl) || (bit live r && !(code ≤ r && r < code + ncode))

/-! ### Writing -/

/-- Zeros in module memory, in the array and in pending write-queue entries (R237). -/
def zeroMem (pa n : Nat) (s : State) : State :=
  let s1 := s.mapDies fun x => { x with wq := x.wq.map fun e => (e.1,
    BitVec.ofNat 512 (ofBytes ((List.range 64).map fun i =>
      if pa ≤ 64 * e.1 + i && 64 * e.1 + i < pa + n then 0 else BitVec.ofNat 8 (elemNat 8 e.2.toNat i)))) }
  { s1 with mem := Memory.clear s1.mem pa n }

/-- A run of zeros at a place; none while the undo log is full. -/
def State.zeroPlace (s : State) (log : Option Nat) (p : Place) (n : Nat) : Option State :=
  match p with
  | .mem pa => (match log with | none => some s | some slot => s.logLines slot (linesOf pa n)).map (zeroMem pa n)
  | .host port a => some { s with hostMem := Memory.clear s.hostMem (hostKey port a) n }
  | .far m pa => s.writePlace log (.far m pa) (zeros n)

/-- Zeros by virtual address; every page is known to translate. None while a write must wait, as in `writePieces`. -/
def State.zeroVA (s : State) (log : Option Nat) (ctx va n : Nat) : Option State :=
  (piecesOf va n).foldl (fun r p => r.bind fun s1 =>
    match s1.translate ctx p.1 .write with
    | .error _ => none
    | .ok l => if pteMig l.pte then none else s1.zeroPlace log (l.place (p.1 % 2 ^ 57)) p.2) (some s)

/-- Parts written by virtual address; every page is known to translate. -/
def State.putSegs (s : State) (log : Option Nat) (ctx va : Nat) : List (Nat × List Byte) → Option State
  | [] => some s
  | (off, bs) :: l => (s.writePieces log ctx bs (piecesOf (va + off) bs.length)).bind fun s1 => State.putSegs s1 log ctx va l

/-- Bytes of a record in front of its rows, and all its bytes: rows that are not saved are written as 0 (R371, R372). -/
def recBody : Nat := 0xC00000
def recLen : Nat := 2 ^ 24

/-- What saving a point comes to. -/
inductive Saved where
  /-- a write took a translation fault: the launch is killed (R371) -/
  | fault
  /-- a write must wait: for the undo log (R379), a page that migrates (R235), or a link (R406) -/
  | wait
  | ok (s : State)

/-- The context record of tile t's point written at record idx of its launch (R371). -/
def State.putRecord (s : State) (t : Nat) (l : Launch) (log : Option Nat) (idx : Nat) : Saved :=
  let va := l.recVA idx
  let x := s.tile t
  match s.liveMap l with
  | none => .fault
  | some live =>
    let rows := l.savedRows live
    if !s.mapped l.tctx va recLen .write then .fault
    else
      let segs := x.recSegs false s.scyc.toNat ++ rows.map fun r => (recRow r, x.readBytes (256 * r) 256)
      match (s.zeroVA log l.tctx va recLen).bind fun s1 => s1.putSegs log l.tctx va segs with
      | none => .wait
      | some s1 => .ok s1

end Sys2Proof.Machine
end

