-- ==== Sys2Proof/Machine/RecLoad.lean ====
section
/-! DEFINITION. Reading a context record back into a tile (R377), and a quench dump into its quenched tile (R392). Software may
have edited the record: every field is cut to its width. -/

namespace Sys2Proof.Machine

/-- The little-endian number of n bytes at an offset of a record. -/
abbrev RecRead := Nat → Nat → Nat

/-- A table of n entries from a function. -/
def loadTab {α : Type} [DecidableEq α] (d : α) (n : Nat) (f : Nat → α) : List (Nat × α) :=
  (List.range n).foldl (fun l k => Assoc.set d k (f k) l) []

/-- n bytes at an offset. -/
def recRun (rd : RecRead) (off n : Nat) : List Byte := toBytes n (rd off n)

/-! ### Words, sections, commands -/

/-- A forwarded word from its record (R373). RB at forwarding is not in it (log 16). -/
def wordOfRecord (e : Engine) (rd : RecRead) (off addr : Nat) : FwdWord :=
  let w : Slot := BitVec.ofNat 96 (rd off 12)
  let isX := e == Engine.X
  { slot := w, addr := addr,
    cap := {
      preds := BitVec.ofNat 16 (rd (off + 12) 2)
      vals := (captured w).zipIdx.map fun p => BitVec.ofNat 64 (rd (off + 16 + 8 * p.2) 8)
      sl := if isX then BitVec.ofNat 512 (layMask (rd (off + 64) 64)) else 0
      dl := if isX then BitVec.ofNat 512 (layMask (rd (off + 128) 64)) else 0
      seed := if isX then BitVec.ofNat 32 (rd (off + 56) 4) else 0
      q := if isX then rd (off + 60) 4 else 0
      regs := if slotClass w == 4 && (slotFn w == 0x04 || slotFn w == 0x05) then (List.range 4).map fun i => rd (off + 48 + i) 1 else [] } }

/-- The loop records a restored section was forwarded in: the innermost with the generation of W3, and those around it with the
counts they have had since it was entered (log 31). -/
def Tile.recGens (x : Tile) (w3 : Nat) : List (Nat × Nat) :=
  match x.records with
  | [] => []
  | (id, _) :: outer => if bit w3 32 then [] else (id, bits w3 0 32) :: outer

/-- A header with its reserved bits read as 0 (R2, Table 03-15). -/
def headerMask (w : BitVec 64) : BitVec 64 := w &&& ~~~6#64

/-- One section record (R373), and the offset behind it. -/
def Tile.secOfRecord (x : Tile) (rd : RecRead) (off : Nat) : Section × Nat :=
  let h := Header.ofBits (headerMask (BitVec.ofNat 64 (rd off 8)))
  let w1 := rd (off + 8) 8
  let a := bits (rd (off + 16) 8) 0 20
  let e := engOf h.eng.toNat
  let first := bits w1 40 10
  let n := h.len.toNat
  ({ eng := e, hdr := h, hdrAddr := a, seq := bits w1 0 32, tag := bits w1 32 8, gens := x.recGens (rd (off + 24) 8), deps := [],
     started := bit w1 50, first := first,
     words := (List.range n).map fun j => wordOfRecord e rd (off + 32 + wordRecBytes e * j) (a + 1 + first + j) },
   off + 32 + wordRecBytes e * n)

/-- The section records up to an end. -/
def Tile.secsOfRecord (x : Tile) (rd : RecRead) (stop : Nat) : (fuel : Nat) → (off : Nat) → List Section
  | 0, _ => []
  | k + 1, off =>
    if off + 32 > stop then []
    else
      let (c, next) := x.secOfRecord rd off
      c :: Tile.secsOfRecord x rd stop k next

/-- Dependences among restored sections, and the table of latest sections: one that names no section restored before it counts as
met, and a started section's have been met (R377). -/
def linkSecs : (last : List (Nat × Nat)) → List Section → List Section × List (Nat × Nat)
  | last, [] => ([], last)
  | last, c :: cs =>
    let deps := if c.started then [] else (c.hdr.deps c.eng).filterMap fun (e, n) =>
      match Assoc.get 0 (256 * e.code + n) last with
      | 0 => none
      | q + 1 => some q
    let (r, last') := linkSecs (Assoc.set 0 (256 * c.eng.code + c.hdr.num.toNat) (c.seq + 1) last) cs
    ({ c with deps := deps } :: r, last')

/-- A held push from bytes 208 to 279. -/
def pushOfRecord (rd : RecRead) (off : Nat) (side : Nat) : Option HeldPush :=
  let f := rd (off + 3) 1
  if f % 4 = 0 then none
  else some
    { side := side
      head := if bit f 0 then some (BitVec.ofNat 16 (rd off 2)) else none
      payload := if bit f 1 then some (recRun rd (off + 8) (min (rd (off + 2) 1) 64)) else none }

/-- Lane state from bytes 280 to 297 and the field registers. -/
def laneOfRecord (rd : RecRead) (off : Nat) : Lane :=
  { q := rd (off + 280) 2 % 1024
    fields := (List.range 4).map fun i => recRun rd (off + 512 + 64 * i) (min (rd (off + 282 + i) 1) 64)
    counter := BitVec.ofNat 32 (rd (off + 286) 4)
    inCount := rd (off + 290) 2
    holds := rd (off + 292) 2
    outCount := rd (off + 294) 4 }

/-- The X section that holds a word address in the code rows: the nearest header in front of it. -/
def Tile.xHome (x : Tile) (addr : Nat) : Option (Nat × Header) :=
  (List.range 1024).findSome? fun i =>
    if i + 1 > addr then none
    else match decodeHeader (x.slotAt (addr - 1 - i)) with
      | .ok h => if h.eng == 5 && i + 1 ≤ h.len.toNat then some (addr - 1 - i, h) else none
      | .error _ => none

/-- Whether a restored command has nothing left to perform. -/
def Command.finished (c : Command) : Bool :=
  c.accepted && (match c.fn with
    | 10 => true
    | 11 => decide (c.e ≥ 1)
    | _ => if c.lastStep then decide (c.e > c.count) else decide (c.e ≥ c.count))

/-- A command from its record (R374). It is not suspended: it takes up its element again (R232), and has counted no page (log 71). -/
def Tile.cmdOfRecord (x : Tile) (rd : RecRead) (off : Nat) : Command :=
  let st := rd (off + 192) 8
  let ad := rd (off + 300) 4
  let fr := rd (off + 304) 2
  let acc := bit st 48
  let addr := bits ad 0 20
  let c : Command :=
    { cslot := rd (off + 306) 1, word := wordOfRecord .X rd off addr,
      num := (match x.xHome addr with | some p => p.2.num.toNat | none => 0),
      tag := bits ad 20 8, seq := 0, e := bits st 0 48, accepted := acc, void := bit st 50, outPos := rd (off + 200) 8,
      recTile := if fr = 0 then none else some (bits fr 0 10), unanswered := bit fr 15 }
  let c1 := { c with
    count := if acc then c.countOf else 0
    held := pushOfRecord rd (off + 208) (layBase c.dl % 2)
    lane := if c.fn = 0x19 then { laneOfRecord rd off with consumed := c.e } else {}
    mask := if acc && c.fn = 6 then c.maskTiles x else [] }
  { c1 with done := c1.finished && c1.held.isNone }

/-- Sequence numbers of restored commands: that of the restored section a command's word stood in front of, else one to each
other section the commands come from, behind all restored ones (log 31). -/
def Tile.seqCmds (x : Tile) (secs : List Section) (base : Nat) (cs : List Command) : List Command :=
  let key (c : Command) : Nat × Nat := ((match x.xHome c.word.addr with | some p => p.1 | none => 0), c.tag)
  let own (c : Command) : Option Section := secs.find? fun d => d.eng == Engine.X && (d.hdrAddr, d.tag) == key c && c.word.addr ≤ d.hdrAddr + d.first
  let keys := ((cs.filter fun c => (own c).isNone).map key).eraseDups
  cs.map fun c => { c with seq := match own c with | some d => d.seq | none => base + keys.idxOf (key c) }

/-! ### Registers and queues -/

/-- A loop-index stack entry: the reserved bits read 0 (Table 05-2). -/
def kOfRecord (n : Nat) : BitVec 128 := kMake (bit n 126) (bits n 123 3) (bits n 84 20) (bits n 64 20) (bits n 32 32) (bits n 0 32)

/-- A wait-log entry: W1 [4:0] is reserved and reads 0 (Table 17-3). -/
def waitMask (n : Nat) : Nat := bits n 0 64 + bits n 69 59 * 2 ^ 69

/-- The run of a restored queue: its contents are not counted as a move command's (log 31). -/
def restRuns (ns : List Nat) : List (Nat × List (Nat × Bool)) :=
  (ns.zipIdx.filter fun p => p.1 != 0).map fun p => (p.2, [(p.1, false)])

/-- The registers, tables and queues of a record put into a tile (R377). -/
def Tile.loadRegs (b : Tile) (rd : RecRead) : Tile :=
  let w (i : Nat) : Nat := rd (8 * i) 8
  let preds := rd 0x110 8
  let depth := min (bits preds 24 3) 6
  let nfa := min (bits (w 4) 0 15) Config.fifoCap
  let nfb := min (bits (w 4) 16 15) Config.fifoCap
  let nsa := min (bits (w 4) 32 11) Config.sqCap
  let nsb := min (bits (w 4) 48 11) Config.sqCap
  let wl := rd 0x660 8
  { b with
    pointId := BitVec.ofNat 64 (w 2)
    g := (loadTab 0 64 fun n => BitVec.ofNat 64 (rd (0x400 + 8 * n) 8)).filter fun p => p.1 != 0
    gEmpty := ~~~(BitVec.ofNat 64 (rd 0x108 8)) &&& ~~~1#64
    c := BitVec.ofNat 8 (bits preds 0 8) ||| 1#8
    sw := BitVec.ofNat 8 (bits preds 8 8)
    rb := BitVec.ofNat 7 (bits preds 16 7)
    ks := (List.range depth).map fun i => kOfRecord (rd (0x1C0 + 16 * i) 16)
    v := loadTab 0 192 fun n => BitVec.ofNat 32768 (rd (0x30000 + 4096 * n) 4096)
    vEmpty := ~~~(BitVec.ofNat 192 (rd 0x640 24))
    p := (loadTab 0 8 fun n => if n = 0 then 0 else BitVec.ofNat 1024 (rd (0x680 + 128 * (n - 1)) 128))
    m := loadTab 0 4 fun n => BitVec.ofNat 131072 (rd (0x20000 + 16384 * n) 16384)
    lg := BitVec.ofNat 32768 (rd 0x1000 4096)
    fp := BitVec.ofNat 6 (rd 0x118 8)
    seed := BitVec.ofNat 32 (rd 0x120 8)
    trapCause := BitVec.ofNat 8 (rd 0x128 8)
    trapEngine := BitVec.ofNat 4 (rd 0x130 8)
    trapSection := BitVec.ofNat 16 (rd 0x138 8)
    trapWord := BitVec.ofNat 20 (rd 0x140 8)
    trapData := BitVec.ofNat 64 (rd 0x148 8)
    waitHead := BitVec.ofNat 7 (rd 0x150 8)
    xq := rd 0x158 4
    pcs := loadTab 0 8 fun n => BitVec.ofNat 48 (rd (0x180 + 8 * n) 8)
    pcsPrev := loadTab 0 8 fun n => BitVec.ofNat 48 (rd (0x180 + 8 * n) 8)
    waitLog := loadTab 0 64 fun n => BitVec.ofNat 128 (waitMask (rd (0x6000 + 16 * n) 16))
    pc := BitVec.ofNat 20 (rd 0x100 8)
    sIn := bit (w 9) 20
    sHdr := BitVec.ofNat 20 (w 9)
    halted := bit (w 1) 1
    mStep := if bit (w 6) 16 then some (bits (w 6) 0 16) else none
    fifoA := recRun rd 0x8000 nfa
    fifoB := recRun rd 0xC000 nfb
    sqa := (List.range nsa).map fun i => BitVec.ofNat 16 (rd (0x10000 + 2 * i) 2)
    sqb := (List.range nsb).map fun i => BitVec.ofNat 16 (rd (0x10800 + 2 * i) 2)
    runs := restRuns [nsa, nsb, nfa, nfb]
    layout := loadTab 0 256 fun n => BitVec.ofNat 512 (layMask (rd (0x2000 + 64 * n) 64))
    rings := loadTab 0 16 fun n => BitVec.ofNat 128 (ringMask (rd (0xA00 + 16 * n) 16))
    wlCount := min (bits wl 18 17) b.wlCap
    wlHead := if b.wlCap = 0 then 0 else bits wl 2 16 % b.wlCap
    wlDone := bit wl 1
    wlGone := bit wl 0
    lPush := none, waiters := [], waits := [], standing := none, atLoop := false, inflight := [],
    late := [], rowsOut := [], rowsIn := [], loadFix := none, copies := [], bpHold := false }

/-- The S section that the S engine is inside, read from the header at shdr in the code rows (R377). -/
def Tile.loadS (x : Tile) : Tile :=
  if !x.sIn then { x with sHdr := 0, sNum := 0, sEnd := 0 }
  else
    let h := Header.ofBits ((x.slotAt x.sHdr.toNat).extractLsb' 0 64)
    { x with sNum := h.num.toNat, sEnd := x.sHdr.toNat + 1 + h.len.toNat }

/-- The loop records of a restored point get new instance numbers; the innermost record's liveness slots come with it. -/
def Tile.loadLoops (x : Tile) (rd : RecRead) : Tile :=
  let n := x.ks.length
  let inner := x.ks.findIdx kRec
  let slots : BitVec 288 := liveMask (BitVec.ofNat 288 (rd 0x600 36))
  { x with
    kIds := (List.range n).reverse
    nextRec := n
    kLive := (List.range n).map fun i => if i == inner && bit (rd 8 8) 2 then some slots else none }

/-- The sections of a record, in the order it holds them; a record of an S section is none. -/
def Tile.recSections (x : Tile) (rd : RecRead) : List Section :=
  let n := min (rd 44 4) 11337728
  (x.secsOfRecord rd (0x130000 + n) (n / 32) 0x130000).filter fun c => c.eng != Engine.S

/-- The commands of a record, their sections' numbers found in the code rows. -/
def Tile.recCommands (x : Tile) (rd : RecRead) : List Command :=
  (List.range (min (bits (rd 40 8) 0 9) Config.chanCap)).map fun i => x.cmdOfRecord rd (0x100000 + 768 * i)

/-- A restored command with what is kept beside its record (log 31). -/
def Command.withKept (ks : List KeptCmd) (c : Command) : Command :=
  match ks.find? fun k => k.cslot == c.cslot with
  | some k => { c with seq := k.seq, vtile := k.vtile, mask := if c.accepted && c.fn = 6 then k.mask else [] }
  | none => c

/-- The sections and commands of a record put into a tile whose registers and rows are restored (R377), with what is kept beside it of the
sections the point has forwarded: their count goes on, and its commands keep theirs (R373). -/
def Tile.loadWork (x : Tile) (q : LPoint) (rd : RecRead) : Tile :=
  let (secs, last) := linkSecs [] (x.recSections rd)
  let base := secs.foldl (fun m c => max m (c.seq + 1)) q.seqNext
  let cs := (x.seqCmds secs base (x.recCommands rd)).map (Command.withKept q.cmds)
  let next := cs.foldl (fun m c => max m (c.seq + 1)) base
  let last1 := cs.foldl (fun l c =>
    let k := 256 * Engine.X.code + c.num
    if Assoc.get 0 k last = 0 then Assoc.set 0 k (c.seq + 1) l else l) last
  { x with secs := secs, chan := cs, seqNext := next, lastSec := last1, relPend := pendsOf x.rings next x.xq }

/-- A point resumed after a breakpoint trap executes its reported slot without matching it again (R386, log 31). -/
def Tile.passBreak (x : Tile) : Tile :=
  let hit := x.trapCause == 0x0D && !x.trapData.getLsbD 63
  { x with
    bpPassed := x.bpPassed || (hit && x.trapWord == x.pc)
    bpFired := x.bpFired ||| if hit && x.trapData.getLsbD 2 then 1#4 <<< (x.trapData.toNat % 4) else 0 }

/-- The scratchpad of a restored point: code rows from the image, saved rows from the record, every other row zero (R377). -/
def State.restoreRows (s : State) (l : Launch) (rows : List Nat) (rd : RecRead) : List Host.Cell :=
  s.installCode l (rows.foldl (fun m r => Memory.writeN m (256 * r) (recRun rd (recRow r) 256)) [])

/-- A point's tile restored from its record (R377, R96), and what the module has kept beside it (log 31). -/
def State.restorePoint (s : State) (p : Point) (l : Launch) (q : LPoint) (rows : List Nat) (rd : RecRead) : Tile :=
  let b : Tile :=
    { point := some { p with started := true }
      priv := l.priv
      bound := boundOf l p.col p.z
      launchId := BitVec.ofNat 64 (lidOf l.seq p.slot)
      dbg := s.debugInit l.priv
      sp := s.restoreRows l rows rd
      perfSel := q.perf.getD s.ctl.perfCtl
      chunk := q.chunk
      movedRest := q.moved
      bpFired := q.bpFired
      bpPassed := q.bpPassed
      ran := true
      codeOf := some l.seq
      lastCtx := some l.tctx }
  let x := (((b.loadRegs rd).loadS).loadLoops rd).loadWork q rd
  let y := { x with wlDone := x.wlDone || l.cleared, runs := if q.perf.isSome then q.runs else x.runs }
  if q.resumed then y.passBreak else y

end Sys2Proof.Machine
end

