-- ==== Sys2Proof/Machine/Preempt.lean ====
section
/-! DEFINITION. The collector: when a stopping point's engines all stand at boundaries (R364, R368-R370), saving points and the
frontier (R365, R371, R197), restoring points (R377), and checkpoint marks (R378-R381, R383). -/

namespace Sys2Proof.Machine

/-! ### Boundaries (Table 19-3) -/

/-- What the S engine waits for at a wait that R370 does not list is still to come: the sections or the drain that a header asks for,
or what holds back the word at PC. -/
def Tile.blockedS (x : Tile) : Bool :=
  if !x.sIn then
    match x.headerAtPC with
    | some h => (h.gfence == 1 && !x.drained) || (x.depsOf h .S).any x.live
    | none => false
  else match decode (x.standing.getD (x.slotAt x.pc.toNat)) with
    | .ok (.sld _ f) => x.classHold x.nowSeq .S f.cls.toNat
    | .ok (.sst _ f) => x.classHold x.nowSeq .S f.cls.toNat
    | .ok (.lset _ f) => x.layHold f.lay.toNat
    | .ok (.rinit _ f) => ringAnyPend (x.readRing f.bn.toNat)
    | .ok (.cwr _ _) => x.secs.any fun c => c.eng == .A
    | _ => false

/-- An engine of a stopping point waits where R370 does not save it, and what it waits for has not come. Where every engine stands
so or at a boundary, nothing more can come, and it is saved at its word (log 30). -/
def Tile.blockedAt (x : Tile) (e : Engine) : Bool :=
  x.waitWhy e == 8 &&
    match e with
    | .S => x.blockedS
    | .X => x.chan.length ≥ Config.chanCap
    | .L | .A | .W | .M => match x.running e with
      | none => false
      | some c => match (c.words[c.idx]?).bind (FwdWord.vmClass? e) with
        | some k => x.classHold c.seq e k
        | none => false

/-- Every engine of a stopping tile stands at a boundary, and everything it has issued has performed (R368). -/
def Tile.atRest (x : Tile) : Bool :=
  !x.quenched && (x.stopHolds .S || x.blockedAt .S) && x.inflight.isEmpty && x.late.isEmpty && x.rowsOut.isEmpty &&
    x.chan.all (fun c => c.opsOut == 0) && !(x.waiters.any fun w => w.served) &&
    [Engine.L, .A, .W, .M, .X].all fun e => (!x.mayRun e || x.blockedAt e) && (x.startable e).isNone

/-- Tiles of a slot whose point does not stop. -/
def State.runningOf (s : State) (slot : Nat) : List Nat := (s.tilesOf slot).filter fun t => (s.tile t).stop.isNone

/-- The point of a tile has not executed its first word, and is no point of a list launch: it is listed as fired and not started, and fired
again (R197, R431). -/
def Tile.unstarted (x : Tile) : Bool :=
  !x.isList && !(x.runsPoint && (x.ran || x.mStep.isSome)) && match x.stop with | some st => !st.trapped | none => true

/-- Every point of a list of tiles asked to stop. -/
def State.askAll (s : State) (why : StopWhy) (ts : List Nat) : State :=
  ts.foldl (fun s1 t => s1.setTile t ((s1.tile t).askStop why)) s

/-! ### Records and frontiers -/

/-- The lowest record index that no parked or trapped point of a launch holds, nor one of a list (R371). -/
def Launch.freeIdx (l : Launch) (used : List Nat) : Nat :=
  let held := l.pts.filterMap fun p => match p.place with | .parked i => some i | .trapped i => some i | _ => none
  ((List.range (l.pts.length + used.length + 1)).find? fun i => !held.contains i && !used.contains i).getD 0

/-- Where a point's context is, as a frontier lists it (Table 10-8): 0 for one that has none. -/
def Launch.placeVA (l : Launch) : PtPlace → Nat
  | .parked i => l.recVA i
  | .trapped i => l.recVA i
  | _ => 0

/-- Maximal runs of equal column entries with f = 0, in ascending index, as words; at most 65,536 columns to a run. -/
def runWords : List (BitVec 64) → List (Nat × Nat) → List (Nat × Nat)
  | [], acc => acc.reverse
  | e :: es, acc =>
    let v := bits e.toNat 0 24 + bits e.toNat 32 7 * 2 ^ 32
    match acc with
    | (w, n) :: rest => if w = v && n < 65536 then runWords es ((w, n + 1) :: rest) else runWords es ((v, 1) :: acc)
    | [] => runWords es [(v, 1)]

/-- The saved frontier of a launch whose points are at the places given (Table 10-8). -/
def Launch.frontier (l : Launch) (pts : List LPoint) : List Byte :=
  let runs := runWords ((List.range l.ncol).map l.col) []
  [frontMagic + 2 ^ 32, l.hdrVA, l.ncol + runs.length * 2 ^ 17, pts.length].flatMap (toBytes 8) ++
    (runs.flatMap fun r => toBytes 8 (r.1 + (r.2 - 1) * 2 ^ 40)) ++
    pts.flatMap fun p => toBytes 8 (p.col + p.z * 2 ^ 17) ++ toBytes 8 (l.placeVA p.place)

/-- The record of a list launch (R371). -/
def Launch.listRecord (l : Launch) : List Byte :=
  [0x4C4C5848, l.cntA, l.cntC].flatMap (toBytes 8)

/-- Bytes 0 to 1 MiB - 1 of a launch's context area written. -/
def State.putFront (s : State) (l : Launch) (log : Option Nat) (pts : List LPoint) : Saved :=
  let bs := if l.isList then l.listRecord else l.frontier pts
  let n := if l.isList then ctxMiB else bs.length
  if !s.mapped l.tctx l.ctxVA n .write then .fault
  else match (if l.isList then s.zeroVA log l.tctx l.ctxVA n else some s).bind
      (fun s1 => s1.writePieces log l.tctx bs (piecesOf l.ctxVA bs.length)) with
    | none => .wait
    | some s1 => .ok s1

/-! ### Saving points -/

/-- Faults at which a tile's commands are suspended, as a saved point keeps them, and those that RESUME has failed. -/
def Tile.suspKinds (x : Tile) (slot idx : Nat) : List (Nat × Nat × Nat × Nat) :=
  x.chan.filterMap fun c => match c.susp, c.trap with
    | some q, _ => some (slot, idx, c.cslot, q.kind)
    | none, some (_, d) => if c.failed then some (slot, idx, c.cslot, bits d.toNat 60 4) else none
    | none, none => none

/-- Commands of a tile that RESUME has failed. -/
def Tile.failedCmds (x : Tile) (slot idx : Nat) : List (Nat × Nat × Nat) :=
  (x.chan.filter Command.failed).map fun c => (slot, idx, c.cslot)

/-- A point saved from tile x: its place, and what is kept beside its record. -/
def LPoint.savedFrom (p : LPoint) (x : Tile) (place : PtPlace) (wpop : Bool) (apps : List (Nat × Nat)) : LPoint :=
  { p with
    place := place, wpop := wpop, perf := some x.perfSel, chunk := x.chunk, runs := x.runs, seqNext := x.seqNext, moved := x.movedRest
    cmds := x.chan.map fun c => ⟨c.cslot, c.seq, c.vtile, c.mask⟩
    bpFired := x.bpFired, bpPassed := x.bpPassed, resumed := false, apps := apps }

/-- The items that a tile's channel has still to write, by launch slot (R318). -/
def State.openApps (s : State) (t : Nat) : List (Nat × Nat) :=
  ((List.range 64).map fun n => (n, s.appendsOpen t n)).filter fun p => p.2 != 0

/-- The place of the point on tile t, with what is kept of it. -/
def State.savedPts (s : State) (t : Nat) (place : PtPlace) (wpop : Bool) (pts : List LPoint) : List LPoint :=
  pts.map fun p => if p.place == .onTile t then p.savedFrom (s.tile t) place wpop (s.openApps t) else p

/-- A parked point stands at a waiting WPOP with no append outstanding (R318, R319). -/
def State.wpopQuiet (s : State) (t slot : Nat) : Bool := (s.tile t).waitWhy .S == 6 && s.appendsOpen t slot == 0

/-- The launch processor's account of a point saved at record idx: parked, or trapped with SLOT_STAT, SLOT_TRAP and TRAP_VEC
(R365). -/
def State.notePoint (s : State) (slot t idx : Nat) (l : Launch) : State :=
  let x := s.tile t
  let trapped := match x.stop with | some st => st.trapped | none => false
  let quiet := s.wpopQuiet t slot
  let s1 := { s with
    heldFail := x.failedCmds slot idx ++ s.heldFail
    savedKind := x.suspKinds slot idx ++ s.savedKind }
  if trapped then
    let l1 := { l with pts := s.savedPts t (.trapped idx) quiet l.pts, ntrap := l.ntrap + 1 }
    ((s1.setLaunch slot l1).setTile t x.vacate).noteTrapped slot (l.recVA idx)
  else
    let l1 := { l with pts := s.savedPts t (.parked idx) quiet l.pts }
    { (s1.setLaunch slot l1).setTile t x.vacate with parkedQ := s.parkedQ ++ [(slot, idx)] }

/-- A point saved, or one that had not executed a word put back to be fired again (R351, R431). -/
def State.savePoint (s : State) (slot t : Nat) : Saved :=
  match s.launch? slot with
  | none => .ok s
  | some l =>
    if (s.tile t).unstarted then
      .ok ((s.setLaunch slot { l with pts := s.savedPts t .refire false l.pts }).setTile t (s.tile t).vacate)
    else
      let idx := l.freeIdx []
      match s.putRecord t l (s.logOf slot) idx with
      | .ok s1 => .ok (s1.notePoint slot t idx l)
      | r => r

/-- Several points saved. -/
def State.savePoints (s : State) (slot : Nat) : List Nat → Saved
  | [] => .ok s
  | t :: ts => match s.savePoint slot t with
    | .ok s1 => State.savePoints s1 slot ts
    | r => r

/-- The frontier of a launch written, with its points where they are now. -/
def State.saveFront (s : State) (slot : Nat) : Saved :=
  match s.launch? slot with
  | none => .ok s
  | some l => s.putFront l (s.logOf slot) l.pts

/-- The points that CONTEXT_SAVE saves together: of a launch being parked all, once all are at rest; else those being pre-empted,
once all of them are, and each trapped one that is (R365, R368). A point only fired is at rest; one of a list launch starts first. -/
def State.saveSet (s : State) (slot : Nat) (l : Launch) : Option (List Nat) :=
  let ts := s.tilesOf slot
  let rest (t : Nat) : Bool :=
    let x := s.tile t
    if x.runsPoint then x.atRest else !l.isList && x.stop.isSome && !x.quenched
  if l.state = 2 then
    if ts.all (fun t => rest t && !(s.tile t).stopsFor .mark) then some ts else none
  else
    let pre := ts.filter fun t => (s.tile t).stopsFor .preempt
    let trapped := ts.filter fun t => (s.tile t).stopsFor .trap && rest t
    let set := (if pre.all rest then pre else []) ++ trapped
    if set.isEmpty then none else some set

/-- A point that stops for a checkpoint mark stops for its launch's parking instead. -/
def Tile.markToPark (x : Tile) : Tile :=
  if x.stopsFor .mark then { x with stop := x.stop.map fun st => { st with why := .park } } else x

/-- The points of a launch being parked are asked to stop, those that a mark has stopped too, where the parked-point queue has room for
them all (R308, R368, R431). -/
def State.askPark (s : State) (slot : Nat) : State :=
  let marked := (s.tilesOf slot).filter fun t => (s.tile t).stopsFor .mark
  if s.parkedQ.length + s.stopping.length + (s.runningOf slot).length + marked.length ≤ Config.parkedCap then
    marked.foldl (fun s1 t => s1.setTile t (s1.tile t).markToPark) (s.askAll .park (s.runningOf slot))
  else s

/-- CONTEXT_SAVE (R371-R376): the collector writes records and the frontier and frees the tiles; a launch being parked is then
parked. A write that takes a translation fault kills the launch (R371). -/
def execContextSave (slot : Nat) (s : State) : Res :=
  match s.launch? slot with
  | none => .next s
  | some l =>
    if l.dying.isSome || l.ending then .next (s.settleSlot slot)
    else
    let s0 := if l.state = 2 then s.askPark slot else s
    match s0.saveSet slot l with
    | none => .next s0
    | some ts => match s0.savePoints slot ts with
      | .fault => .next (s0.kill slot 3)
      | .wait => .next s0
      | .ok s1 => match s1.saveFront slot with
        | .fault => .next (s1.kill slot 3)
        | .wait => .next s0
        | .ok s2 => .next (match s2.launch? slot with
          | some m => if m.state = 2 then s2.setLaunch slot { m with state := 3 } else s2
          | none => s2)

/-! ### Restoring a point (R377) -/

/-- How a record at an address of a context is read. -/
def State.recRead (s : State) (ctx va : Nat) : RecRead := fun off n => ((s.readVA ctx (va + off) n).map ofBytes).getD 0

/-- A command that a held RESUME failed takes its trap (R231, R232). -/
def State.applyFail (s : State) (t slot idx : Nat) (c : Command) : Command :=
  if s.heldFail.contains (slot, idx, c.cslot) then
    let kind := match s.savedKind.find? fun p => p.1 == slot && p.2.1 == idx && p.2.2.1 == c.cslot with
      | some (_, _, _, k) => k
      | none => (Config.freeWord (s.fresh + t)).toNat % 16
    { c with trap := some (0x10, BitVec.ofNat 64 (kind * 2 ^ 60 + c.e % 2 ^ 48 * 2 ^ 12 + 4)), done := true, held := none }
  else c

/-- A parked point restored onto a free tile (R377). Its placement is in no replay log: it depends on the tiles that are free (R398). -/
def State.restoreOn (s : State) (k slot idx t : Nat) (l : Launch) (q : LPoint) (live : Nat) : State :=
  let p : Point := { slot := slot, hdr := l.hdr, col := q.col, z := q.z, home := q.home, started := true }
  let x := s.restorePoint p l q (l.savedRows live) (s.recRead l.tctx (l.recVA idx))
  let y := { x with chan := x.chan.map (s.applyFail t slot idx) }
  let here (r : Nat × Nat × Nat) : Bool := r.1 == slot && r.2.1 == idx
  let l1 := { l with
    pts := (l.pts.filter fun r => r != q) ++
      [{ q with place := .onTile t, ord := s.placed, wpop := false, apps := [], resumed := false, bpPassed := false }] }
  { (s.setLaunch slot l1).setTile t y with
    placed := s.placed + 1, lastServed := slot, parkedQ := s.parkedQ.eraseIdx k, fresh := s.fresh + 1
    heldFail := s.heldFail.filter fun r => !here r }

/-- A parked point's launch may have it placed now. -/
def State.mayRestore (s : State) (slot : Nat) : Bool :=
  match s.launch? slot with
  | some l => !(s.markPhase == 2 && l.checkpointed) && l.live && l.refirePoint.isNone
  | none => false

/-- The launch whose turn it is has the priority of the one in a slot, and would take a parked point (R353). -/
def State.turnOfPrio (s : State) (l : Launch) : Bool :=
  match s.nextSlot.bind s.launch? with
  | some m => m.prio == l.prio && m.hasParked
  | none => false

/-- CONTEXT_RESTORE (R308, R351, R353, R377): a free tile goes to a parked point where a launch with one has its turn, and the
parked-point queue gives the oldest of that priority; where none is free, points of lower priority are asked to stop. A record that
cannot be read stays parked (log 31). -/
def execContextRestore (k tile : Nat) (s : State) : Res :=
  match s.parkedQ[k]? with
  | none => .next s
  | some (slot, idx) => match s.launch? slot with
    | none => .next s
    | some l =>
      if s.wiping || !s.mayRestore slot ||
          (s.parkedQ.take k).any (fun p => s.mayRestore p.1 && match s.launch? p.1 with | some m => m.prio == l.prio | none => false) then
        .next s
      else if (s.freeTiles slot).isEmpty then .next (s.makeRoom slot l l.needTiles)
      else if !s.turnOfPrio l || !s.isFree slot tile then .next s
      else match l.pts.find? (fun q => q.place == .parked idx), s.liveMap l with
        | some q, some live =>
          if s.mapped l.tctx (l.recVA idx) recBody .read &&
              (l.savedRows live).all (fun r => s.mapped l.tctx (l.recVA idx + recRow r) 256 .read) then
            .next (s.restoreOn k slot idx tile l q live)
          else .next s
        | _, _ => .next s

/-! ### Checkpoint marks (R378-R381, R383) -/

/-- Tiles of every checkpointed launch. -/
def State.ckptTiles (s : State) : List Nat := s.ckptSlots.flatMap s.tilesOf

/-- Started points of checkpointed launches are asked to stop; new ones too, at every turn. -/
def State.askMark (s : State) : State := s.askAll .mark (s.ckptTiles.filter fun t => (s.tile t).runsPoint)

/-- A mark may save: every started point of a checkpointed launch is at rest, none stops for another reason, and every point of a list
launch has started. -/
def State.markReady (s : State) : Bool :=
  s.ckptSlots.all (fun n => match s.launch? n with | some l => l.state != 2 | none => true) &&
    s.ckptTiles.all fun t =>
      let x := s.tile t
      !x.quenched && if x.runsPoint then x.stopsFor .mark && x.atRest else !x.isList

/-- One running point of a launch saved by a mark: it stays on its tile, unless it has trapped. -/
def State.markPoint (s : State) (slot t : Nat) (pts : List LPoint) : Saved × List LPoint :=
  match s.launch? slot with
  | none => (.ok s, pts)
  | some l =>
    let x := s.tile t
    let used := pts.filterMap fun p => match p.place with | .parked i => some i | .trapped i => some i | _ => none
    let idx := l.freeIdx used
    let put (place : PtPlace) (quiet : Bool) : List LPoint := s.savedPts t place quiet pts
    if !x.runsPoint then (.ok s, put .refire false)
    else match s.putRecord t l (s.logOf slot) idx with
      | .ok s1 =>
        let trapped := match x.stop with | some st => st.trapped | none => false
        if trapped then (.ok (s1.notePoint slot t idx l), put (.trapped idx) false)
        else
          (.ok { s1 with savedKind := x.suspKinds slot idx ++ s1.savedKind }, put (.parked idx) (s.wpopQuiet t slot))
      | r => (r, pts)

/-- The points of a launch saved by a mark, then its frontier; the points as a rollback finds them are remembered (R382). -/
def State.markTiles (s : State) (slot : Nat) (pts : List LPoint) : List Nat → Saved
  | [] => match s.launch? slot with
    | none => .ok s
    | some l => match s.putFront l (s.logOf slot) pts with
      | .ok s1 => .ok (s1.setLaunch slot { l with markNext := some pts })
      | r => r
  | t :: ts => match s.markPoint slot t pts with
    | (.ok s1, pts1) => State.markTiles s1 slot pts1 ts
    | (r, _) => r

/-- Every checkpointed launch saved (step 2 of R380). A launch that cannot be saved is killed. -/
def State.markSave (s : State) : List Nat → Option State
  | [] => some s
  | slot :: rest =>
    let pts := match s.launch? slot with | some l => l.pts | none => []
    match s.markTiles slot pts (s.tilesOf slot) with
    | .ok s1 => State.markSave s1 rest
    | .fault => State.markSave (s.kill slot 3) rest
    | .wait => none

/-- A die starts a fresh log (R380). -/
def Die.freshLog (x : Die) : Die :=
  { x with undoUsed := 0, undoLines := [], undoEarly := false, undoIval := x.undoIval + 1 }

/-- A stopped point continues on its tile (R380); a LAUNCH that asked for the mark has had it (R381). -/
def Tile.goOn (x : Tile) : Tile :=
  let y := if x.stopsFor .mark then { x with stop := none } else x
  { y with markWait := if y.markWait = 1 then 2 else y.markWait }

/-- A launch's saved points become those of the last mark; one that has completed and waited for it ends (R381). -/
def State.markLaunch (s : State) (slot : Nat) : State :=
  match s.launch? slot with
  | none => s
  | some l =>
    let s1 := s.setLaunch slot { l with markPts := l.markNext, markNext := none }
    if l.held then s1.finishLaunch slot else s1

/-- Act 1 of SLOT_CTL (R366): the trapped point at a record enters the parked-point queue with its record's trapped flag cleared; a
record whose flag is 0 is left. Where the undo log has no room for the flag, the act waits for the next mark (R379). -/
def State.resumePoint (s : State) (slot idx : Nat) : State :=
  match s.launch? slot with
  | none => s
  | some l =>
    let va := l.recVA idx + 8
    match s.readVA l.tctx va 1 with
    | some [b] =>
      if !(l.pts.any fun p => p.place == .trapped idx) || !b.getLsbD 0 then s
      else match s.writeVA (s.logOf slot) l.tctx va [b &&& 0xFE#8] with
        | none => { s with resumeWait := s.resumeWait ++ [(slot, idx)] }
        | some s1 =>
          let l1 := { l with
            pts := l.pts.map fun p => if p.place == .trapped idx then { p with place := .parked idx, resumed := true } else p
            ntrap := l.ntrap - 1 }
          { s1.setLaunch slot l1 with parkedQ := s1.parkedQ ++ [(slot, idx)] }
    | _ => s

/-- The acts that waited for a mark are done. -/
def State.resumeWaiting (s : State) : State :=
  s.resumeWait.foldl (fun s1 p => s1.resumePoint p.1 p.2) { s with resumeWait := [] }

/-- The mode of replay that a mark's entry follows: that of a checkpointed launch. -/
def State.markMode (s : State) : BitVec 2 :=
  (s.ckptSlots.findSome? fun n => match s.launch? n with | some l => if l.replay == 0 then none else some l.replay | none => none).getD 0

/-- A mark may begin: in replay where the log has one next (R397). -/
def State.markDue (s : State) : Bool := s.markMode != 2 || s.nextKind 5

/-- A mark's entry in the replay log: recorded, or taken whatever number its interval had (R397, R398). -/
def State.logMark (s : State) : Option State :=
  if s.markMode == 2 then (if s.nextKind 5 && !s.ctl.replayDiv then some { s with rlNext := s.rlNext + 1 } else none)
  else s.logEvent s.markMode [5 * 2 ^ 56 + ((s.die 0).undoIval + 1).toNat, 0, 0, 0]

/-- What has waited, for the undo log, for a page or for a link, is done where it can be, and the graph goes on. -/
def State.settle (s : State) : State := s.settleDone.resumeWaiting.runGraph graphSteps

/-- Something waits so. -/
def State.mustSettle (s : State) : Bool :=
  !s.doneWait.isEmpty || !s.resumeWait.isEmpty || s.launches.any fun p => p.2.dying.isSome || p.2.ending

/-- Steps 3 and 4 of R380: fresh logs, and the points go on; in replay the mark waits for its entry (R397). -/
def State.markEnd (s : State) : Option State :=
  s.logMark.map fun s1 =>
    let s2 := (s1.mapDies Die.freshLog).mapTiles Tile.goOn
    (s2.ckptSlots.foldl State.markLaunch { s2 with markPhase := 0, markAsked := false }).settle

/-- The gangs with a checkpointed launch that has started here, by rank. -/
def State.ckptGangs (s : State) : List Gang :=
  (s.gangs.map fun p => p.2).filter fun g => g.phase == 2 && match g.slot with | some n => s.ckptSlots.contains n | none => false

/-- A gang message to every other member. -/
def Gang.toAll (g : Gang) (m : GangMsg) : List (GangMsg × Nat × Nat) :=
  ((List.range g.nmem).filter fun r => r != g.rank).map fun r => (m, g.gang, g.modOf r)

/-- A gang as a mark finds it at its beginning, and leaves it: no answer has come, and none has been sent. -/
def Gang.unmarked (g : Gang) (marking : Bool) : Gang := { g with marked := [], told := false, resumed := false, marking := marking }

/-- A mark begins: its points are asked to stop, and a gang's rank 0 tells the members (R383). -/
def State.markStart (s : State) : State :=
  let gs := s.ckptGangs
  { s.askMark with
    markPhase := 1
    outbox := s.outbox ++ (gs.filter fun g => g.rank == 0).flatMap fun g => g.toAll .mark
    gangs := s.gangs.map fun p => if gs.any (fun g => g.gang == p.2.gang) then (p.1, p.2.unmarked true) else p }

/-- A member that has saved its points, and has still to answer its rank 0's MARK. -/
def Gang.mustAnswer (g : Gang) : Bool := g.marking && g.rank != 0 && g.asked && !g.told

/-- Once the points are saved MARKED goes to every rank 0 whose MARK has come (R383). -/
def State.tellMarked (s : State) : State :=
  { s with
    outbox := s.outbox ++ (s.gangs.filter fun p => p.2.mustAnswer).map fun p => (.marked, p.2.gang, p.2.modOf 0)
    gangs := s.gangs.map fun p => if p.2.mustAnswer then (p.1, { p.2 with told := true }) else p }

/-- A gang lets the present mark end: of one that this module leads every member has answered, of another RESUME has come (R383). -/
def Gang.mayResume (g : Gang) : Bool :=
  !g.marking || if g.rank = 0 then (List.range g.nmem).all fun r => r == 0 || g.marked.contains r else g.resumed

/-- A mark that has ended: RESUME goes to the members of every gang that this module leads. -/
def State.sendResume (s : State) (gs : List Gang) : State :=
  { s with
    outbox := s.outbox ++ (gs.filter fun g => g.marking && g.rank == 0).flatMap fun g => g.toAll .resume
    gangs := s.gangs.map fun p => if p.2.marking then (p.1, { p.2.unmarked false with asked := false }) else p }

/-- What follows once the points are saved: a member answers, and the mark ends, for the whole module, once every gang of it lets it;
till then it waits (R383, log 33). -/
def State.markSaved (s : State) : Option State :=
  let s1 := s.tellMarked
  if s1.gangs.all fun p => p.2.mayResume then s1.markEnd.map fun s2 => s2.sendResume (s1.gangs.map fun p => p.2)
  else some { s1 with markPhase := 2 }

/-- A mark's next move: asking, saving, or waiting. -/
def State.markStep (s : State) : State :=
  if s.markPhase = 1 then
    let s1 := s.askMark
    if s1.markReady then
      match (s1.markSave s1.ckptSlots).bind State.markSaved with
      | some s2 => s2
      | none => s1
    else s1
  else if s.markPhase = 2 then s.markSaved.getD s
  else s

/-- CHECKPOINT_MARK (R378, R380): an interval ends while a checkpointed launch runs. A member of another's gang waits for MARK
(R383). -/
def execCheckpointMark (s : State) : Res :=
  if s.wiping then .next s
  else if s.ckptSlots.isEmpty && !s.launches.any (fun p => p.2.dying.isSome) then .next { s with markPhase := 0, markAsked := false }
  else if s.markPhase = 0 then
    if !s.markDue || (s.ckptGangs.any (fun g => g.rank != 0) && !s.ckptGangs.any Gang.asked) then .next s else .next s.markStart.markStep
  else .next s.markStep

end Sys2Proof.Machine
end

