-- ==== Sys2Proof/Machine/LifeCycle.lean ====
section
/-! DEFINITION. Resets, wipes and power (R17, R238, R407-R410), links (R406), the clock and temperature (R412, R413), the
attestation report (R411), and the schedule cycle (R335, R336, R321). -/

namespace Sys2Proof.Machine

/-! ### Reset and wipe -/

/-- The firmware that a life-cycle state accepts (Table 21-5): 0 vendor manufacturing image, 1 Yelsutor, 2 vendor diagnostic image. -/
def firmwareFor (lc : BitVec 2) : Nat := if lc == 0 then 0 else if lc == 3 then 2 else 1

/-- The check of R410 at a reset: an image that passes runs, and may raise the fused version; one that fails leaves the module in
recovery (log 12). -/
def State.firmwareCheck (s : State) : State :=
  let v := Config.firmwareVersion s.fresh
  let r := Config.firmwareRaise s.fresh
  if Config.firmwareOk s.fresh && Config.firmwareKind s.fresh == firmwareFor s.ctl.lcState && s.ctl.fwFused.toNat ≤ v.toNat then
    { s with
      ctl := { s.ctl with
        recovery := false, fwVersion := v, fwImage := s.fresh, fwFused := if s.ctl.fwFused.toNat < r.toNat then r else s.ctl.fwFused }
      fresh := s.fresh + 1 }
  else { s with ctl := { s.ctl with recovery := true }, fresh := s.fresh + 1 }

/-- A reset (R407): everything starts as after reset, its wipe running, but for the fuses, the flash, what lies outside the
module, and what the cooling and the links are doing (log 32). -/
def State.moduleReset (s : State) : State :=
  ({ State.reset with
    wiping := true
    hostMem := s.hostMem, farMem := s.farMem
    flashTrip := s.flashTrip
    hotDies := s.hotDies
    ctl := { lcState := s.ctl.lcState, fwFused := s.ctl.fwFused, idKey := s.ctl.idKey, links := s.ctl.links, hot := s.ctl.hot,
             clkMHz := if s.ctl.hot then 500 else 1250 }
    msix := s.msix, cpl := s.cpl, outbox := s.outbox, markersOut := s.markersOut, streamed := s.streamed
    agenda := s.agenda, focus := s.focus, fresh := s.fresh } : State).firmwareCheck

/-- What a wipe leaves of a transfer die: its control registers, UNDO_CNT among them, which only undo-log writes, marks and a reset
change (R17, R322, R338). -/
def Die.wiped (x : Die) : Die :=
  { Die.idle with
    thresh := x.thresh, undoBase := x.undoBase, undoIval := x.undoIval, undoEarly := x.undoEarly, undoUsed := x.undoUsed }

/-- A wipe (R17, R238) of a life-cycle change: all SRAM and all HBM; no launch is left, and none starts until it ends. Control
registers stay (log 32). -/
def State.wipe (s : State) : State :=
  { s.mapDies Die.wiped with
    wiping := true, tiles := [], mem := [], images := [], launches := [], subQ := [], readyQ := [], parkedQ := [], graphQ := []
    resumeWait := [], doneWait := [], heldFail := [], savedKind := [], gangs := [], prepHeld := [], quenchAt := [],
    cuts := [], cutsDue := [], blazeThaw := [], markPhase := 0, markAsked := false
    ctl := { s.ctl with shootBusy := false } }

/-- POWER_ON (R407): the power-on reset; nothing where the module has power. -/
def execPowerOn (s : State) : Res :=
  .next (if s.on then s else { s with on := true }.moduleReset)

/-- Power is lost: the fuses and the flash keep state, and the world outside goes on (R17). -/
def State.unpowered (s : State) : State :=
  { State.reset with
    on := false
    hostMem := s.hostMem, farMem := s.farMem
    flashTrip := s.flashTrip
    ctl := { lcState := s.ctl.lcState, fwFused := s.ctl.fwFused, idKey := s.ctl.idKey }
    msix := s.msix, cpl := s.cpl, outbox := s.outbox, markersOut := s.markersOut, streamed := s.streamed
    agenda := s.agenda, focus := s.focus, fresh := s.fresh }

/-- POWER_OFF (R17). -/
def execPowerOff (s : State) : Res := .next s.unpowered

/-- PERST (R407): on the owner's port it resets the module. -/
def execPerst (port : Nat) (s : State) : Res :=
  .next (if port ≤ 1 && s.ctl.owner.toNat == port then s.moduleReset else s)

/-- FUNCTION_LEVEL_RESET (R407): on the owner's port it resets the module; on another port it resets that function's
configuration space and MSI-X state, which are no part of this state. -/
def execFunctionLevelReset (port : Nat) (s : State) : Res :=
  .next (if port ≤ 1 && s.ctl.owner.toNat == port then s.moduleReset else s)

/-- WIPE_END (R238): every line has been written with zero, so that whatever reached memory while the wipe ran is gone; nothing where no
wipe runs. -/
def execWipeEnd (s : State) : Res := .next (if s.wiping then { s.mapDies (fun x => { x with wq := [] }) with wiping := false, mem := [], images := [] } else s)

/-! ### Links (R406) -/

/-- LINK_DOWN: bit 16 of LINK_PEER clears. -/
def execLinkDown (link : Nat) (s : State) : Res :=
  if link > 17 then .next s
  else .next { s with ctl := { s.ctl with links := Assoc.set 0 link (Assoc.get 0 link s.ctl.links &&& 0xFFFF#17) s.ctl.links } }

/-- LINK_UP: LINK_PEER names the far module, with bit 16 set. -/
def execLinkUp (link peer : Nat) (s : State) : Res :=
  if link > 17 then .next s
  else .next { s with ctl := { s.ctl with links := Assoc.set 0 link (BitVec.ofNat 17 (2 ^ 16 + peer % 2 ^ 16)) s.ctl.links } }

/-! ### Clock and temperature (R412, R413) -/

/-- The highest clock whose predicted power meets the limit: 1,250 - 25k MHz, not below 500. -/
def State.clockTarget (s : State) : Nat :=
  (((List.range 31).map fun k => 1250 - 25 * k).find? fun f => Config.predictedPower f s.fresh ≤ s.ctl.pwrCap.toNat).getD 500

/-- CLOCK_STEP (R412): at most one step of 25 MHz; a temperature hold keeps the clock at 500. -/
def execClockStep (s : State) : Res :=
  if s.ctl.hot then .next s
  else
    let f := s.ctl.clkMHz.toNat
    let g := s.clockTarget
    let f' := if f < g then f + 25 else if g < f then f - 25 else f
    .next { s with ctl := { s.ctl with clkMHz := BitVec.ofNat 16 f' }, fresh := s.fresh + 1 }

/-- THERMAL_THROTTLE (R413): dies are numbered as in Table 20-2. -/
def execThermalThrottle (die : Nat) (s : State) : Res :=
  if die > 24 then .next s
  else .next { s with
    hotDies := if s.hotDies.contains die then s.hotDies else s.hotDies ++ [die]
    ctl := { s.ctl with hot := true, clkMHz := 500 } }

/-- THERMAL_TRIP (R413, R409): the record in the flash, then power is removed. -/
def execThermalTrip (die : Nat) (s : State) : Res :=
  if die > 24 then .next s else .next { s with flashTrip := some (s.scyc, die) }.unpowered

/-- THERMAL_RELEASE (R413). -/
def execThermalRelease (s : State) : Res := .next { s with hotDies := [], ctl := { s.ctl with hot := false } }

/-! ### Attestation (R411, Table 21-6) -/

/-- LC_STATE (Table 21-7). -/
def State.lcWord (s : State) : Nat := s.ctl.lcState.toNat + ofBool s.flashTrip.isSome * 2 ^ 8

/-- Byte k of the identity public key, where the module has one (R408). -/
def State.keyByte (s : State) (k : Nat) : Byte :=
  match s.ctl.idKey with
  | some n => Config.attestByte 1 n k
  | none => Config.attestByte 3 s.fresh k

/-- Bytes 32 to 511 of the report; what the firmware and the keys give is free (log 12). -/
def State.reportBytes (s : State) : List Byte :=
  toBytes 4 0x54415848 ++ [BitVec.ofNat 8 s.lcWord, 0] ++ toBytes 2 (match s.ctl.modnum with | some n => n.toNat | none => 0) ++
    toBytes 8 s.ctl.fwVersion.toNat ++ (List.range 64).map (Config.attestByte 0 s.ctl.fwImage) ++
    (List.range 57).map s.keyByte ++ zeros 87 ++ (List.range 114).map (Config.attestByte 2 s.fresh) ++ zeros 142

/-- ATTESTATION_REPORT (R411): bytes 0 to 31 of the buffer stay. -/
def execAttestationReport (s : State) : Res :=
  match s.ctl.attestPA with
  | none => .next s
  | some pa =>
    let s1 := s.pokePA (pa.toNat + 32) s.reportBytes
    .next { s1 with ctl := { s1.ctl with attestPA := none, attestDone := true }, fresh := s1.fresh + 1 }

/-! ### The schedule cycle -/

/-- Per-cycle performance events of a tile (Table 17-4). -/
def Tile.tickCounts (x : Tile) (bank : Bool) : Tile :=
  if x.point.isNone || x.quenched then x
  else
    let es : List Engine := [.S, .L, .A, .W, .M, .X]
    let any (why : Nat) : Bool := es.any fun e => x.waitWhy e == why
    let on (b : Bool) (code : Nat) (y : Tile) : Tile := if b then y.count code 1 else y
    on bank 0x08 <| on (any 3) 0x0D (on (x.waitWhy .M == 2) 0x0C (on (any 1 || x.waiters.any fun w => w.eng != .X && !w.served) 0x0B
    (on (x.waitWhy .S == 4) 0x0A (on (x.waitWhy .S == 5) 0x09
      (x.count 0x01 1)))))

/-- A tile at the end of a cycle: its counters, which CYC reads from now on (R337), and no flag set in the next cycle yet (R45). -/
def Tile.endCycle (x : Tile) (bank : Bool) : Tile :=
  let y := x.tickCounts bank
  if y.quenched then y else { y with pcsPrev := y.pcs, fpNow := 0 }

/-- Every tile at the end of a cycle: the semaphore units serve what has changed (R327), and cycles are counted. Which cycles have a
bank conflict is open (log 63). -/
def State.endTiles (s : State) : State :=
  let s1 := s.tiles.foldl (fun s0 p => if p.2.quenched then s0 else s0.serveTile p.1) s
  let s2 := s1.tiles.foldl (fun s0 p => s0.setTile p.1 (p.2.endCycle (Config.freeBool (s.fresh + p.1)))) s1
  { s2 with fresh := s.fresh + Config.numTiles }

/-- Cycles for which a list launch has made no progress (R321). -/
def State.tickIdle (s : State) : State :=
  { s with launches := s.launches.map fun p => (p.1, { p.2 with idle := if s.deadlocked p.2 then p.2.idle + 1 else 0 }) }

/-- Something is due in this cycle: a quench or a cut at its end (R390, R394), a restart at its beginning (R392), or an in-flight result. -/
def State.dueNow (s : State) : Bool :=
  s.quenchAt.any (fun p => p.2.toNat ≤ s.scyc.toNat) || !s.cutsDue.isEmpty ||
    (match s.ctl.temperAt with | some t => decide (t.toNat ≤ s.scyc.toNat) | none => false) ||
    s.tiles.any fun p => !p.2.quenched && p.2.inflight.any fun r => r.rem != 0 && r.rem ≤ s.scyc.toNat + 1

/-- A quenched tile goes on at the beginning of cycle T: each result in flight is written at the end of cycle T + rem - 1. What changed
during the freeze is seen as if it arrived in T: saturating additions count now, and the semaphore unit serves at T's end (R327, R330,
R392). -/
def State.thaw (s : State) (T t : Nat) : State :=
  let x := s.tile t
  if !x.quenched then s
  else
    let later (i : InFlight) : InFlight := { i with rem := T + i.rem }
    let y : Tile := { x with quenched := false, ovFrozen := 0, inflight := x.inflight.map later }
    s.setTile t (y.count 0x12 x.ovFrozen)

/-- SCHEDULE_CYCLE_TICK (R335): once everything due in the cycle is done, SCYC and the per-cycle events count, tiles that a blaze
cut go on (R394), what the launch processor has had to hold back is tried again, and the graph executor goes on. -/
def execScheduleCycleTick (s : State) : Res :=
  if s.dueNow then .next s
  else
    let s1 := s.endTiles.tickIdle
    let s2 := { s1 with scyc := s1.scyc + 1, blazeThaw := [] }
    let s3 := s1.blazeThaw.foldl (fun s0 t => s0.thaw s2.scyc.toNat t) s2
    .next (if s3.mustSettle then s3.settle else s3.runGraph graphSteps)

end Sys2Proof.Machine
end

