-- ==== Sys2Proof/Machine/Gang.lean ====
section
/-! DEFINITION. Gang launches (R356-R358) and their marks (R383): what this module does as rank 0 or as another member. Messages
to other modules go to `outbox`; those that arrive are events. -/

namespace Sys2Proof.Machine

/-- The gang of a number. -/
def State.gang? (s : State) (n : Nat) : Option Gang := Tab.get? n s.gangs

/-- A gang replaced. -/
def State.setGang (s : State) (g : Gang) : State := { s with gangs := Tab.put g.gang g s.gangs }

/-- A gang message sent to rank 0. -/
def State.sendHead (s : State) (g : Gang) (m : GangMsg) : State := { s with outbox := s.outbox ++ [(m, g.gang, g.modOf 0)] }

/-- A gang message sent to every other member. -/
def State.sendAll (s : State) (g : Gang) (m : GangMsg) : State := { s with outbox := s.outbox ++ g.toAll m }

/-! ### Submission, checks and reservation (R356, R357) -/

/-- What a member's checks and reservation have come to. -/
inductive GangPrep where
  | refused (s : State)
  /-- its slot or its tiles are not free yet -/
  | waits (s : State)
  | reserved (s : State)

/-- The checks of R345, steps 1 and 2, of a gang member's header, made once; a launch submitted by a driver carries every privilege
(R342). -/
def State.gangCheck (s : State) (g : Gang) : Except State (State × Gang × Launch) :=
  match g.cand with
  | some l => .ok (s, g, l)
  | none => match s.acceptLaunch g.hdrVA 0 0 g.ctx 7 with
    | .failed => .error (s.recRejected (g.hdrVA % 2 ^ 57) 0 0)
    | .rejected s1 =>
      let h : BitVec 1024 := BitVec.ofNat 1024 (ofBytes ((s.readVA g.ctx g.hdrVA 128).getD []))
      let g1 := { g with lid := lidOf s1.launchSeq 0, done := some (hdrField h 13 0 16, hdrField h 10 0 64) }
      .error (s1.setGang g1)
    | .accepted s1 l =>
      let l1 := { l with gang := some g.gang }
      let g1 := { g with cand := some l1, lid := lidOf l.seq 0, done := some (l.tctx, l.done) }
      .ok (s1.setGang g1, g1, l1)

/-- A slot and mint tiles are reserved for a member's launch, using R354 where tiles are short. -/
def State.gangReserve (s : State) (g : Gang) : GangPrep :=
  match s.gangCheck g with
  | .error s1 => .refused s1
  | .ok (s1, g1, l) => match s1.freeSlotNum with
    | none => .waits s1
    | some slot =>
      let ts := s1.freeTiles slot
      if ts.length < l.mint then .waits (s1.makeRoom slot l l.mint)
      else
        let l1 := { l with reserved := true, resTiles := ts.take l.mint }
        let g2 := { g1 with cand := none, slot := some slot, phase := 1, lid := lidOf l.seq slot }
        .reserved ((s1.setLaunch slot l1).setGang g2)

/-- The launch of a gang starts (R357): it is live in the slot it reserved. -/
def State.gangStart (s : State) (g : Gang) : State :=
  let s1 := s.setGang { g with phase := 2 }
  match g.slot with
  | none => s1
  | some slot => match s1.launch? slot with
    | none => s1
    | some l => (s1.freeSlot slot).startInSlot slot { l with reserved := false }

/-- LAUNCH_ID of a gang member's launch and where its completion word goes: as its checks left them, else as its header says now
and with the number that its launch would have had (log 33). -/
def State.gangWord (s : State) (g : Gang) : Nat × Option (Nat × Nat) :=
  match g.done with
  | some p => (g.lid, some p)
  | none => (lidOf (s.launchSeq + 1) 0, (s.readVA g.ctx g.hdrVA 128).map fun b =>
      let h : BitVec 1024 := BitVec.ofNat 1024 (ofBytes b)
      (hdrField h 13 0 16, hdrField h 10 0 64))

/-- A gang that starts on no member: the reservation is released and every member's completion word gets status 3; rank 0 writes
that word to gdone too (R357). A member whose header cannot be read takes no number (R344, R345). -/
def State.gangAbort (s : State) (g : Gang) : State :=
  let s0 := match g.slot with | some slot => s.freeSlot slot | none => s
  let w := s0.gangWord g
  let s1 := if g.done.isNone && w.2.isSome then { s0 with launchSeq := s0.launchSeq + 1 } else s0
  let s2 := match w.2 with | some (tctx, done) => s1.sendCompletion none tctx done w.1 3 | none => s1
  let s3 := if g.rank = 0 then s2.sendCompletion none g.ctx g.gdone w.1 3 else s2
  { s3 with gangs := Assoc.erase g.gang s3.gangs, prepHeld := s3.prepHeld.filter fun n => n != g.gang }

/-- Rank 0 aborts a gang. -/
def State.gangAbortAll (s : State) (g : Gang) : State := (s.sendAll g .abort).gangAbort g

/-- Rank 0 starts a gang once its own reservation is made and every other member is READY. -/
def State.gangTryCommit (s : State) (g : Gang) : State :=
  if g.phase = 1 && (List.range g.nmem).all (fun r => r == 0 || g.readies.contains r) then (s.sendAll g .commit).gangStart g else s

/-- A member's next step towards readiness. Rank 0 sends PREPARE once it has reserved; another member acts once it holds PREPARE,
and answers READY or REFUSE. -/
def State.gangPrepare (s : State) (g : Gang) : State :=
  if g.phase ≠ 0 || (g.rank != 0 && !s.prepHeld.contains g.gang) then s
  else match s.gangReserve g with
    | .waits s1 => s1
    | .refused s1 =>
      let g1 := (s1.gang? g.gang).getD g
      if g.rank = 0 then s1.gangAbortAll g1
      else { s1.sendHead g .refuse with prepHeld := s1.prepHeld.filter fun n => n != g.gang }
    | .reserved s1 =>
      if g.rank = 0 then s1.sendAll g .prepare
      else { s1.sendHead g .ready with prepHeld := s1.prepHeld.filter fun n => n != g.gang }

/-- A gang descriptor (Table 18-3) with its members' module numbers; none where either cannot be read or its member counts are out
of range (log 33). -/
def State.gangAt (s : State) (ctx va : Nat) : Option Gang :=
  (s.readVA ctx va 64).bind fun b =>
    let w (i : Nat) : Nat := bits (ofBytes b) (64 * i) 64
    let g : Gang := { gang := bits (w 0) 0 16, nmem := bits (w 0) 16 16, rank := bits (w 0) 32 16, hdrVA := w 1, gdone := w 3, ctx := ctx }
    if g.nmem < 2 || g.nmem > 4096 || g.rank ≥ g.nmem then none
    else (s.readVA ctx (w 2) (2 * g.nmem)).map fun ms => { g with mods := unpackElems 16 g.nmem (ofBytes ms) }

/-- A gang submitted through GANG_SUBMIT (R356, R357). -/
def State.gangSubmit (s : State) (ctx va : Nat) : State :=
  match s.gangAt ctx va with
  | none => s
  | some g => if (s.gang? g.gang).isSome then s else (s.setGang g).gangPrepare g

/-! ### Events -/

/-- PREPARE (R357): held until this member's descriptor has arrived. On rank 0's own module it is the turn of its reservation. -/
def execPrepare (gang : Nat) (s : State) : Res :=
  match s.gang? gang with
  | none => .next (if s.prepHeld.contains gang then s else { s with prepHeld := s.prepHeld ++ [gang] })
  | some g =>
    if g.phase ≠ 0 then .next s
    else
      let s1 := if g.rank = 0 || s.prepHeld.contains gang then s else { s with prepHeld := s.prepHeld ++ [gang] }
      .next (s1.gangPrepare g)

/-- READY (R357). -/
def execReady (gang member : Nat) (s : State) : Res :=
  match s.gang? gang with
  | none => .next s
  | some g =>
    if g.rank ≠ 0 || g.phase ≠ 1 || member = 0 || member ≥ g.nmem then .next s
    else
      let g1 := { g with readies := if g.readies.contains member then g.readies else g.readies ++ [member] }
      .next ((s.setGang g1).gangTryCommit g1)

/-- REFUSE (R357): rank 0 aborts. -/
def execRefuse (gang member : Nat) (s : State) : Res :=
  match s.gang? gang with
  | none => .next s
  | some g => .next (if g.rank ≠ 0 || g.phase > 1 || member = 0 || member ≥ g.nmem then s else s.gangAbortAll g)

/-- COMMIT (R357): a member that has reserved starts its launch. -/
def execCommit (gang : Nat) (s : State) : Res :=
  match s.gang? gang with
  | none => .next s
  | some g => .next (if g.rank = 0 || g.phase ≠ 1 then s else s.gangStart g)

/-- ABORT (R357). -/
def execAbort (gang : Nat) (s : State) : Res :=
  match s.gang? gang with
  | none => .next s
  | some g => .next (if g.rank = 0 || g.phase > 1 then s else s.gangAbort g)

/-- GANG_PREPARE_TIMEOUT (R357): rank 0, its PREPARE sent, aborts; a PREPARE held for no descriptor is discarded. -/
def execGangPrepareTimeout (gang : Nat) (s : State) : Res :=
  match s.gang? gang with
  | none => .next { s with prepHeld := s.prepHeld.filter fun n => n != gang }
  | some g => .next (if g.rank = 0 && g.phase = 1 then s.gangAbortAll g else s)

/-- A gang rollback of this member's launch (R358, R368): to the last mark that was resumed; a launch that no mark covers is
killed (log 33). -/
def State.gangRollback (s : State) (slot : Nat) : State :=
  match s.launch? slot with
  | none => s
  | some l =>
    if l.checkpointed then
      { s.rollback with markPhase := 0, gangs := s.gangs.map fun p => (p.1, { p.2.unmarked false with asked := false }) }
    else s.kill slot 3

/-- GANG_MEMBER_LOST (R357, R358): before commit the gang aborts; afterwards a survivor rolls back. -/
def execGangMemberLost (gang member : Nat) (s : State) : Res :=
  match s.gang? gang with
  | none => .next s
  | some g =>
    if member ≥ g.nmem || member = g.rank then .next s
    else if g.phase ≤ 1 then .next (if g.rank = 0 then s.gangAbortAll g else s.gangAbort g)
    else match g.slot with
      | none => .next s
      | some slot => .next (s.gangRollback slot)

/-- MARK (R383): a member stops and saves; repeated, or where the module's mark is under way, it goes on with that. -/
def execMark (gang : Nat) (s : State) : Res :=
  match s.gang? gang with
  | none => .next s
  | some g =>
    if g.rank = 0 || !(s.ckptGangs.any fun h => h.gang == gang) then .next s
    else
      let s1 := s.setGang { g with asked := true }
      .next (if s1.markPhase ≠ 0 then s1.markStep else if s1.markDue then s1.markStart.markStep else s1)

/-- MARKED (R383): once rank 0 has saved and holds every member's answer, it sends RESUME. -/
def execMarked (gang member : Nat) (s : State) : Res :=
  match s.gang? gang with
  | none => .next s
  | some g =>
    if g.rank ≠ 0 || !g.marking || member = 0 || member ≥ g.nmem then .next s
    else
      let g1 := { g with marked := if g.marked.contains member then g.marked else g.marked ++ [member] }
      let s1 := s.setGang g1
      .next (if s1.markPhase = 2 then s1.markStep else s1)

/-- GANG_RESUME (R383): a member that has answered opens fresh logs and goes on, once no other gang of the mark is waited for. -/
def execGangResume (gang : Nat) (s : State) : Res :=
  match s.gang? gang with
  | none => .next s
  | some g => .next (if g.rank = 0 || !g.told || s.markPhase ≠ 2 then s else (s.setGang { g with resumed := true }).markStep)

/-- GANG_COMPLETION (R358): rank 0 receives a member's completion; its own it knows. -/
def execGangCompletion (gang member : Nat) (s : State) : Res :=
  match s.gang? gang with
  | none => .next s
  | some g => .next (if g.rank ≠ 0 || g.phase ≠ 2 || member = 0 || member ≥ g.nmem then s else s.gangDone g member)

end Sys2Proof.Machine
end

