-- ==== Sys2Proof/Machine/Debug.lean ====
section
/-! DEFINITION. Quench and temper (R389-R392): freezing tiles, their dump records with the results in flight, and reloading them;
blaze (R393, R394): the cuts of the dies and the markers between them. -/

namespace Sys2Proof.Machine

/-! ### The in-flight list (R391, Table 20-4) -/

/-- Offset of the in-flight list in a dump record, and bytes of a dump record. -/
def flightOff : Nat := 0x1000000
def dumpBytes : Nat := 20 * 2 ^ 20

/-- Kind of a result's entry. -/
def InFlight.entryKind (i : InFlight) : Nat :=
  match i.kind with
  | .longLat | .mdrain => 1
  | .vtog => 2
  | .entry k => k

/-- The value the destination will hold. -/
def InFlight.value (i : InFlight) : List Byte :=
  match i.kind with
  | .longLat | .mdrain => regBytes i.payload
  | .vtog => toBytes 8 i.payload.toNat
  | .entry _ => i.bytes

/-- An entry: its head, and its payload padded to 16 bytes. -/
def InFlight.entry (i : InFlight) (kind tgt : Nat) (bs : List Byte) : List Byte :=
  toBytes 8 (kind % 2 ^ 8 + i.eng.code * 2 ^ 8 + i.rem % 2 ^ 16 * 2 ^ 16 + bs.length % 2 ^ 16 * 2 ^ 32 + tgt % 2 ^ 16 * 2 ^ 48) ++
    toBytes 8 (i.addr % 2 ^ 20 + i.tag % 2 ^ 8 * 2 ^ 32) ++ padTo (16 * ceilDiv bs.length 16) bs

/-- The entries of a result: its value, and the flags it raises. -/
def InFlight.entries (i : InFlight) : List (List Byte) :=
  i.entry i.entryKind i.tgt i.value :: (if i.flags = 0 then [] else [i.entry 6 0 (toBytes 8 i.flags.toNat)])

/-- The in-flight list: its count and its entries. -/
def Tile.flightList (x : Tile) : List Byte :=
  let es := x.inflight.flatMap fun i => { i with payload := match i.kind with
    | .vtog => i.payload
    | _ => mergeRows i.rows (x.readV i.tgt) i.payload }.entries
  toBytes 16 es.length ++ es.flatten

/-! ### Quench (R389, R390) -/

/-- The entry of a register that an unfinished word has still to write: the value it will hold (R391). -/
def LateWord.regEntry (w : LateWord) (kind tgt : Nat) (payload : VReg) (bs : List Byte) (flags : BitVec 6) : InFlight :=
  { kind := (if kind = 1 then .longLat else .entry kind), eng := w.eng, tgt := tgt, payload := payload, flags := flags,
    seq := w.seq, tag := w.tag, addr := w.addr, bytes := bs, due := w.due }

/-- The entries of an unfinished word, y being the registers with everything it and the words before it write: each vector register,
its lane predicates as a pair, each accumulator, and its flags. -/
def Tile.wordEntries (y : Tile) (w : LateWord) : List InFlight :=
  let vs := (w.outs.filterMap fun o => match o with | .vrow n _ _ => some n | _ => none).eraseDups
  let ps := (w.outs.filterMap fun o => match o with | .prow n _ _ => some n | _ => none).eraseDups
  let ms := (w.outs.filterMap fun o => match o with | .acc n _ => some n | _ => none).eraseDups
  let pair (a b : Nat) : InFlight :=
    w.regEntry 4 (a + 8 * b) 0 (toBytes 128 (y.readP a).toNat ++ toBytes 128 (y.readP b).toNat) 0
  vs.map (fun n => w.regEntry 1 n (y.readV n) [] 0) ++
    (match ps with | [] => [] | [a] => [pair a 0] | a :: b :: _ => [pair a b]) ++
    ms.map (fun n => w.regEntry 3 n 0 (toBytes 16384 (y.readM n).toNat) 0) ++
    (if w.flags = 0 then [] else [w.regEntry 6 0 0 (toBytes 8 w.flags.toNat) 0])

/-- The entries of the unfinished words, oldest first, on the registers as each leaves them. -/
def Tile.lateEntries (y : Tile) : List LateWord → List InFlight
  | [] => []
  | w :: ws => let z := w.outs.foldl Tile.withOut y; z.wordEntries w ++ Tile.lateEntries z ws

/-- The entry of a row access on its way: its 256 bytes of data and 32 of byte enables (Table 20-4); those of a PST are the bytes in which
it writes a bit, with the row's other bits as they stand (log 34). -/
def RowOut.toEntry (sp : List Host.Cell) (r : RowOut) : InFlight :=
  let lead := List.replicate (r.at_ % 256) ((0 : Byte), false)
  let on (i : Nat) : Bool := match r.mask with | none => true | some m => bits m.toNat (8 * i) 8 != 0
  let bs := lead ++ (bitsInto r.mask sp r.at_ r.bytes).zipIdx.map fun b => (b.1.1, b.1.2 && on b.2)
  let full := bs ++ List.replicate (256 - bs.length) ((0 : Byte), false)
  { kind := .entry 5, eng := r.eng, tgt := r.at_ / 256, payload := 0, seq := r.seq, tag := r.tag, addr := r.addr, due := r.due, row := some (r.pos, r.cls)
    bytes := full.map (fun b => b.1) ++ toBytes 32 (maskOf (fun i => (full.getD i (0, false)).2) 256) }

/-- Cycles from the edge of cycle `scyc` to the end of the one in which a result is written (Table 20-4); free where no table gives its
latency, and at least 1 (log 34). -/
def InFlight.toGo (i : InFlight) (scyc fresh : Nat) : Nat :=
  if i.rem != 0 then i.rem - 1 - scyc
  else if i.due = 0 then 1 + (Config.freeWord fresh).toNat % 65535
  else min 65535 (max 1 (i.due - scyc))

/-- The engines freeze at the end of a cycle; every result issued and not written becomes an entry of the in-flight list, with the cycles
left to it. Words whose last writes these are have retired as far as their engine can tell. -/
def Tile.freeze (x : Tile) (scyc fresh : Nat) : Tile :=
  let y := x.late.foldl (fun z w => z.count (retireEvent w.eng) 1) x
  { y with
    quenched := true, late := [], rowsOut := [], rowsIn := [], loadFix := none, bpHold := false, pcsPrev := y.pcs, fpNow := 0
    wlFrozen := (x.wlCount, x.wlDone, x.wlGone), genFrozen := x.recGstop
    inflight := (x.inflight ++ x.lateEntries x.late ++ x.rowsOut.map (RowOut.toEntry x.sp)).zipIdx.map fun p =>
      { p.1 with rem := p.1.toGo scyc (fresh + p.2) } }

/-- A tile frozen at the end of the present cycle: its semaphore unit has served the cycle's changes, and the cycle is counted (R327, R336,
R390). -/
def State.freezeTile (s : State) (t : Nat) : State :=
  let s1 := s.serveTile t
  let x := ((s1.tile t).tickCounts (Config.freeBool s1.fresh)).freeze s1.scyc.toNat (s1.fresh + 1)
  { s1.setTile t x with fresh := s1.fresh + 1 + x.inflight.length }

/-- A tile's dump record at a physical address (R391). -/
def State.writeDump (s : State) (t pa : Nat) : State :=
  let x := s.tile t
  let segs := x.recSegs true s.scyc.toNat ++ [(flightOff, x.flightList)]
  let s1 := segs.foldl (fun s0 p => s0.pokePA (pa + p.1) p.2) (zeroMem pa dumpBytes s)
  x.sp.foldl (fun s0 c => s0.writePA1 (pa + recRow 0 + c.1) c.2) s1

/-- A dump record with its trace record (kind 4). -/
def State.dumpTile (s : State) (base t : Nat) : State :=
  let pa := base + dumpBytes * t
  (s.writeDump t pa).trace 4 t 0 pa 0

/-- A tile quenched at the edge; one that is quenched already stays so. -/
def State.quenchTile (s : State) (t : Nat) : State :=
  if !(s.tile t).quenched then (s.freezeTile t).dumpTile s.ctl.quenchDump.toNat t
  else if s.blazeThaw.contains t then
    { s with blazeThaw := s.blazeThaw.filter fun u => u != t }.dumpTile s.ctl.quenchDump.toNat t
  else s

/-- A result of the tile is due in this cycle: it is written before the edge. -/
def State.resultDue (s : State) (t : Nat) : Bool :=
  !(s.tile t).quenched && (s.tile t).inflight.any fun r => r.rem != 0 && r.rem ≤ s.scyc.toNat + 1

/-- The cycle of a quench is the present one. -/
def State.edgeNow (s : State) (p : Nat × W64) : Bool := p.2.toNat ≤ s.scyc.toNat

/-- The tiles of QUENCH_MASK. -/
def State.maskTiles (s : State) : List Nat :=
  let m := ofBytes (s.readPA s.ctl.quenchMask.toNat 128)
  (List.range Config.numTiles).filter fun t => bit m t

/-! ### Temper (R392) -/

/-- Bytes read as a record. -/
def bytesRead (bs : List Byte) : RecRead := fun off n => ofBytes ((bs.drop off).take n)

/-- What a section's record would be read as. -/
def Tile.secAgain (y x : Tile) (d : Section) : Section := (y.secOfRecord (bytesRead (x.secRecord d)) 0).1

/-- A section of a dump: the live one where its record has not been edited (log 34). -/
def Tile.liveSec (y x : Tile) (c : Section) : Section :=
  match x.secs.find? fun d => d.seq == c.seq with
  | none => c
  | some d => if c = y.secAgain x d then d else { c with gens := d.gens, deps := if c.started then [] else d.deps }

/-- A command of a dump: the live one where its record has not been edited. -/
def Tile.liveCmd (y x : Tile) (c c1 : Command) : Command :=
  match x.cmd? c.cslot with
  | none => c1
  | some d =>
    if d.trap.isSome || { c with unanswered := false } = { y.cmdOfRecord (bytesRead d.record) 0 with unanswered := false } then d
    else { c with
      seq := d.seq, num := d.num, opsOut := d.opsOut, counted := d.counted, vtile := d.vtile
      mask := if c.accepted && c.fn = 6 && d.accepted then d.mask else c.mask, unanswered := c.unanswered && d.unanswered }

/-- The loops of a dump: the live instances where the stack has not been edited. -/
def Tile.liveLoops (y x : Tile) (rd : RecRead) : Tile :=
  if y.ks.map kRec = x.ks.map kRec then y
  else
    let z := y.loadLoops rd
    { z with kIds := z.kIds.map (· + x.nextRec), nextRec := z.nextRec + x.nextRec }

/-- An engine stands where it stood before the dump was read. -/
def Tile.engSame (y x : Tile) (e : Engine) : Bool :=
  match e with
  | .S => y.pc == x.pc && y.sIn == x.sIn
  | .X => true
  | .L | .A | .W | .M => (y.running e).map (fun c => (c.seq, c.first + c.idx)) == (x.running e).map (fun c => (c.seq, c.first + c.idx))

/-- The L engine stands at the word at which it stood before the dump was read, and that word has not been edited. -/
def Tile.sameL (y x : Tile) : Bool :=
  let word (z : Tile) : Option (Nat × Option FwdWord) := (z.running .L).map fun c => (c.seq, c.words[c.idx]?)
  word y == word x

/-- The sequence number an in-flight entry belongs to. -/
def Tile.flightSeq (x : Tile) (kind tgt addr tag : Nat) : Nat :=
  match x.inflight.find? fun i => i.entryKind == kind && i.tgt == tgt && i.addr == addr && i.tag == tag with
  | some i => i.seq
  | none => match x.secs.find? fun c => c.tag == tag && c.hdrAddr < addr && addr ≤ c.hdrAddr + c.first + c.words.length with
    | some c => c.seq
    | none => x.seqNext

/-- Target numbers there are of an entry's kind. -/
def flightTgts (kind : Nat) : Nat :=
  match kind with
  | 1 => 192 | 2 => 64 | 3 => 4 | 5 => 16384 | _ => 65536

/-- One in-flight entry of a dump. -/
def Tile.flightOf (x : Tile) (w0 w1 : Nat) (bs : List Byte) : InFlight :=
  let kind := bits w0 0 8
  let tgt := bits w0 48 16 % flightTgts kind
  let addr := bits w1 0 20
  let tag := bits w1 32 8
  { kind := (if kind = 1 then .longLat else if kind = 2 then .vtog else .entry kind)
    eng := engOf (bits w0 8 8), tgt := tgt
    payload := if kind = 1 || kind = 2 then BitVec.ofNat 32768 (ofBytes bs) else 0
    seq := x.flightSeq kind tgt addr tag, tag := tag, addr := addr
    rem := bits w0 16 16
    row := (x.inflight.find? fun i => i.entryKind == kind && i.tgt == tgt && i.addr == addr && i.tag == tag).bind fun i => i.row
    bytes := if kind = 1 || kind = 2 then [] else bs }

/-- The entries of an in-flight list from an offset on. -/
def Tile.flights (x : Tile) (rd : RecRead) : (n : Nat) → (off : Nat) → List InFlight
  | 0, _ => []
  | n + 1, off =>
    if off + 16 > dumpBytes then []
    else
      let w0 := rd off 8
      let len := bits w0 32 16
      x.flightOf w0 (rd (off + 8) 8) (recRun rd (off + 16) len) :: Tile.flights x rd n (off + 16 + 16 * ceilDiv len 16)

/-- The pending ring releases that a dump's ring table stands for: the live ones where they were pending before. -/
def Tile.liveReleases (y x : Tile) : List (Nat × Nat × Nat × Nat × Nat) :=
  (pendsOf y.rings x.seqNext x.xq).map fun p =>
    match x.relPend.find? fun q => q.1 == p.1 && q.2.1 == p.2.1 with
    | some q => q
    | none => p

/-- The latest generation with eight given low bits that is not above the innermost record's count. -/
def Tile.genNear (x : Tile) (r : Nat) : Int × Option Nat :=
  match x.records with
  | [] => (0, none)
  | (id, n) :: _ => ((n : Int) - ((n + 256 - r) % 256 : Nat), some id)

/-- The stopping generation that a record's eight bits stand for, and the record instance it is relative to: those of the live stop, one
asked for during the freeze too, where software has left them as the dump had them; else the latest that is not above the innermost
record's count. -/
def Tile.genOf (x : Tile) (r : Nat) : Int × Option Nat :=
  match x.stop with
  | some st => if x.genFrozen = r then (st.gen, st.inst) else x.genNear r
  | none => x.genNear r

/-- How the point stops by the trapped flag and the stopping generation of its record (Table 19-5). A stop for a trap whose flag
software has cleared is over; a flag that software has set stops the point as a trap of the engine in TRAP_ENGINE does. -/
def Tile.stopOfRecord (x : Tile) (rd : RecRead) : Option Stop :=
  let trapped := bit (rd 8 1) 0
  let (gen, inst) := x.genOf (rd 9 1)
  match x.stop with
  | some st =>
    if trapped then some { st with trapped := true, gen := gen, inst := inst, eng := if st.trapped then st.eng else some (engOf (x.trapEngine.toNat % 8)) }
    else if st.why == .trap then none
    else some { st with trapped := false, gen := gen, inst := inst, eng := none }
  | none => if trapped then some { why := .trap, trapped := true, eng := some (engOf (x.trapEngine.toNat % 8)), gen := gen, inst := inst } else none

/-- A quenched tile with everything in its dump record but the rows (R392), and with what has reached its work list since; it is still
frozen. -/
def Tile.reload (x : Tile) (rd : RecRead) : Tile :=
  let l : Tile := { x.loadRegs rd with launchId := BitVec.ofNat 64 (rd 24 8) &&& ~~~0xC0#64 }
  let y0 : Tile := { l with
    stop := l.stopOfRecord rd
    point := l.point.map fun (p : Point) => { p with home := rd 64 2 % 1024 } }
  let y1 := if y0.sIn = x.sIn && y0.sHdr = x.sHdr then y0 else y0.loadS
  let y := y1.liveLoops x rd
  let secs := (y.recSections rd).map (y.liveSec x)
  let base := secs.foldl (fun m (c : Section) => max m (c.seq + 1)) x.seqNext
  let cs := y.recCommands rd
  let chan := (cs.zip (y.seqCmds secs base cs)).map fun p => y.liveCmd x p.1 p.2
  let z := { y with
    secs := secs, chan := chan
    seqNext := chan.foldl (fun m (c : Command) => max m (c.seq + 1)) base
    relPend := y.liveReleases x
    inflight := x.flights rd (min (rd flightOff 16) (2 ^ 18)) (flightOff + 16)
    runs := if y.fifoA.length = x.fifoA.length && y.fifoB.length = x.fifoB.length && y.sqa.length = x.sqa.length &&
      y.sqb.length = x.sqb.length then x.runs else y.runs }
  let here := z.engSame x .S
  { z with
    wlCount := z.wlCount + (x.wlCount - x.wlFrozen.1)
    wlDone := z.wlDone || (x.wlDone && !x.wlFrozen.2.1)
    wlGone := z.wlGone || (x.wlGone && !x.wlFrozen.2.2)
    pcsPrev := z.pcs
    lPush := if z.sameL x then x.lPush else none
    waiters := x.waiters.filter fun w => z.engSame x w.eng
    waits := x.waits.filter fun p => z.engSame x (engOf p.1)
    standing := if here then x.standing else none
    atLoop := x.atLoop && here
    bpPassed := x.bpPassed && here }

/-- A quenched tile reloaded from its dump, going on at cycle T. -/
def State.temperTile (s : State) (T t : Nat) : State :=
  let x := s.tile t
  if !x.quenched || s.blazeThaw.contains t then s
  else
    let pa := s.ctl.quenchDump.toNat + dumpBytes * t
    (s.setTile t (x.reload fun off n => ofBytes (s.readPA (pa + off) n))).thaw T t

/-- TEMPER_RESTART (R392): at the beginning of cycle T; one that has passed counts as the present cycle (log 34). -/
def execTemperRestart (s : State) : Res :=
  match s.ctl.temperAt with
  | none => .next s
  | some T =>
    if T.toNat > s.scyc.toNat then .next s
    else
      let s1 := s.maskTiles.foldl (fun s0 t => s0.temperTile s.scyc.toNat t) s
      .next { s1 with ctl := { s1.ctl with temperAt := none } }

/-- INFLIGHT_WRITE (R392): entry k of a tempered tile, in the cycle at whose end it is written. -/
def execInflightWrite (tile k : Nat) (s : State) : Res :=
  let x := s.tile tile
  match x.inflight[k]? with
  | none => .next s
  | some i =>
    if x.quenched || i.rem = 0 || i.rem > s.scyc.toNat + 1 then .next s
    else match i.kind with
      | .longLat | .mdrain | .vtog => .next (s.setTile tile (x.landResult k))
      | .entry kind =>
        let s1 := s.setTile tile (({ x with inflight := x.inflight.eraseIdx k }.landEntry kind i.tgt i.row i.bytes).sweep)
        .next (if kind = 5 then s1.note [spTrail true tile (256 * i.tgt) 256] else s1)

/-! ### Blaze (R393, R394) -/

/-- Dies are numbered as in Table 20-2: 0-15 CD, 16-23 XD, 24 IOD. -/
def iodNum : Nat := 24

/-- Links are numbered: n, CDn to its transfer die; 16 + n, XDn to the next on the ring; 24 + n, XDn to the IOD; 32 + n, module link
n (Table 01-2). -/
def numLinks : Nat := 50

/-- The other end of a link of a die: another die, none for a module link; the outer none where the die has no such link. -/
def linkEnd (die link : Nat) : Option (Option Nat) :=
  let ends (a b : Nat) : Option (Option Nat) := if die = a then some (some b) else if die = b then some (some a) else none
  if link < 16 then ends link (16 + link / 2)
  else if link < 24 then ends link (16 + (link - 15) % 8)
  else if link < 32 then ends (link - 8) iodNum
  else if link < numLinks && die = iodNum then some none
  else none

/-- Module links that are up. -/
def State.upLinks (s : State) : List Nat := (List.range 18).filter fun n => (Assoc.get 0 n s.ctl.links).getLsbD 16

/-- A tile's dump record written at a physical address, or streamed out of the management port. -/
def State.blazeDump (s : State) (out : Bool) (t : Nat) : State :=
  if out then
    let x := s.tile t
    { s with streamed := s.streamed ++ [(t, x.recSegs true s.scyc.toNat ++ (List.range 16384).map (fun r => (recRow r, x.readBytes (256 * r) 256)) ++
        [(flightOff, x.flightList)])] }
  else s.dumpTile s.ctl.blazeDump.toNat t

/-- A tile dumped in its die's cut: quenched until the cycle ends, where it is not quenched already. -/
def State.blazeTile (s : State) (out : Bool) (t : Nat) : State :=
  if (s.tile t).quenched then s.blazeDump out t
  else { s.freezeTile t with blazeThaw := s.blazeThaw ++ [t] }.blazeDump out t

/-- A die takes its cut (R394), with its kind 5 record; the link that brought its first marker has been seen. A compute die's is taken
at the edge. -/
def State.takeCut (s : State) (die num : Nat) (out : Bool) (first : List Nat) : State :=
  let c : BlazeCut := { die := die, scyc := s.scyc, num := num, out := out, seen := first }
  let keep (s1 : State) (c1 : BlazeCut) : State := { s1 with cuts := s1.cuts ++ [c1] }.trace 5 0 num die 0
  if die < 16 then
    let ts := (List.range Config.numTiles).filter fun t => s.cdOf t == die
    let s1 := ts.foldl (fun s0 t => s0.blazeTile out t) s
    keep s1 { c with tiles := ts.map fun t => (t, s1.tile t) }
  else if die < iodNum then
    let x := s.die (die - 16)
    let ts := (s.tiles.filter fun p => s.dieOf p.1 == die - 16 && !p.2.chan.isEmpty).map fun p => (p.1, p.2.chan)
    keep s { c with chans := ts, wq := x.wq, undo := x.undoUsed }
  else
    let s1 := keep s { c with
      launches := s.launches, fronts := (s.launches.filter fun p => !p.2.isList).map fun p => (p.1, p.2.frontier p.2.pts)
      subQ := s.subQ, readyQ := s.readyQ, parkedQ := s.parkedQ }
    { s1 with markersOut := s1.markersOut ++ s.upLinks }

/-- A later marker: the flits that came over its link since the cut are the link's channel state (log 14). -/
def State.seeMarker (s : State) (die link : Nat) : State :=
  { s with
    fresh := s.fresh + 1
    cuts := s.cuts.map fun c =>
      if c.die == die then { c with seen := c.seen ++ [link], flits := c.flits ++ [(link, Config.blazeFlits s.fresh link)] } else c }

/-- Every die has its cut, and every link between dies has brought its marker. -/
def State.blazeDone (s : State) : Bool :=
  (List.range 25).all fun d => match s.cut? d with
    | none => false
    | some c => (List.range 32).all fun l => (linkEnd d l).isNone || c.seen.contains l

/-- Tiles of a compute die with a result due in this cycle. -/
def State.dieDue (s : State) (die : Nat) : Bool := s.tiles.any fun p => s.cdOf p.1 == die && s.resultDue p.1

/-- QUENCH_EDGE (R390, R394): the tiles told to quench in this cycle freeze, and their dumps are written; busy clears with the last.
The compute dies that a blaze's marker has reached take their cuts. -/
def execQuenchEdge (s : State) : Res :=
  let ts := ((s.quenchAt.filter s.edgeNow).map fun p => p.1).eraseDups
  if (ts.isEmpty && s.cutsDue.isEmpty) || ts.any s.resultDue || s.cutsDue.any (fun c => s.dieDue c.1) then .next s
  else
    let s1 := ts.foldl State.quenchTile { s with quenchAt := s.quenchAt.filter fun p => !s.edgeNow p }
    let s2 := { s1 with ctl := { s1.ctl with quenchBusy := s1.ctl.quenchBusy && !s1.quenchAt.isEmpty } }
    .next (s2.cutsDue.foldl (fun s0 c => s0.takeCut c.1 c.2.1 c.2.2.1 c.2.2.2) { s2 with cutsDue := [] })

/-- A blaze begins: no operation has been sent after a cut of it. -/
def State.newBlaze (s : State) : State :=
  { s.mapDies (fun x => { x with wqIn := x.wqIn.map fun o => { o with cut := false } }) with cuts := [] }

/-- An operation sent before a blaze's markers stands on a link of the ring to a die: the marker comes behind it (R393). -/
def State.opsAhead (s : State) (die link : Nat) : Bool :=
  16 ≤ die && (s.die (die - 16)).wqIn.any fun o => !o.cut && match (s.opWay (die - 16) o).getLast? with
    | some p => ringLink p == link
    | none => false

/-- BLAZE_MARKER (R393): a marker arrives at a die over a link. The first makes it take its cut, a compute die at the end of the cycle
(R394); a later one ends the recording of
its link. A marker of another module's blaze carries a number this module does not know (log 14). -/
def execBlazeMarker (die link : Nat) (s : State) : Res :=
  if s.ctl.blazeEn ≠ 1 then .next s
  else match linkEnd die link with
    | none => .next s
    | some none =>
      if !s.upLinks.contains (link - 32) then .next s
      else
        let num := (Config.freeWord s.fresh).toNat % 2 ^ 16
        let s1 := { s with fresh := s.fresh + 2 }
        match s.cut? iodNum with
        | none => .next (s1.newBlaze.takeCut iodNum num (Config.freeBool (s.fresh + 1)) [link])
        | some c =>
          if !c.seen.contains link then .next (s.seeMarker iodNum link)
          else if s.blazeDone then .next (s1.newBlaze.takeCut iodNum num (Config.freeBool (s.fresh + 1)) [link])
          else .next s
    | some (some sender) =>
      if s.opsAhead die link then .next s
      else match s.cut? sender, s.cut? die with
      | none, _ => .next s
      | some b, none =>
        if 16 ≤ die then .next (s.takeCut die b.num b.out [link])
        else if s.cutsDue.any fun c => c.1 == die then .next s
        else .next { s with cutsDue := s.cutsDue ++ [(die, b.num, b.out, [link])] }
      | some _, some c => .next (if c.seen.contains link then s else s.seeMarker die link)

end Sys2Proof.Machine
end

