-- ==== Sys2Proof/Machine/Control.lean ====
section
/-! DEFINITION. Control space (R403-R405): the arrival of a write at the ordering point, ownership, and the effect of each register
(Tables 12-3, 12-5, 16-2, 17-5, 18-1, 19-2, 20-3, 21-3, 21-4, 21-7); what a read of a register returns. -/

namespace Sys2Proof.Machine

/-! ### Masters and ownership (R404, R405) -/

/-- A number of a master, or Yelsutor's (log 28). -/
def validMaster (m : Nat) : Bool := m ≤ 2 || (16 ≤ m && m ≤ 33) || m == yelsutor

/-- A discarded write is counted; the count saturates. -/
def State.deny (s : State) : State :=
  { s with ctl := { s.ctl with denied := if s.ctl.denied == BitVec.allOnes 32 then s.ctl.denied else s.ctl.denied + 1 } }

/-- Only the owner and Yelsutor write control space. -/
def State.owned (s : State) (m : Nat) (act : State → State) : State :=
  if m = yelsutor || s.ctl.owner.toNat = m then act s else s.deny

/-- A register that does not answer in recovery (R410), written by its owner or Yelsutor. -/
def State.judged (s : State) (m : Nat) (act : State → State) : State := if s.ctl.recovery then s else s.owned m act

/-- CLAIM: the first claim that finds no owner wins; in one cycle, that of the lowest number (R405). -/
def State.claimAct (s : State) (m : Nat) : State :=
  if m = yelsutor then s
  else if s.ctl.owner == 255 || (s.ctl.claimCyc == some s.scyc && m < s.ctl.owner.toNat) then
    { s with ctl := { s.ctl with owner := BitVec.ofNat 8 m, claimCyc := some s.scyc } }
  else s

/-- HANDOVER: succ is a master or 0xFF (R405). -/
def State.handoverAct (s : State) (v : W64) : State :=
  let n := bits v.toNat 0 8
  if n = 255 || validMaster n then { s with ctl := { s.ctl with owner := BitVec.ofNat 8 n, claimCyc := none } } else s

/-! ### Submission (R341, R356) -/

/-- SUBMIT: the node and the requester's context enter the submission queue, and the executor goes on. -/
def State.submitAct (s : State) (m : Nat) (v : W64) : State :=
  { s with subQ := s.subQ ++ [(bits v.toNat 0 57, (Assoc.get 0 m s.ctl.submitCtx).toNat)] }.runGraph graphSteps

/-- GANG_SUBMIT: the descriptor is read in the requester's context. -/
def State.gangAct (s : State) (m : Nat) (v : W64) : State :=
  if s.runsLaunches then s.gangSubmit (Assoc.get 0 m s.ctl.submitCtx).toNat (bits v.toNat 0 57) else s

/-! ### Shootdowns (R226, Table 12-3) -/

/-- SHOOT_CTL. -/
def State.shootAct (s : State) (v : W64) : State :=
  if v.getLsbD 62 then { s with ctl := { s.ctl with shootLost := false } }
  else if s.ctl.shootBusy then { s with ctl := { s.ctl with shootLost := true } }
  else
    { s.mapDies (fun x => { x with shootPend := true }) with
      ctl := { s.ctl with
        shootBusy := true, shootFor := s.ctl.shootVa
        shootScope := BitVec.ofNat 2 (bits v.toNat 16 2), shootCtx := BitVec.ofNat 16 v.toNat } }

/-! ### RESUME (R231, R232, Table 12-5) -/

/-- A write that names no suspended command. -/
def State.stray (s : State) : State := { s with ctl := { s.ctl with resumeStray := true } }

/-- Record j of a saved point's commands is suspended, with the tile and command slot of its latest fault record. -/
def suspendedAt (rd : RecRead) (t cslot j : Nat) : Bool :=
  let off := 0x100000 + 768 * j
  bit (rd (off + 192) 8) 49 && bits (rd (off + 304) 2) 0 10 == t && rd (off + 306) 1 == cslot

/-- The saved suspended command that a RESUME names: launch slot and record index, the first where two match: DESIGN CHOICE
(log 78). -/
def State.savedCmd (s : State) (t cslot : Nat) : Option (Nat × Nat) :=
  s.launches.findSome? fun (slot, l) => l.pts.findSome? fun p =>
    match p.place with
    | .parked i | .trapped i =>
      let rd := s.recRead l.tctx (l.recVA i)
      if (List.range (min (bits (rd 40 8) 0 9) Config.chanCap)).any (suspendedAt rd t cslot) then some (slot, i) else none
    | _ => none

/-- A running suspended command takes up its element again, or fails with the launch fault (R231). -/
def Command.answer (c : Command) (q : Suspension) (fail : Bool) : Command :=
  let c1 := { c with susp := none, unanswered := false }
  if fail then
    { c1 with trap := some (0x10, BitVec.ofNat 64 (q.kind * 2 ^ 60 + c.e % 2 ^ 48 * 2 ^ 12 + 4)), done := true, held := none }
  else c1

/-- The running suspended command that a RESUME names. -/
def Tile.suspended (x : Tile) (cslot : Nat) : Option (Command × Suspension) :=
  (x.cmd? cslot).bind fun c => c.susp.map fun q => (c, q)

/-- RESUME. -/
def State.resumeAct (s : State) (v : W64) : State :=
  let act := bits v.toNat 18 2
  let cslot := bits v.toNat 10 8
  let t := bits v.toNat 0 10
  if v.getLsbD 63 then { s with ctl := { s.ctl with resumeStray := false } }
  else if act ≥ 2 then s.stray
  else match (s.tile t).suspended cslot with
    | some (c, q) => s.setCmd t (c.answer q (act == 1))
    | none => match s.savedCmd t cslot with
      | none => s.stray
      | some (slot, idx) =>
        if act = 0 || s.heldFail.contains (slot, idx, cslot) then s
        else { s with heldFail := (slot, idx, cslot) :: s.heldFail }

/-! ### Launch slots (R366, R367, Table 19-2) -/

/-- Act 3: a running launch is parked whole, a parked one unparked; not without a context area. -/
def State.parkAct (s : State) (slot : Nat) (l : Launch) : State :=
  if l.ctxVA = 0 then s
  else if l.state = 1 then (s.setLaunch slot { l with state := 2 }).askPark slot
  else if l.state = 3 then s.setLaunch slot { l with state := 1 }
  else s

/-- SLOT_CTL of a slot. -/
def State.slotAct (s : State) (slot : Nat) (v : W64) : State :=
  match s.launch? slot with
  | none => s
  | some l =>
    match bits v.toNat 0 2 with
    | 1 => s.resumePoint slot (bits v.toNat 2 10)
    | 2 => s.kill slot 1
    | 3 => s.parkAct slot l
    | _ => s

/-! ### Rings (R310, R395) -/

/-- xQ_CFG (R310): while the ring is enabled a write changes en alone; while it is disabled, a write sets vec and lg, and enables
the ring, counting from 0, where its en is 1 and lg is 6 to 16. -/
def Ring.config (r : Ring) (v : W64) : Ring :=
  let lg := bits v.toNat 0 5
  if r.en then { r with en := v.getLsbD 63 }
  else
    let r1 := { r with vec := BitVec.ofNat 11 (bits v.toNat 8 11), lg := BitVec.ofNat 5 lg }
    if v.getLsbD 63 && 6 ≤ lg && lg ≤ 16 then { r1 with en := true, tail := 0, head := 0 } else r1

/-- A ring's CFG written; the replay log enabled anew is read from its start. -/
def State.ringAct (s : State) (n : RingName) (v : W64) : State :=
  let r := s.ring n
  let r1 := r.config v
  let s1 := s.setRing n r1
  if n == RingName.rl && !r.en && r1.en then { s1 with rlNext := 0 } else s1

/-- xQ_HEAD. -/
def State.headAct (s : State) (n : RingName) (v : W64) : State := s.setRing n { s.ring n with head := BitVec.ofNat 32 v.toNat }

/-- xQ_BASE: ignored while the ring is enabled. -/
def State.baseAct (s : State) (n : RingName) (v : W64) : State :=
  let r := s.ring n
  if r.en then s else s.setRing n { r with base := v &&& ~~~0xFFF#64 }

/-- xQ_STAT: bit 63 clears ovf. -/
def State.ringStatAct (s : State) (n : RingName) (v : W64) : State :=
  if v.getLsbD 63 then s.setRing n { s.ring n with ovf := false } else s

/-! ### Life cycle, attestation, power (R407-R412) -/

/-- The key that signs an advance from a state: 0 vendor, 1 operator; none from RETURNED (Table 21-5). -/
def advanceKey (lc : BitVec 2) : Option Nat := if lc == 3 then none else if lc == 2 then some 1 else some 0

/-- The identity key in a life-cycle state that an advance leads to: generated at PROVISIONED, destroyed at RETURNED (R408). -/
def keyFrom (lc : BitVec 2) (fresh : Nat) (key : Option Nat) : Option Nat :=
  if lc == 1 then some fresh else if lc == 3 then none else key

/-- LC_REQ: a reset, or an advance whose signature passes (R407, R408, log 12). -/
def State.lcAct (s : State) (v : W64) : State :=
  match bits v.toNat 62 2 with
  | 0 => s.moduleReset
  | 1 => match advanceKey s.ctl.lcState with
    | none => s
    | some k =>
      let s1 := { s with fresh := s.fresh + 1 }
      if Config.signatureOk k s.fresh then
        { s1 with ctl := { s1.ctl with lcState := s1.ctl.lcState + 1, idKey := keyFrom (s1.ctl.lcState + 1) s.fresh s1.ctl.idKey } }.wipe
      else s1
  | _ => s

/-- LC_STATE: writing 1 to trip clears it and erases the record (R409). -/
def State.tripAct (s : State) (v : W64) : State := if v.getLsbD 8 then { s with flashTrip := none } else s

/-- ATTEST (R411). -/
def State.attestAct (s : State) (v : W64) : State :=
  if s.ctl.attestPA.isSome then s else { s with ctl := { s.ctl with attestPA := some v, attestDone := false } }

/-- PWR_CAP (R412). -/
def State.pwrAct (s : State) (v : W64) : State :=
  let w := bits v.toNat 0 16
  if 1000 ≤ w && w ≤ 5000 then { s with ctl := { s.ctl with pwrCap := BitVec.ofNat 16 w } } else s

/-! ### Access counters, performance counters, replay -/

/-- Counts that a new threshold finds reached are notified and halved (R233); the context they notify is free (log 29). -/
def State.reachThresh (s : State) (d : Nat) : List (Nat × W64) → State
  | [] => s
  | (i, e) :: l =>
    let n := acntCount e
    let x := s.die d
    if n < x.thresh.toNat then State.reachThresh s d l
    else
      let s1 := s.setDie d { x with acnt := Assoc.set 0 i (BitVec.ofNat 64 (acntFrame e + max (n / 2) 1 * 2 ^ 48)) x.acnt }
      let ctx := (Config.freeWord s.fresh).toNat % 2 ^ 16
      State.reachThresh ({ s1 with fresh := s.fresh + 1 }.pushRing .nq [acntFrame e + n * 2 ^ 48, d * 2 ^ 16 + ctx]) d l

/-- THRESH of a die: 0 is ignored (R233). -/
def State.threshAct (s : State) (d : Nat) (v : W64) : State :=
  let n := bits v.toNat 0 16
  if n = 0 then s
  else
    let s1 := s.setDie d { s.die d with thresh := BitVec.ofNat 16 n }
    s1.reachThresh d (s1.die d).acnt

/-- REPLAY_CTL (R395): mode 3 is ignored; a new mode starts a new log (log 35). -/
def State.replayAct (s : State) (v : W64) : State :=
  let n := bits v.toNat 0 2
  if n = 3 then s
  else { s with rlFirst := none, rlNext := 0, ctl := { s.ctl with replayMode := BitVec.ofNat 2 n, replayDiv := false, replayIdx := 0 } }

/-! ### Quench, temper, blaze (R389, R392, R393) -/

/-- QUENCH_CTL: the tiles of the mask quench at the end of QUENCH_CYC, or of the present cycle when that has passed. -/
def State.quenchAct (s : State) (v : W64) : State :=
  if !v.getLsbD 63 || s.ctl.quenchBusy then s
  else
    let c := if s.ctl.quenchCyc.toNat < s.scyc.toNat then s.scyc else s.ctl.quenchCyc
    let ts := s.maskTiles
    { s with quenchAt := s.quenchAt ++ ts.map fun t => (t, c), ctl := { s.ctl with quenchBusy := !ts.isEmpty } }

/-- TEMPER. -/
def State.temperAct (s : State) (v : W64) : State :=
  if v.getLsbD 63 then { s with ctl := { s.ctl with temperAt := some (BitVec.ofNat 64 (bits v.toNat 0 63)) } } else s

/-- BLAZE_CTL: the I/O die takes its cut, on a module that takes part. -/
def State.blazeAct (s : State) (v : W64) : State :=
  let s1 := { s with ctl := { s.ctl with blazeCtl := v &&& 0x400000000000FFFF#64 } }
  if v.getLsbD 63 && s.ctl.blazeEn = 1 then s1.newBlaze.takeCut iodNum (bits v.toNat 0 16) (v.getLsbD 62) [] else s1

/-! ### Registers without a row of their own (R403) -/

/-- The ring sets in the order of Table 21-3. -/
def ringAt (n : Nat) : RingName := match n with | 0 => .fq | 1 => .nq | 2 => .tr | _ => .rl

/-- The row of an offset whose register has one. -/
def rowAt (m off : Nat) (v : W64) : Option Instr :=
  if off = 0x00 then some (.claim m)
  else if off = 0x10 then some (.handover m v)
  else if off = 0x100 then some (.lcStateTripClear m v)
  else if off = 0x108 then some (.lcReqReset m v)
  else if off = 0x118 then some (.attest m v)
  else if off = 0x200 then some (.pwrCap m v)
  else if off = 0x1030 then some (.shootCtlStart m v)
  else if off = 0x1038 then some (.resumeRetry m v)
  else if off = 0x2008 then some (.submit m v)
  else if off = 0x2010 then some (.gangSubmit m v)
  else if 0x3000 ≤ off && off < 0x3100 && off % 64 = 8 then some (.ringCfgWrite m (ringAt (off % 256 / 64)) v)
  else if 0x3000 ≤ off && off < 0x3100 && off % 64 = 24 then some (.ringHeadWrite m (ringAt (off % 256 / 64)) v)
  else if off = 0x4000 then some (.perfCtl m v)
  else if off = 0x4010 then some (.replayCtl m v)
  else if off = 0x5060 then some (.quenchCtl m v)
  else if off = 0x5068 then some (.temper m v)
  else if off = 0x5070 then some (.blazeCtl m v)
  else if 0x10000 ≤ off && off < 0x10800 && off % 256 = 0 then some (.thresh m ((off - 0x10000) / 256) v)
  else if 0x20000 ≤ off && off < 0x21000 && off % 64 = 16 then some (.slotCtlResume m ((off - 0x20000) / 64) v)
  else none

/-- The module's number is written once, by Yelsutor (R406). -/
def State.modnumAct (s : State) (m : Nat) (v : W64) : State :=
  if m = yelsutor && s.ctl.modnum.isNone then { s with ctl := { s.ctl with modnum := some (BitVec.ofNat 16 v.toNat) } } else s

/-- A register of the control block (Ctl) written by an owner, at offsets that no other definition has. -/
def Ctl.write (c : Ctl) (m off : Nat) (v : W64) : Ctl :=
  let low16 : BitVec 16 := BitVec.ofNat 16 v.toNat
  if off = 0x1000 then { c with ctxBase := v }
  else if off = 0x1008 then { c with bar2Ctx := Assoc.set 0 0 low16 c.bar2Ctx }
  else if off = 0x1010 then { c with bar2Ctx := Assoc.set 0 1 low16 c.bar2Ctx }
  else if off = 0x1018 then { c with bar2Va := Assoc.set 0 0 v c.bar2Va }
  else if off = 0x1020 then { c with bar2Va := Assoc.set 0 1 v c.bar2Va }
  else if off = 0x1028 then { c with shootVa := v &&& 0x01FFFFFFFFFF0000#64 }
  else if off = 0x2000 then { c with submitCtx := Assoc.set 0 m low16 c.submitCtx }
  else if off = 0x4008 then { c with trapVec := BitVec.ofNat 11 v.toNat }
  else if 0x5000 ≤ off && off ≤ 0x5040 && off % 8 = 0 then
    let i := (off - 0x5000) / 8
    { c with dbgInit := Assoc.set 0 i (v &&& dbgMask i) c.dbgInit }
  else if off = 0x5048 then { c with quenchCyc := v }
  else if off = 0x5050 then { c with quenchMask := v }
  else if off = 0x5058 then { c with quenchDump := v }
  else if off = 0x5078 then { c with blazeEn := v }
  else if off = 0x5080 then { c with blazeDump := v }
  else c

/-- The driver clears access-counter entries of a die: their counts become 0, which frees them (R199, log 54). -/
def State.clearCounts (s : State) (d : Nat) (is : List Nat) : State :=
  let x := s.die d
  s.setDie d { x with acnt := is.foldl (fun l i => Assoc.set 0 i (BitVec.ofNat 64 (acntFrame (Assoc.get 0 i l))) l) x.acnt }

/-- A register without a row of its own written by an owner; an unimplemented or read-only offset ignores it (R401), and an offset that
is not a multiple of 8 is no register's (R403). The driver's own channel of R222 has no register (log 72). -/
def State.regAct (s : State) (m off : Nat) (v : W64) : State :=
  if off % 8 ≠ 0 then s
  else if off = 0x110 then s.modnumAct m v
  else if 0x3000 ≤ off && off < 0x3100 && off % 64 = 0 then s.baseAct (ringAt (off % 256 / 64)) v
  else if 0x3000 ≤ off && off < 0x3100 && off % 64 = 32 then s.ringStatAct (ringAt (off % 256 / 64)) v
  else if 0x10000 ≤ off && off < 0x10800 && off % 256 = 8 then
    let d := (off - 0x10000) / 256
    s.setDie d { s.die d with undoBase := v }
  else if 0x10000 ≤ off && off < 0x10800 && off % 256 ≥ 24 then
    s.clearCounts ((off - 0x10000) / 256) ((Config.countClear (off % 256) v).filter (· < Config.acntCap))
  else { s with ctl := s.ctl.write m off v }

/-- OWN_STAT: any master clears the fields in which it writes a 1 (RW1C, R404). -/
def State.ownStatAct (s : State) (v : W64) : State :=
  { s with ctl := { s.ctl with
    denied := s.ctl.denied &&& ~~~(BitVec.ofNat 32 v.toNat)
    abortCnt := s.ctl.abortCnt &&& ~~~(BitVec.ofNat 32 (v.toNat / 2 ^ 32)) } }

/-! ### Arrival and release (R297, R405) -/

/-- Writes that are held behind the earlier posted writes of their requester (R297, R232, R405). -/
def isDoorbell : Instr → Bool
  | .handover _ _ | .submit _ _ | .gangSubmit _ _ | .resumeRetry _ _ | .resumeFail _ _ | .resumeClearStray _ _ | .bar4Write _ _ _ _ => true
  | _ => false

/-- A SUBMIT that finds the submission queue full is held (R308). -/
def State.noRoom (s : State) (i : Instr) : Bool := match i with | .submit _ _ => s.subQ.length ≥ Config.submitCap | _ => false

/-- A master's writes reach the module: those of a module link while the link is up (R404, R406). -/
def State.reaches (s : State) (m : Nat) : Bool :=
  validMaster m && (m < 16 || m == yelsutor || (Assoc.get 0 (m - 16) s.ctl.links).getLsbD 16)

/-- A write arrives at the ordering point: it waits there behind a held write of its requester, as a doorbell behind its
requester's posted writes, or it takes effect. -/
def arrive (i : Instr) (act : State → State) (s : State) : Res :=
  let m := writerOf i
  .next (
    if !s.reaches m then s
    else if s.heldBy m || (isDoorbell i && s.unacked m s.hostNum) || s.noRoom i then s.hold i
    else act s)

/-- What a write that passes the ordering point does. -/
def ctlEffect (i : Instr) (s : State) : State :=
  match i with
  | .claim m => s.claimAct m
  | .handover m v => s.judged m fun s1 => s1.handoverAct v
  | .submit m v => s.judged m fun s1 => s1.submitAct m v
  | .gangSubmit m v => s.judged m fun s1 => s1.gangAct m v
  | .shootCtlStart m v | .shootCtlClearLost m v => s.judged m fun s1 => s1.shootAct v
  | .resumeRetry m v | .resumeFail m v | .resumeClearStray m v => s.judged m fun s1 => s1.resumeAct v
  | .slotCtlResume m n v | .slotCtlKill m n v | .slotCtlPark m n v => s.judged m fun s1 => s1.slotAct n v
  | .ringCfgWrite m r v => s.judged m fun s1 => s1.ringAct r v
  | .ringHeadWrite m r v => s.judged m fun s1 => s1.headAct r v
  | .lcReqReset m v | .lcReqAdvance m v => s.judged m fun s1 => s1.lcAct v
  | .lcStateTripClear m v => s.owned m fun s1 => s1.tripAct v
  | .attest m v => s.judged m fun s1 => s1.attestAct v
  | .pwrCap m v => s.judged m fun s1 => s1.pwrAct v
  | .thresh m d v => s.judged m fun s1 => if d < Config.numDies then s1.threshAct d v else s1
  | .perfCtl m v => s.judged m fun s1 => { s1 with ctl := { s1.ctl with perfCtl := v } }
  | .replayCtl m v => s.judged m fun s1 => s1.replayAct v
  | .quenchCtl m v => s.judged m fun s1 => s1.quenchAct v
  | .temper m v => s.judged m fun s1 => s1.temperAct v
  | .blazeCtl m v => s.judged m fun s1 => s1.blazeAct v
  | .controlWrite m off bs =>
    let v := BitVec.ofNat 64 (ofBytes bs)
    if off = 0x18 then (if s.ctl.recovery then s else s.ownStatAct v) else s.judged m fun s1 => s1.regAct m off v
  | _ => s

/-- ORDERING_POINT_RELEASE (R297): a held write passes once no earlier write of its requester is held, and a doorbell or a BAR4
write once that requester's earlier posted writes are acknowledged. -/
def execOrderingPointRelease (k : Nat) (s : State) : Res :=
  match s.heldQ[k]? with
  | none => .next s
  | some (n, i) =>
    let m := writerOf i
    if (s.heldQ.take k).any (fun p => writerOf p.2 == m) || (isDoorbell i && s.unacked m n) || s.noRoom i then .next s
    else
      let s1 := { s with heldQ := s.heldQ.eraseIdx k }
      match i with
      | .bar4Write p off data be => .next ((s1.performBar4 p off data be).getD s)
      | _ => .next (ctlEffect i s1)

/-! ### The rows -/

/-- CLAIM (R405): any master may write it. -/
def execClaim (m : Nat) (s : State) : Res := arrive (.claim m) (ctlEffect (.claim m)) s
/-- HANDOVER (R405). -/
def execHandover (m : Nat) (v : W64) (s : State) : Res := arrive (.handover m v) (ctlEffect (.handover m v)) s
/-- SUBMIT (R341). -/
def execSubmit (m : Nat) (v : W64) (s : State) : Res := arrive (.submit m v) (ctlEffect (.submit m v)) s
/-- GANG_SUBMIT (R356). -/
def execGangSubmit (m : Nat) (v : W64) (s : State) : Res := arrive (.gangSubmit m v) (ctlEffect (.gangSubmit m v)) s
/-- SHOOT_CTL with bit 62 clear (R226). -/
def execShootCtlStart (m : Nat) (v : W64) (s : State) : Res := arrive (.shootCtlStart m v) (ctlEffect (.shootCtlStart m v)) s
/-- SHOOT_CTL with bit 62 set (R226). -/
def execShootCtlClearLost (m : Nat) (v : W64) (s : State) : Res := arrive (.shootCtlClearLost m v) (ctlEffect (.shootCtlClearLost m v)) s
/-- RESUME with act 0 (R231). -/
def execResumeRetry (m : Nat) (v : W64) (s : State) : Res := arrive (.resumeRetry m v) (ctlEffect (.resumeRetry m v)) s
/-- RESUME with act 1 (R231). -/
def execResumeFail (m : Nat) (v : W64) (s : State) : Res := arrive (.resumeFail m v) (ctlEffect (.resumeFail m v)) s
/-- RESUME with bit 63 set (R231). -/
def execResumeClearStray (m : Nat) (v : W64) (s : State) : Res := arrive (.resumeClearStray m v) (ctlEffect (.resumeClearStray m v)) s
/-- SLOT_CTL with act 1 (R366). -/
def execSlotCtlResume (m slot : Nat) (v : W64) (s : State) : Res := arrive (.slotCtlResume m slot v) (ctlEffect (.slotCtlResume m slot v)) s
/-- SLOT_CTL with act 2 (R367). -/
def execSlotCtlKill (m slot : Nat) (v : W64) (s : State) : Res := arrive (.slotCtlKill m slot v) (ctlEffect (.slotCtlKill m slot v)) s
/-- SLOT_CTL with act 3 (R366). -/
def execSlotCtlPark (m slot : Nat) (v : W64) (s : State) : Res := arrive (.slotCtlPark m slot v) (ctlEffect (.slotCtlPark m slot v)) s
/-- xQ_CFG (R310). -/
def execRingCfgWrite (m : Nat) (ring : RingName) (v : W64) (s : State) : Res :=
  arrive (.ringCfgWrite m ring v) (ctlEffect (.ringCfgWrite m ring v)) s
/-- xQ_HEAD (R310). -/
def execRingHeadWrite (m : Nat) (ring : RingName) (v : W64) (s : State) : Res :=
  arrive (.ringHeadWrite m ring v) (ctlEffect (.ringHeadWrite m ring v)) s
/-- LC_REQ with action 0 (R407). -/
def execLcReqReset (m : Nat) (v : W64) (s : State) : Res := arrive (.lcReqReset m v) (ctlEffect (.lcReqReset m v)) s
/-- LC_REQ with action 1 (R408). -/
def execLcReqAdvance (m : Nat) (v : W64) (s : State) : Res := arrive (.lcReqAdvance m v) (ctlEffect (.lcReqAdvance m v)) s
/-- LC_STATE.trip (R409). -/
def execLcStateTripClear (m : Nat) (v : W64) (s : State) : Res := arrive (.lcStateTripClear m v) (ctlEffect (.lcStateTripClear m v)) s
/-- ATTEST (R411). -/
def execAttest (m : Nat) (v : W64) (s : State) : Res := arrive (.attest m v) (ctlEffect (.attest m v)) s
/-- PWR_CAP (R412). -/
def execPwrCap (m : Nat) (v : W64) (s : State) : Res := arrive (.pwrCap m v) (ctlEffect (.pwrCap m v)) s
/-- THRESH (R233). -/
def execThresh (m die : Nat) (v : W64) (s : State) : Res := arrive (.thresh m die v) (ctlEffect (.thresh m die v)) s
/-- PERF_CTL (R336): in force from each tile's next point start. -/
def execPerfCtl (m : Nat) (v : W64) (s : State) : Res := arrive (.perfCtl m v) (ctlEffect (.perfCtl m v)) s
/-- REPLAY_CTL (R395). -/
def execReplayCtl (m : Nat) (v : W64) (s : State) : Res := arrive (.replayCtl m v) (ctlEffect (.replayCtl m v)) s
/-- QUENCH_CTL (R389). -/
def execQuenchCtl (m : Nat) (v : W64) (s : State) : Res := arrive (.quenchCtl m v) (ctlEffect (.quenchCtl m v)) s
/-- TEMPER (R392). -/
def execTemper (m : Nat) (v : W64) (s : State) : Res := arrive (.temper m v) (ctlEffect (.temper m v)) s
/-- BLAZE_CTL (R393). -/
def execBlazeCtl (m : Nat) (v : W64) (s : State) : Res := arrive (.blazeCtl m v) (ctlEffect (.blazeCtl m v)) s
/-- CONTROL_WRITE (R403): a write of the bytes bs at an offset; a register with a row of its own has that row's effect, and a
write that is not of 8 bytes is ignored. -/
def execControlWrite (m off : Nat) (bs : List Byte) (s : State) : Res :=
  if bs.length ≠ 8 then .next s
  else match rowAt m off (BitVec.ofNat 64 (ofBytes bs)) with
    | some i => arrive i (ctlEffect i) s
    | none => arrive (.controlWrite m off bs) (ctlEffect (.controlWrite m off bs)) s

/-! ### Reads (R403) -/

/-- The registers of a ring set (Table 16-2). -/
def Ring.readReg (r : Ring) (i : Nat) : Nat :=
  match i with
  | 0 => r.base.toNat
  | 1 => ofBool r.en * 2 ^ 63 + r.vec.toNat * 2 ^ 8 + r.lg.toNat
  | 2 => r.tail.toNat
  | 3 => r.head.toNat
  | _ => ofBool r.ovf * 2 ^ 63 + r.drop.toNat

/-- SLOT_STAT and SLOT_TRAP of a slot (Table 19-2). -/
def State.readSlot (s : State) (slot i : Nat) : Nat :=
  let why := (Tab.get? slot s.ctl.why).getD 0
  match s.launch? slot, i with
  | some l, 0 => l.state + why * 2 ^ 8 + l.ntrap % 2 ^ 16 * 2 ^ 16
  | none, 0 => why * 2 ^ 8
  | _, 1 => (Tab.get? slot s.ctl.slotTrap).getD 0
  | _, _ => 0

/-- A register of the control block. -/
def Ctl.readReg (c : Ctl) (m off : Nat) : Nat :=
  if off = 0x08 then c.owner.toNat
  else if off = 0x18 then c.abortCnt.toNat * 2 ^ 32 + c.denied.toNat
  else if off = 0x110 then (match c.modnum with | some n => n.toNat | none => 0)
  else if off = 0x118 then (match c.attestPA with | some a => a.toNat | none => 0)
  else if off = 0x120 then ofBool c.attestDone + ofBool c.recovery * 2 ^ 63
  else if off = 0x200 then c.pwrCap.toNat
  else if off = 0x208 then c.clkMHz.toNat + ofBool c.hot * 2 ^ 16
  else if off = 0x1000 then c.ctxBase.toNat
  else if off = 0x1008 then (Assoc.get 0 0 c.bar2Ctx).toNat
  else if off = 0x1010 then (Assoc.get 0 1 c.bar2Ctx).toNat
  else if off = 0x1018 then (Assoc.get 0 0 c.bar2Va).toNat
  else if off = 0x1020 then (Assoc.get 0 1 c.bar2Va).toNat
  else if off = 0x1028 then c.shootVa.toNat
  else if off = 0x1030 then ofBool c.shootBusy * 2 ^ 63 + ofBool c.shootLost * 2 ^ 62 + c.shootScope.toNat * 2 ^ 16 + c.shootCtx.toNat
  else if off = 0x1038 then ofBool c.resumeStray * 2 ^ 63
  else if off = 0x2000 then (Assoc.get 0 m c.submitCtx).toNat
  else if off = 0x4000 then c.perfCtl.toNat
  else if off = 0x4008 then c.trapVec.toNat
  else if off = 0x4010 then c.replayMode.toNat
  else if off = 0x4018 then ofBool c.replayDiv * 2 ^ 63 + c.replayIdx.toNat
  else if 0x5000 ≤ off && off ≤ 0x5040 && off % 8 = 0 then (Assoc.get 0 ((off - 0x5000) / 8) c.dbgInit).toNat
  else if off = 0x5048 then c.quenchCyc.toNat
  else if off = 0x5050 then c.quenchMask.toNat
  else if off = 0x5058 then c.quenchDump.toNat
  else if off = 0x5060 then ofBool c.quenchBusy * 2 ^ 62
  else if off = 0x5070 then c.blazeCtl.toNat
  else if off = 0x5078 then c.blazeEn.toNat
  else if off = 0x5080 then c.blazeDump.toNat
  else if 0x30000 ≤ off && off < 0x30090 && off % 8 = 0 then (Assoc.get 0 ((off - 0x30000) / 8) c.links).toNat
  else 0

/-- The registers of a transfer die: THRESH, UNDO_BASE, UNDO_CNT (Table 17-5). -/
def Die.readReg (x : Die) (i : Nat) : Nat :=
  match i with
  | 0 => x.thresh.toNat
  | 1 => x.undoBase.toNat
  | 2 => x.undoIval.toNat * 2 ^ 32 + ofBool x.undoEarly * 2 ^ 31 + x.undoUsed % 2 ^ 31
  | _ => 0

/-- What master m reads at an aligned offset of control space: every master may read all of it (R403, R404); in recovery only CLAIM,
OWNER, LC_STATE and ATTEST_STAT answer (R410). -/
def State.readReg (s : State) (m off : Nat) : W64 :=
  if off % 8 ≠ 0 || (s.ctl.recovery && !(off = 0x00 || off = 0x08 || off = 0x100 || off = 0x120)) then 0
  else if off = 0x100 then BitVec.ofNat 64 s.lcWord
  else if 0x3000 ≤ off && off < 0x3100 && off % 64 ≤ 32 then BitVec.ofNat 64 ((s.ring (ringAt (off % 256 / 64))).readReg (off % 64 / 8))
  else if 0x10000 ≤ off && off < 0x10800 then BitVec.ofNat 64 ((s.die ((off - 0x10000) / 256)).readReg (off % 256 / 8))
  else if 0x20000 ≤ off && off < 0x21000 then BitVec.ofNat 64 (s.readSlot ((off - 0x20000) / 64) (off % 64 / 8))
  else BitVec.ofNat 64 (s.ctl.readReg m off)

/-- What master m reads with an access of n bytes at an offset: a register whole, and 0 where the access is not of 8 bytes (R403). -/
def State.readControl (s : State) (m off n : Nat) : List Byte := if n = 8 then toBytes 8 (s.readReg m off).toNat else zeros n

end Sys2Proof.Machine
end

