-- ==== Sys2Proof/Machine/Dispatch.lean ====
section
/-! DEFINITION. One arm per instruction: each calls its meaning. -/

namespace Sys2Proof.Machine

/-- The effect of one row of the opcode table on a state. -/
def exec (i : Instr) (s : State) : Host.Outcome State Fault Refusal :=
  match i with
  | .add g f => Sys2Proof.Machine.execAdd g f s
  | .addi g f => Sys2Proof.Machine.execAddi g f s
  | .sub g f => Sys2Proof.Machine.execSub g f s
  | .mul g f => Sys2Proof.Machine.execMul g f s
  | .muli g f => Sys2Proof.Machine.execMuli g f s
  | .mulh g f => Sys2Proof.Machine.execMulh g f s
  | .mulhn g f => Sys2Proof.Machine.execMulhn g f s
  | .div g f => Sys2Proof.Machine.execDiv g f s
  | .divn g f => Sys2Proof.Machine.execDivn g f s
  | .rem g f => Sys2Proof.Machine.execRem g f s
  | .remn g f => Sys2Proof.Machine.execRemn g f s
  | .and g f => Sys2Proof.Machine.execAnd g f s
  | .andi g f => Sys2Proof.Machine.execAndi g f s
  | .or g f => Sys2Proof.Machine.execOr g f s
  | .ori g f => Sys2Proof.Machine.execOri g f s
  | .xor g f => Sys2Proof.Machine.execXor g f s
  | .xori g f => Sys2Proof.Machine.execXori g f s
  | .andn g f => Sys2Proof.Machine.execAndn g f s
  | .shl g f => Sys2Proof.Machine.execShl g f s
  | .shli g f => Sys2Proof.Machine.execShli g f s
  | .shr g f => Sys2Proof.Machine.execShr g f s
  | .shri g f => Sys2Proof.Machine.execShri g f s
  | .sar g f => Sys2Proof.Machine.execSar g f s
  | .sari g f => Sys2Proof.Machine.execSari g f s
  | .rol g f => Sys2Proof.Machine.execRol g f s
  | .roli g f => Sys2Proof.Machine.execRoli g f s
  | .min g f => Sys2Proof.Machine.execMin g f s
  | .minn g f => Sys2Proof.Machine.execMinn g f s
  | .max g f => Sys2Proof.Machine.execMax g f s
  | .maxn g f => Sys2Proof.Machine.execMaxn g f s
  | .clz g f => Sys2Proof.Machine.execClz g f s
  | .ctz g f => Sys2Proof.Machine.execCtz g f s
  | .popc g f => Sys2Proof.Machine.execPopc g f s
  | .bfx g f => Sys2Proof.Machine.execBfx g f s
  | .bfi g f => Sys2Proof.Machine.execBfi g f s
  | .sel g f => Sys2Proof.Machine.execSel g f s
  | .movi g f => Sys2Proof.Machine.execMovi g f s
  | .movhi g f => Sys2Proof.Machine.execMovhi g f s
  | .cmp g f => Sys2Proof.Machine.execCmp g f s
  | .cmpi g f => Sys2Proof.Machine.execCmpi g f s
  | .plog g f => Sys2Proof.Machine.execPlog g f s
  | .pmovPack g f => Sys2Proof.Machine.execPmovPack g f s
  | .pmovUnpack g f => Sys2Proof.Machine.execPmovUnpack g f s
  | .br g f => Sys2Proof.Machine.execBr g f s
  | .brx g f => Sys2Proof.Machine.execBrx g f s
  | .call g f => Sys2Proof.Machine.execCall g f s
  | .ret g f => Sys2Proof.Machine.execRet g f s
  | .lrec g f => Sys2Proof.Machine.execLrec g f s
  | .loop g f => Sys2Proof.Machine.execLoop g f s
  | .lfor g f => Sys2Proof.Machine.execLfor g f s
  | .lnext g f => Sys2Proof.Machine.execLnext g f s
  | .lidx g f => Sys2Proof.Machine.execLidx g f s
  | .pfld g f => Sys2Proof.Machine.execPfld g f s
  | .pfldW g f => Sys2Proof.Machine.execPfldW g f s
  | .halt g f => Sys2Proof.Machine.execHalt g f s
  | .trap g f => Sys2Proof.Machine.execTrap g f s
  | .nop g f => Sys2Proof.Machine.execNop g f s
  | .sld g f => Sys2Proof.Machine.execSld g f s
  | .sst g f => Sys2Proof.Machine.execSst g f s
  | .crd g f => Sys2Proof.Machine.execCrd g f s
  | .cwr g f => Sys2Proof.Machine.execCwr g f s
  | .tmark g f => Sys2Proof.Machine.execTmark g f s
  | .lset g f => Sys2Proof.Machine.execLset g f s
  | .lget g f => Sys2Proof.Machine.execLget g f s
  | .rinit g f => Sys2Proof.Machine.execRinit g f s
  | .racq g f => Sys2Proof.Machine.execRacq g f s
  | .rrel g f => Sys2Proof.Machine.execRrel g f s
  | .rrelComplete tile ring slot => Sys2Proof.Machine.execRrelComplete tile ring slot s
  | .launch g f => Sys2Proof.Machine.execLaunch g f s
  | .sems g f => Sys2Proof.Machine.execSems g f s
  | .semw g f => Sys2Proof.Machine.execSemw g f s
  | .semr g f => Sys2Proof.Machine.execSemr g f s
  | .semsEngine e g f => Sys2Proof.Machine.execSemsEngine e g f s
  | .semwEngine e g f => Sys2Proof.Machine.execSemwEngine e g f s
  | .wpop g f => Sys2Proof.Machine.execWpop g f s
  | .cyc g f => Sys2Proof.Machine.execCyc g f s
  | .fence g f => Sys2Proof.Machine.execFence g f s
  | .fenceEngine e g f => Sys2Proof.Machine.execFenceEngine e g f s
  | .xfence g f => Sys2Proof.Machine.execXfence g f s
  | .ifence g f => Sys2Proof.Machine.execIfence g f s
  | .drain g f => Sys2Proof.Machine.execDrain g f s
  | .vadd g f => Sys2Proof.Machine.execVadd g f s
  | .vaddi g f => Sys2Proof.Machine.execVaddi g f s
  | .vsub g f => Sys2Proof.Machine.execVsub g f s
  | .vadds g f => Sys2Proof.Machine.execVadds g f s
  | .vsubs g f => Sys2Proof.Machine.execVsubs g f s
  | .vmul g f => Sys2Proof.Machine.execVmul g f s
  | .vmulh g f => Sys2Proof.Machine.execVmulh g f s
  | .vmad g f => Sys2Proof.Machine.execVmad g f s
  | .vmin g f => Sys2Proof.Machine.execVmin g f s
  | .vmax g f => Sys2Proof.Machine.execVmax g f s
  | .vabs g f => Sys2Proof.Machine.execVabs g f s
  | .vand g f => Sys2Proof.Machine.execVand g f s
  | .vor g f => Sys2Proof.Machine.execVor g f s
  | .vxor g f => Sys2Proof.Machine.execVxor g f s
  | .vandn g f => Sys2Proof.Machine.execVandn g f s
  | .vshl g f => Sys2Proof.Machine.execVshl g f s
  | .vshr g f => Sys2Proof.Machine.execVshr g f s
  | .vsar g f => Sys2Proof.Machine.execVsar g f s
  | .vclz g f => Sys2Proof.Machine.execVclz g f s
  | .vpopc g f => Sys2Proof.Machine.execVpopc g f s
  | .vfadd g f => Sys2Proof.Machine.execVfadd g f s
  | .vfsub g f => Sys2Proof.Machine.execVfsub g f s
  | .vfmul g f => Sys2Proof.Machine.execVfmul g f s
  | .vfma g f => Sys2Proof.Machine.execVfma g f s
  | .vfnma g f => Sys2Proof.Machine.execVfnma g f s
  | .vfmin g f => Sys2Proof.Machine.execVfmin g f s
  | .vfmax g f => Sys2Proof.Machine.execVfmax g f s
  | .vfabs g f => Sys2Proof.Machine.execVfabs g f s
  | .vfneg g f => Sys2Proof.Machine.execVfneg g f s
  | .vfrcp g f => Sys2Proof.Machine.execVfrcp g f s
  | .vfrsq g f => Sys2Proof.Machine.execVfrsq g f s
  | .vfsqrt g f => Sys2Proof.Machine.execVfsqrt g f s
  | .vfdiv g f => Sys2Proof.Machine.execVfdiv g f s
  | .vfexp2 g f => Sys2Proof.Machine.execVfexp2 g f s
  | .vflog2 g f => Sys2Proof.Machine.execVflog2 g f s
  | .vftanh g f => Sys2Proof.Machine.execVftanh g f s
  | .vfexpo g f => Sys2Proof.Machine.execVfexpo g f s
  | .longLatencyComplete tile k => Sys2Proof.Machine.execLongLatencyComplete tile k s
  | .vcmp g f => Sys2Proof.Machine.execVcmp g f s
  | .vcmpi g f => Sys2Proof.Machine.execVcmpi g f s
  | .vfcmp g f => Sys2Proof.Machine.execVfcmp g f s
  | .vfclass g f => Sys2Proof.Machine.execVfclass g f s
  | .vcvt g f => Sys2Proof.Machine.execVcvt g f s
  | .vfcvt g f => Sys2Proof.Machine.execVfcvt g f s
  | .vqnt g f => Sys2Proof.Machine.execVqnt g f s
  | .vdqnt g f => Sys2Proof.Machine.execVdqnt g f s
  | .vmov g f => Sys2Proof.Machine.execVmov g f s
  | .vbcst g f => Sys2Proof.Machine.execVbcst g f s
  | .viota g f => Sys2Proof.Machine.execViota g f s
  | .vperm g f => Sys2Proof.Machine.execVperm g f s
  | .vrmrg g f => Sys2Proof.Machine.execVrmrg g f s
  | .vsel g f => Sys2Proof.Machine.execVsel g f s
  | .vtog g f => Sys2Proof.Machine.execVtog g f s
  | .vtogComplete tile k => Sys2Proof.Machine.execVtogComplete tile k s
  | .vred g f => Sys2Proof.Machine.execVred g f s
  | .vfred g f => Sys2Proof.Machine.execVfred g f s
  | .vscan g f => Sys2Proof.Machine.execVscan g f s
  | .vfscan g f => Sys2Proof.Machine.execVfscan g f s
  | .vspcmp g f => Sys2Proof.Machine.execVspcmp g f s
  | .vspexp g f => Sys2Proof.Machine.execVspexp g f s
  | .vplog g f => Sys2Proof.Machine.execVplog g f s
  | .vpcnt g f => Sys2Proof.Machine.execVpcnt g f s
  | .vpfind g f => Sys2Proof.Machine.execVpfind g f s
  | .vpmov g f => Sys2Proof.Machine.execVpmov g f s
  | .vld g f => Sys2Proof.Machine.execVld g f s
  | .vldx g f => Sys2Proof.Machine.execVldx g f s
  | .vldb g f => Sys2Proof.Machine.execVldb g f s
  | .pld g f => Sys2Proof.Machine.execPld g f s
  | .vfeed g f => Sys2Proof.Machine.execVfeed g f s
  | .scld g f => Sys2Proof.Machine.execScld g f s
  | .vst g f => Sys2Proof.Machine.execVst g f s
  | .vstx g f => Sys2Proof.Machine.execVstx g f s
  | .pst g f => Sys2Proof.Machine.execPst g f s
  | .vstc g f => Sys2Proof.Machine.execVstc g f s
  | .queuePush tile cslot => Sys2Proof.Machine.execQueuePush tile cslot s
  | .mzero g f => Sys2Proof.Machine.execMzero g f s
  | .mma g f => Sys2Proof.Machine.execMma g f s
  | .mmas g f => Sys2Proof.Machine.execMmas g f s
  | .mmaStep tile => Sys2Proof.Machine.execMmaStep tile s
  | .mdrain g f => Sys2Proof.Machine.execMdrain g f s
  | .mdrainRegisterFull tile k => Sys2Proof.Machine.execMdrainRegisterFull tile k s
  | .mload g f => Sys2Proof.Machine.execMload g f s
  | .xcopy g f => Sys2Proof.Machine.execXcopy g f s
  | .xgath g f => Sys2Proof.Machine.execXgath g f s
  | .xscat g f => Sys2Proof.Machine.execXscat g f s
  | .xtran g f => Sys2Proof.Machine.execXtran g f s
  | .xconv g f => Sys2Proof.Machine.execXconv g f s
  | .xmcst g f => Sys2Proof.Machine.execXmcst g f s
  | .xred g f => Sys2Proof.Machine.execXred g f s
  | .xatom g f => Sys2Proof.Machine.execXatom g f s
  | .xapnd g f => Sys2Proof.Machine.execXapnd g f s
  | .xsig g f => Sys2Proof.Machine.execXsig g f s
  | .xwait g f => Sys2Proof.Machine.execXwait g f s
  | .xpref g f => Sys2Proof.Machine.execXpref g f s
  | .xcomp g f => Sys2Proof.Machine.execXcomp g f s
  | .xmrg g f => Sys2Proof.Machine.execXmrg g f s
  | .xsnap g f => Sys2Proof.Machine.execXsnap g f s
  | .xhdr g f => Sys2Proof.Machine.execXhdr g f s
  | .xtld g f => Sys2Proof.Machine.execXtld g f s
  | .xfst g f => Sys2Proof.Machine.execXfst g f s
  | .sectionForward tile => Sys2Proof.Machine.execSectionForward tile s
  | .sectionStart tile e => Sys2Proof.Machine.execSectionStart tile e s
  | .commandAccept tile => Sys2Proof.Machine.execCommandAccept tile s
  | .elementPerform tile cslot => Sys2Proof.Machine.execElementPerform tile cslot s
  | .faultRecordEnter die => Sys2Proof.Machine.execFaultRecordEnter die s
  | .migrationRewalk who => Sys2Proof.Machine.execMigrationRewalk who s
  | .commandRetire tile => Sys2Proof.Machine.execCommandRetire tile s
  | .writeQueueOperation die k => Sys2Proof.Machine.execWriteQueueOperation die k s
  | .writeQueueDrain die line => Sys2Proof.Machine.execWriteQueueDrain die line s
  | .eccCorrected line => Sys2Proof.Machine.execEccCorrected line s
  | .uncorrectableSoftError site => Sys2Proof.Machine.execUncorrectableSoftError site s
  | .shootdownAck die => Sys2Proof.Machine.execShootdownAck die s
  | .bar2Write m off data => Sys2Proof.Machine.execBar2Write m off data s
  | .bar2Read m off len => Sys2Proof.Machine.execBar2Read m off len s
  | .bar4Write m off data be => Sys2Proof.Machine.execBar4Write m off data be s
  | .bar4Read m off len => Sys2Proof.Machine.execBar4Read m off len s
  | .orderingPointRelease k => Sys2Proof.Machine.execOrderingPointRelease k s
  | .claim m => Sys2Proof.Machine.execClaim m s
  | .handover m v => Sys2Proof.Machine.execHandover m v s
  | .submit m v => Sys2Proof.Machine.execSubmit m v s
  | .gangSubmit m v => Sys2Proof.Machine.execGangSubmit m v s
  | .shootCtlStart m v => Sys2Proof.Machine.execShootCtlStart m v s
  | .shootCtlClearLost m v => Sys2Proof.Machine.execShootCtlClearLost m v s
  | .resumeRetry m v => Sys2Proof.Machine.execResumeRetry m v s
  | .resumeFail m v => Sys2Proof.Machine.execResumeFail m v s
  | .resumeClearStray m v => Sys2Proof.Machine.execResumeClearStray m v s
  | .slotCtlResume m slot v => Sys2Proof.Machine.execSlotCtlResume m slot v s
  | .slotCtlKill m slot v => Sys2Proof.Machine.execSlotCtlKill m slot v s
  | .slotCtlPark m slot v => Sys2Proof.Machine.execSlotCtlPark m slot v s
  | .ringCfgWrite m ring v => Sys2Proof.Machine.execRingCfgWrite m ring v s
  | .ringHeadWrite m ring v => Sys2Proof.Machine.execRingHeadWrite m ring v s
  | .lcReqReset m v => Sys2Proof.Machine.execLcReqReset m v s
  | .lcReqAdvance m v => Sys2Proof.Machine.execLcReqAdvance m v s
  | .lcStateTripClear m v => Sys2Proof.Machine.execLcStateTripClear m v s
  | .attest m v => Sys2Proof.Machine.execAttest m v s
  | .pwrCap m v => Sys2Proof.Machine.execPwrCap m v s
  | .thresh m die v => Sys2Proof.Machine.execThresh m die v s
  | .perfCtl m v => Sys2Proof.Machine.execPerfCtl m v s
  | .replayCtl m v => Sys2Proof.Machine.execReplayCtl m v s
  | .quenchCtl m v => Sys2Proof.Machine.execQuenchCtl m v s
  | .temper m v => Sys2Proof.Machine.execTemper m v s
  | .blazeCtl m v => Sys2Proof.Machine.execBlazeCtl m v s
  | .controlWrite m off bs => Sys2Proof.Machine.execControlWrite m off bs s
  | .launchSlotFree slot => Sys2Proof.Machine.execLaunchSlotFree slot s
  | .listLaunchStart slot tiles => Sys2Proof.Machine.execListLaunchStart slot tiles s
  | .pointFire slot tile => Sys2Proof.Machine.execPointFire slot tile s
  | .pointStart tile => Sys2Proof.Machine.execPointStart tile s
  | .pointComplete tile => Sys2Proof.Machine.execPointComplete tile s
  | .clearing slot => Sys2Proof.Machine.execClearing slot s
  | .workListDeadlock slot => Sys2Proof.Machine.execWorkListDeadlock slot s
  | .contextSave slot => Sys2Proof.Machine.execContextSave slot s
  | .contextRestore k tile => Sys2Proof.Machine.execContextRestore k tile s
  | .checkpointMark => Sys2Proof.Machine.execCheckpointMark s
  | .prepare gang => Sys2Proof.Machine.execPrepare gang s
  | .ready gang member => Sys2Proof.Machine.execReady gang member s
  | .refuse gang member => Sys2Proof.Machine.execRefuse gang member s
  | .commit gang => Sys2Proof.Machine.execCommit gang s
  | .abort gang => Sys2Proof.Machine.execAbort gang s
  | .gangPrepareTimeout gang => Sys2Proof.Machine.execGangPrepareTimeout gang s
  | .gangMemberLost gang member => Sys2Proof.Machine.execGangMemberLost gang member s
  | .mark gang => Sys2Proof.Machine.execMark gang s
  | .marked gang member => Sys2Proof.Machine.execMarked gang member s
  | .gangResume gang => Sys2Proof.Machine.execGangResume gang s
  | .blazeMarker die link => Sys2Proof.Machine.execBlazeMarker die link s
  | .quenchEdge => Sys2Proof.Machine.execQuenchEdge s
  | .temperRestart => Sys2Proof.Machine.execTemperRestart s
  | .inflightWrite tile k => Sys2Proof.Machine.execInflightWrite tile k s
  | .powerOn => Sys2Proof.Machine.execPowerOn s
  | .perst port => Sys2Proof.Machine.execPerst port s
  | .functionLevelReset port => Sys2Proof.Machine.execFunctionLevelReset port s
  | .clockStep => Sys2Proof.Machine.execClockStep s
  | .thermalThrottle die => Sys2Proof.Machine.execThermalThrottle die s
  | .thermalTrip die => Sys2Proof.Machine.execThermalTrip die s
  | .linkDown link => Sys2Proof.Machine.execLinkDown link s
  | .linkUp link peer => Sys2Proof.Machine.execLinkUp link peer s
  | .scheduleCycleTick => Sys2Proof.Machine.execScheduleCycleTick s
  | .powerOff => Sys2Proof.Machine.execPowerOff s
  | .wipeEnd => Sys2Proof.Machine.execWipeEnd s
  | .thermalRelease => Sys2Proof.Machine.execThermalRelease s
  | .attestationReport => Sys2Proof.Machine.execAttestationReport s
  | .gangCompletion gang member => Sys2Proof.Machine.execGangCompletion gang member s
  | .remotePageAccess link pa data len => Sys2Proof.Machine.execRemotePageAccess link pa data len s
  | .completionTimeout tile cslot => Sys2Proof.Machine.execCompletionTimeout tile cslot s

end Sys2Proof.Machine
end

