-- ==== Sys2Proof/Machine/Copies.lean ====
section
/-! DEFINITION. Older contents that a party may still read (R291 to R296, log 4): what an item of the agenda writes marks what has been
kept of those bytes, and what it reads ends what another would read before it. -/

namespace Sys2Proof.Machine

/-- The S word at PC, where the S engine is inside a section. -/
def Tile.sWordAt (x : Tile) : Option Instr := if x.sIn then decodeRaw (x.standing.getD (x.slotAt x.pc.toNat)) else none

/-- The class of the ordinary access of an S word: of a load, and of a store. -/
def sLoadClass? : Option Instr → Option Nat
  | some (.sld _ f) => some f.cls.toNat
  | _ => none
def sStoreClass? : Option Instr → Option Nat
  | some (.sst _ f) => some f.cls.toNat
  | _ => none

/-- The mark of what engine e of tile t writes at its next turn. -/
def Tile.runMark (x : Tile) (t : Nat) (e : Engine) : CopyMark :=
  if e = .S then { party := ordParty t, key := x.posOf x.nowSeq .S, cls := (sStoreClass? x.sWordAt).getD 16 }
  else match x.nextWord t e with
    | some (i, w) => { party := ordParty t, key := x.posOf i.seq e, cls := (w.vmClass? e).getD 16 }
    | none => { party := ordParty t, key := 0 }

/-- A row write of the tile's ordinary domain that a quench has found on its way, or that software has put into a dump (R288, R390). -/
def InFlight.rowMark (i : InFlight) (t : Nat) : CopyMark :=
  match i.row with
  | some (pos, cls) => { party := ordParty t, key := pos, cls := cls }
  | none => { party := ordParty t, key := 0 }

/-- Who writes in an item of the agenda (Table 15-1). -/
def State.writerIn (s : State) (a : Act) : CopyMark :=
  let other : CopyMark := { party := otherParty, key := 0 }
  let cmd (t c : Nat) : CopyMark := { party := chanParty t, key := match (s.tile t).cmd? c with | some d => d.word.cap.q | none => 0 }
  match a with
  | .run t e | .runLate t e => (s.tile t).runMark t e
  | .perform t k => match (s.tile t).rowsOut[k]? with
    | some r => { party := ordParty t, key := r.pos, cls := r.cls }
    | none => other
  | .event (.inflightWrite t k) => match (s.tile t).inflight[k]? with
    | some i => if i.kind == .entry 5 then i.rowMark t else other
    | none => other
  | .event (.elementPerform t c) | .event (.migrationRewalk (.command t c)) => cmd t c
  | .event (.writeQueueOperation d k) => match (s.die d).wqIn[k]? with
    | some o => { party := chanParty o.tile, key := o.q }
    | none => other
  | .event (.bar2Write m _ _) => { party := hostParty m, key := s.hostNum }
  | .event (.migrationRewalk (.host k)) => match s.posted[k]? with
    | some p => { party := hostParty p.m, key := p.num }
    | none => other
  | _ => other

/-! ### Readers -/

/-- The reader of a copy that tile t keeps. -/
def OldCopy.reader (c : OldCopy) (t : Nat) : Reader := if c.chan then .channel t else .ordinary t

/-- Two readers belong to one party, which observes the writes to a location in one order: the channels do (R292, Table 15-1). -/
def Reader.together : Reader → Reader → Bool
  | .ordinary t, .ordinary u => t == u
  | .channel _, .channel _ => true
  | .host, .host => true
  | _, _ => false

/-- What a party writes in an item it does not read as it was before: the channel's commands and the hosts (R247, R292). The ordinary
domain orders its own accesses by their classes. -/
def Reader.wrote (r : Reader) (w : CopyMark) : Bool :=
  match r with
  | .ordinary _ => false
  | .channel t => w.party == chanParty t
  | .host => 4096 ≤ w.party && w.party < otherParty

/-- The reader in an item, and which of the contents it has kept that reader may find there. -/
def State.readerIn (s : State) (a : Act) : Option (Reader × (OldCopy → Bool)) :=
  let chan (t c : Nat) : Option (Reader × (OldCopy → Bool)) :=
    ((s.tile t).cmd? c).map fun d => (.channel t, fun o => o.chan && !o.endedFor .X d.word.cap.q)
  match a with
  | .run t .L | .runLate t .L => match (s.tile t).nextWord t .L with
    | some (i, w) => (w.vmClass? .L).map fun cls =>
        (.ordinary t, fun o => !o.chan && (s.tile t).mayFind t .L cls ((s.tile t).posOf i.seq .L) o)
    | none => none
  | .run t .S | .runLate t .S => (sLoadClass? (s.tile t).sWordAt).map fun cls =>
      (.ordinary t, fun o => !o.chan && (s.tile t).mayFind t .S cls ((s.tile t).posOf (s.tile t).nowSeq .S) o)
  | .event (.elementPerform t c) | .event (.migrationRewalk (.command t c)) => chan t c
  | .event (.commandAccept t) => match (s.tile t).chan.find? fun c => !c.accepted && !c.void with
    | some c => chan t c.cslot
    | none => none
  | .event (.writeQueueOperation d k) => ((s.die d).wqIn[k]?).map fun o => (.channel o.tile, fun _ => false)
  | .event (.bar2Read _ _ _) => some (.host, fun _ => true)
  | _ => none

/-- The contents a reader has kept, oldest first. -/
def State.copiesOf (s : State) (r : Reader) : List OldCopy :=
  match r with
  | .ordinary t => (s.tile t).copies.filter fun c => !c.chan
  | .channel t => (s.tile t).copies.filter fun c => c.chan
  | .host => s.hostOld

/-- How old are the contents that a read finds where it meets a key: the oldest that it may find of those that name every byte of the key it
reads, or the present ones. -/
def foundAt (finds : List OldCopy) (key : Nat × Nat) (w : Trail) (now : Nat) : Nat :=
  let (_, a, n) := keySpan key
  let part : Trail := { w with at_ := max a w.at_, n := min (a + n) (w.at_ + w.n) - max a w.at_ }
  match finds.find? fun c => !w.now && part.inside c.key with
  | some c => c.num
  | none => now

/-- Contents that are kept through an item: not where its reader, or another of its party, has read what is newer, unless that reader
may still find them by another way (R292). -/
def keptAfter (reads : List Trail) (finds : List OldCopy) (now : Nat) (mine : Bool) (c : OldCopy) : Bool :=
  (mine && finds.contains c) ||
    reads.all fun w => !w.meets c.key || c.marks.all fun m => decide (foundAt finds c.key w now ≤ m.num)

/-- What is kept of some bytes, after an item has led from s to s': marked where they were written, and no longer kept where the reader's
own party has written them, or where a unit of R291 was written over a part of it. -/
def State.markOld (s s' : State) (w : CopyMark) (r : Reader) (c : OldCopy) : Option OldCopy :=
  let ws := s'.trail.filter fun t => t.write && t.meets c.key
  if ws.isEmpty && s.keyBytes c.key == s'.keyBytes c.key then some c
  else if r.wrote w then none
  else if ws.any fun t => t.whole && !t.inside c.key then none
  else some { c with marks := c.marks ++ [w] }

/-- The older contents that are kept, after an item has led from s to s'. -/
def State.noteCopies (s : State) (a : Act) (s' : State) : State :=
  if s'.hostOld.isEmpty && s'.tiles.all fun p => p.2.copies.isEmpty then s'
  else
    let w := { s.writerIn a with num := s.stamp }
    let reads := s'.trail.filter fun t => !t.write
    let keep (r : Reader) (c : OldCopy) : Bool :=
      match s.readerIn a with
      | none => true
      | some (q, may) => !q.together r || keptAfter reads ((s.copiesOf q).filter may) s.stamp (q == r) c
    let go (r : OldCopy → Reader) (l : List OldCopy) : List OldCopy :=
      (l.filter fun c => keep (r c) c).filterMap fun c => s.markOld s' w (r c) c
    let s1 := s'.tiles.foldl (fun s1 p =>
      if p.2.copies.isEmpty then s1 else s1.setTile p.1 { p.2 with copies := go (fun c => c.reader p.1) p.2.copies }) s'
    { s1 with hostOld := go (fun _ => .host) s'.hostOld, stamp := s.stamp + 1 }

/-- Bytes that a reader may keep: the ordinary domain a row of its own tile that holds no semaphore, a channel any such row, or bytes of
module, host or far memory, a host those of memory (Table 15-1). -/
def keepable (r : Reader) (key : Nat × Nat) : Bool :=
  let (space, a, n) := keySpan key
  let row := space == 0 && n == 256 && 1024 ≤ a % 2 ^ 22 && a / 2 ^ 22 < Config.numTiles
  let memory := (space == 1 && a + n ≤ Config.memBytes) || space == 2 || space == 3 || (16 ≤ space && space < 16 + 2 ^ 16)
  key.1 / 2 ^ 20 ≤ 4 && match r with
    | .ordinary t => row && a / 2 ^ 22 == t
    | .channel _ => row || memory
    | .host => memory

/-- A reader keeps the present contents of some bytes, which it may go on reading, behind the older ones that it has. -/
def State.keepOld (s : State) (r : Reader) (key : Nat × Nat) : State :=
  if !keepable r key then s
  else
    let c (chan : Bool) : OldCopy := { chan := chan, key := key, bytes := s.keyBytes key, num := s.stamp }
    match r with
    | .ordinary t => s.setTile t { s.tile t with copies := (s.tile t).copies ++ [c false] }
    | .channel t => s.setTile t { s.tile t with copies := (s.tile t).copies ++ [c true] }
    | .host => { s with hostOld := s.hostOld ++ [c false] }

/-- A reader drops the oldest contents that it has kept of some bytes. -/
def State.dropCopy (s : State) (r : Reader) (key : Nat × Nat) : State :=
  match r with
  | .ordinary t => s.setTile t { s.tile t with copies := dropOld false key (s.tile t).copies }
  | .channel t => s.setTile t { s.tile t with copies := dropOld true key (s.tile t).copies }
  | .host => { s with hostOld := dropOld false key s.hostOld }

end Sys2Proof.Machine
end

