-- ==== Sys2Proof/Machine/Loader.lean ====
section
/-! DEFINITION. Launch images and their loader, the driver or Yelsutor (R83, R84): the checks of an image, its relocations, and its
segments placed in device virtual memory at the addresses the loader has chosen. -/

namespace Sys2Proof.Machine

/-- A directory entry (Table 04-5). -/
structure SegEntry where
  kind : Nat
  off : Nat
  size : Nat
  arg : Nat
  deriving DecidableEq, Repr

/-- The limits of a directory entry (Table 04-5): code rows whole, a layout table of at most 256 entries, a ring table of at most 16, a
launch header of 128 bytes, and an argument only for code rows. -/
def SegEntry.ok (e : SegEntry) : Bool :=
  (e.kind == 1 || e.arg == 0) &&
  match e.kind with
  | 1 => e.size % 256 == 0
  | 2 => e.size % 64 == 0 && e.size ≤ 16384
  | 3 => e.size % 16 == 0 && e.size ≤ 256
  | 4 => e.size == 128
  | _ => true

/-- n bytes of an image from offset a. -/
def imgCut (img : List Byte) (a n : Nat) : List Byte := (img.drop a).take n

/-- The directory: 32-byte entries from offset 64, as many as the header's count (Table 04-4). -/
def imageDir (img : List Byte) : List SegEntry :=
  (List.range (ofBytes (imgCut img 6 2))).map fun i =>
    let a := 64 + 32 * i
    { kind := ofBytes (imgCut img a 2), off := ofBytes (imgCut img (a + 8) 8), size := ofBytes (imgCut img (a + 16) 8), arg := ofBytes (imgCut img (a + 24) 8) }

/-- The bytes of an entry. DESIGN CHOICE (log 55): one that runs past the end of the image is cut short there. -/
def SegEntry.bytes (img : List Byte) (e : SegEntry) : List Byte := imgCut img e.off e.size

/-- The first entry of a kind. -/
def segOf (dir : List SegEntry) (kind : Nat) : Option SegEntry := dir.find? fun e => e.kind == kind

/-- A relocation: the kind of the segment that holds the field, the kind of the one whose load address is added, and the field's byte
offset. -/
structure Reloc where
  fld : Nat
  tgt : Nat
  off : Nat
  deriving DecidableEq, Repr

/-- The relocations of a segment of kind 7: 16 bytes each. -/
def relocsIn (bs : List Byte) : List Reloc :=
  (List.range (bs.length / 16)).map fun i =>
    { fld := ofBytes (imgCut bs (16 * i) 1), tgt := ofBytes (imgCut bs (16 * i + 1) 1), off := ofBytes (imgCut bs (16 * i + 8) 8) }

/-- The relocations of an image, in directory order. -/
def imageRelocs (img : List Byte) (dir : List SegEntry) : List Reloc :=
  (dir.filter fun e => e.kind == 7).flatMap fun e => relocsIn (e.bytes img)

/-- The launch header of an image as the launch processor reads it, before any relocation. -/
def imageHdr (img : List Byte) (dir : List SegEntry) : BitVec 1024 :=
  match segOf dir 4 with
  | some e => BitVec.ofNat 1024 (ofBytes (e.bytes img))
  | none => 0

/-- The loader accepts an image (R84): magic, version and digest, known kinds, kinds 1 to 4 at most once, a launch header, a range of
code rows without rows 0 to 3 that agrees with the header, and every relocation's field inside its segment. DESIGN CHOICE (log 55): a
directory beyond the limits of Tables 04-4 and 04-5, and a relocation whose field's segment is not in the image, are rejected too. -/
def imageOk (img : List Byte) : Bool :=
  let dir := imageDir img
  ofBytes (imgCut img 0 4) == 0x494C5848 && ofBytes (imgCut img 4 2) == 1 && imgCut img 32 32 == shake256 32 (img.drop 64) &&
  1 ≤ dir.length && dir.length ≤ 64 && dir.all (fun e => 1 ≤ e.kind && e.kind ≤ 8 && e.ok) &&
    [1, 2, 3, 4].all (fun k => (dir.filter fun e => e.kind == k).length ≤ 1) &&
  (segOf dir 4).isSome &&
  (match segOf dir 1 with
    | some e =>
      let h := imageHdr img dir
      (4 ≤ e.arg || e.size == 0) && e.arg == hdrField h 4 20 14 && e.size == 256 * hdrField h 4 34 14
    | none => true) &&
  (imageRelocs img dir).all fun r =>
    match segOf dir r.fld with
    | some e => r.off + 8 ≤ e.size
    | none => false

/-- A segment the loader holds: its kind, its load address, its bytes. -/
structure Segment where
  kind : Nat
  va : Nat
  bytes : List Byte
  deriving DecidableEq, Repr

/-- The segments, which are all placed but the symbols, which a loader ignores (R83, R84), with the load addresses given for the
directory's entries in order. -/
def imageSegs (img : List Byte) (bases : List Nat) : List Segment :=
  ((imageDir img).zipIdx.filter fun e => e.1.kind != 8).map fun e =>
    { kind := e.1.kind, va := bases.getD e.2 0, bytes := e.1.bytes img }

/-- The load address of the first segment of a kind. -/
def vaOf (segs : List Segment) (kind : Nat) : Option Nat := (segs.find? fun g => g.kind == kind).map fun g => g.va

/-- Bytes with a 64-bit field replaced. -/
def putVA (bs : List Byte) (off v : Nat) : List Byte := bs.take off ++ toBytes 8 v ++ bs.drop (off + 8)

/-- A change made to the first segment of a kind. -/
def onSeg (kind : Nat) (f : List Byte → List Byte) : List Segment → List Segment
  | [] => []
  | g :: gs => if g.kind = kind then { g with bytes := f g.bytes } :: gs else g :: onSeg kind f gs

/-- One relocation: the load address added to the field, mod 2^64. A target kind that the image does not hold has a load address the
spec does not state: a free value. -/
def relocate (free : Nat) (segs : List Segment) (r : Reloc) : List Segment :=
  let a := (vaOf segs r.tgt).getD (Config.freeWord free).toNat
  onSeg r.fld (fun bs => putVA bs r.off ((ofBytes (imgCut bs r.off 8) + a) % 2 ^ 64)) segs

/-- The header pointed at the layout and ring segments (words 7 and 8 of Table 10-5). -/
def pointHeader (segs : List Segment) : List Segment :=
  let put (k w : Nat) (l : List Segment) := match vaOf segs k with | some a => onSeg 4 (fun bs => putVA bs (8 * w) a) l | none => l
  put 3 8 (put 2 7 segs)

/-- The segments as they come to lie in memory: every relocation applied in directory order, then the header pointed (R84). -/
def linkSegs (free : Nat) (img : List Byte) (bases : List Nat) : List Segment :=
  pointHeader ((imageRelocs img (imageDir img)).foldl (relocate free) (imageSegs img bases))

/-- Segments written by virtual address; none where one cannot be. -/
def State.placeSegs (s : State) (ctx : Nat) : List Segment → Option State
  | [] => some s
  | g :: gs =>
    match s.writeVA none ctx g.va g.bytes with
    | some t => t.placeSegs ctx gs
    | none => none

/-- A header pointed at a code-row segment points at that one alone (R84, log 5). -/
def State.loadImage (s : State) (g : Image) : State :=
  { s with images := g :: s.images.filter fun i => !(i.ctx == g.ctx && i.hdrVA == g.hdrVA) }

/-- The loader loads an image at the addresses it has chosen: nothing where it rejects the image, or where a segment lies in memory
that it cannot write (R84, log 5), and while the wipe holds BAR2 back (R238). -/
def State.loadBytes (s : State) (ctx : Nat) (bases : List Nat) (img : List Byte) : State :=
  if imageOk img && !s.wiping then
    let segs := linkSegs s.fresh img bases
    match ({ s with fresh := s.fresh + 1 } : State).placeSegs ctx segs, vaOf segs 4, vaOf segs 1 with
    | some t, some h, some c => t.loadImage { ctx := ctx, hdrVA := h, codeVA := c }
    | some t, _, _ => t
    | none, _, _ => s
  else s

end Sys2Proof.Machine
end

