-- ==== Sys2Proof/Machine/Turn.lean ====
section
/-! DEFINITION. What an item of the agenda does: an engine's turn, an event row, or a load (log 1); and a tile with a word where its
engine's next turn runs it (log 5). -/

namespace Sys2Proof.Machine

/-- Executing the word in an issue. -/
def State.execWord (s : State) (i : Instr) (w : Issue) : Res := exec i { s with issue := w }

/-- The S engine's turn: between sections the header at PC begins an S section or forwards one; inside a section the word at PC
executes, and the row access of an SST may perform later. In replay it executes no word beyond its logged chunk end (R397). -/
def State.turnS (s : State) (t : Nat) (late : Bool) : Res :=
  let x := s.tile t
  if !s.sReady t then .next s
  else if !x.sIn then
    match x.headerAtPC with
    | some h => if h.eng = 0 then exec (.sectionStart t .S) s else exec (.sectionForward t) s
    | none => exec (.sectionForward t) s
  else if s.chunkHold t then .next s
  else match s.fetchS t with
    | .stop s1 => .next s1
    | .word i w s1 => s1.execWord i { w with late := late }

/-- A forwarded word executes. Its fields were checked when it was forwarded, and its vector registers are physical; one that software
has edited in a record, and that is no word of its engine, traps (R72, R377, log 36). -/
def State.runWord (s : State) (e : Engine) (i : Issue) (w : FwdWord) : Res :=
  if slotClass w.slot ≠ e.code then .next (s.takeTrap i false 2 (slotClass w.slot + 16 * e.code))
  else match decodeRaw w.slot with
    | some ins => s.execWord ins i
    | none => .next (s.takeTrap i false 1 0)

/-- A word executed with its register writes left to follow, and with its row accesses issued one by one where `late` is set. -/
def State.runParts (s : State) (t : Nat) (e : Engine) (i : Issue) (w : FwdWord) (late : Bool) : Res :=
  let x := s.tile t
  let y := { x.wordView t e i.seq w with fp := 0 }
  match (s.setTile t y).runWord e { i with late := late } w with
  | .next s1 =>
    let due := { s with issue := i }.dueAt 0
    .next (s1.setTile t (x.afterWord y (s1.tile t) i w (e == .L && (w.vmClass? e).isSome) due))
  | r => r

/-- An act on a tile that is not frozen. -/
def State.onTile (s : State) (t : Nat) (f : Tile → Tile) : Res :=
  .next (if (s.tile t).quenched then s else s.setTile t (f (s.tile t)))

/-- Another engine's turn: the step of a matrix word, a push that waits, its next word, or the start of its next section. -/
def State.turn (s : State) (t : Nat) (e : Engine) (late : Bool) : Res :=
  let x := s.tile t
  if e = .M && x.mStep.isSome then exec (.mmaStep t) s
  else if e = .L && x.lPush.isSome then exec (.queuePush t none) s
  else if !x.mayRun e then exec (.sectionStart t e) s
  else match x.nextWord t e with
    | some (i, w) => if late || x.inParts e then s.runParts t e i w late else s.runWord e i w
    | none => .next s

/-- An engine's turn. -/
def State.runEngine (s : State) (t : Nat) (e : Engine) (late : Bool) : Res := if e = .S then s.turnS t late else s.turn t e late

/-- What an item of the agenda does. Words run only at an engine's turn: an item that names one does nothing. Without power only
POWER_ON acts (R17). -/
def State.actOn (s : State) (a : Act) : Res :=
  match a with
  | .run t e => if s.on then s.runEngine t e false else .next s
  | .runLate t e => if s.on then s.runEngine t e true else .next s
  | .land t e k => s.onTile t fun x => x.landLate e k
  | .perform t k => .next (s.performRow t k)
  | .keep r key => .next (s.keepOld r key)
  | .drop r key => .next (s.dropCopy r key)
  | .event i => if (encode i).isSome || !(s.on || i == Instr.powerOn) then .next s else exec i s
  | .load g => .next (s.loadImage g)
  | .image ctx bases img => .next (if s.on then s.loadBytes ctx bases img else s)

/-- The outcome of an item with what it has written and read noted on the older contents that are kept (log 4). -/
def State.noted (s : State) (a : Act) : Res → Res
  | .next s1 => .next (s.noteCopies a s1).forget
  | r => r

/-- An item of the agenda done. -/
def State.act (s : State) (a : Act) : Res := s.noted a (s.actOn a)

/-! ### A word placed where a turn runs it (log 5) -/

/-- A launch header whose code rows are rows 4 to 16,383. -/
def fetchHdr : BitVec 1024 := BitVec.ofNat 1024 ((4 * 2 ^ 20 + 16380 * 2 ^ 34) * 2 ^ 256)

/-- A point for a tile that runs none: it belongs to no launch slot. -/
def fetchPoint : Point := { slot := 64, hdr := fetchHdr, col := 0, z := 0, home := 0, started := true }

/-- A tile ready to run a word: its point is started and its PC within the code rows, nothing stops it, and no breakpoint takes its
next slot. -/
def Tile.fetchReady (x : Tile) : Tile :=
  let p := match x.point with
    | some p => { p with started := true, hdr := if x.inCode x.pc.toNat then p.hdr else fetchHdr }
    | none => fetchPoint
  { x with
    point := some p
    pc := if x.pc.toNat < 21 * hdrField p.hdr 4 34 14 then x.pc else 0
    halted := false, stop := none, quenched := false, standing := none, codeOld := [], bpPassed := true, bpHold := false
    mStep := none, lPush := none, late := [], rowsIn := [], loadFix := none, copies := [] }

/-- An S word stored at PC, inside an S section. -/
def Tile.withS (x : Tile) (w : Slot) : Tile :=
  let y := x.fetchReady
  { y with
    sIn := true
    sEnd := if x.sIn then x.sEnd else y.pc.toNat + 2
    sp := Memory.writeN y.sp (y.slotByte y.pc.toNat) (bytesOfSlot w) }

/-- A word of another engine in a started section of its own, in front of the engine's queue. -/
def Tile.withE (x : Tile) (e : Engine) (w : Slot) : Tile :=
  let y := x.fetchReady
  let c : Section :=
    { eng := e, hdr := Header.ofBits 0, hdrAddr := y.pc.toNat, seq := y.seqNext, tag := y.tagNow, gens := y.records, deps := [],
      started := true, words := y.fwdWords (y.pc.toNat + 1) y.xq [w] }
  { y with secs := c :: y.secs, seqNext := y.seqNext + 1 }

end Sys2Proof.Machine
end

