-- ==== Sys2Proof/Machine/Step.lean ====
section
/-! DEFINITION. One step of the module: the next item of the agenda; with an empty agenda the S engine of the tile in focus takes its
turn (log 1). And where step finds a word to run next. -/

namespace Sys2Proof.Machine

/-- One step. -/
def step (s : State) : Host.Outcome State Fault Refusal :=
  match s.agenda with
  | a :: rest => { s with agenda := rest }.act a
  | [] => if s.on then s.act (.run s.focus .S) else .fault .noPower

/-- The state with a word stored where the next step runs it: in the code rows of the tile in focus, or in a section of its engine,
and that engine's turn in front of the agenda. -/
def State.withFetchWord (s : State) (_nbits w : Nat) : State :=
  let slot : Slot := BitVec.ofNat 96 w
  let cls := slotClass slot
  let t := s.focus
  let e := if cls ≤ 5 then engOf cls else .S
  let x := s.tile t
  let y := if e = .S then x.withS slot else x.withE e slot
  { s.setTile t y with on := true, agenda := .run t e :: s.agenda }

end Sys2Proof.Machine
end

