-- ==== Sys2Proof/Safety.lean ====
section
/-! DEFINITION. What counts as a safe run of the module, and the terms its statements use: what a step leaves unchanged, when a
word runs, and what it writes. -/

namespace Sys2Proof.Safety

open Sys2Proof.Machine

/-! ### Safe runs -/

/-- The step goes on. -/
def Runs (s : State) : Prop := ∃ t, step s = .next t

/-- The next n steps go on: a run is safe for n steps. -/
def RunsFor : Nat → State → Prop
  | 0, _ => True
  | n + 1, s => ∃ t, step s = .next t ∧ RunsFor n t

/-- Module memory and host memory are in canonical form, and the table of what is known of the far modules' memory, whose unlisted
bytes are not known (log 7), has its keys rising. -/
def MemoriesOk (s : State) : Prop :=
  Memory.wf s.mem = true ∧ Memory.wf s.hostMem = true ∧ Tab.wf s.farMem = true

/-- The tables of tiles and of transfer dies are in canonical form: no number has two entries. -/
def TablesOk (s : State) : Prop := Assoc.wf Tile.idle s.tiles = true ∧ Assoc.wf Die.idle s.dies = true

/-! ### Frames -/

/-- No byte of module memory differs. -/
def SameMemory (s t : State) : Prop := ∀ a, t.readPA1 a = s.readPA1 a

/-- Nothing but tile k differs: not another tile, nor memory, nor anything else of the module. The accesses noted for the present item
of the agenda (log 4) are no part of this. -/
def OnlyTile (k : Nat) (s t : State) : Prop :=
  { t with tiles := s.tiles, trail := s.trail } = s ∧ (∀ j, j ≠ k → t.tile j = s.tile j) ∧ SameMemory s t

/-- What a release may change beyond its tile put back: the releases that have reached older contents the hosts may still read. -/
def hostsAs (s t : State) : State := { t with hostOld := s.hostOld }

/-- Contents kept of some bytes, but for the releases of the writes there. -/
def noRel (c : OldCopy) : OldCopy := { c with marks := c.marks.map fun m => { m with rel := [] } }

/-- Every tile as it was but for older contents that may still be read, of which those that are older than a write of tile k are gone
(R23, R290, R305): what it has written is performed at module scope. -/
def PerformedAll (k : Nat) (s t : State) : Prop :=
  ∀ j, (t.tile j).copies = (s.tile j).copies.filter fun c => !c.marks.any fun m => m.party == 2 * k || m.party == 2 * k + 1

/-- Nothing but tile k differs, and which older contents other tiles may still read. -/
def OnlyTileOld (k : Nat) (s t : State) : Prop :=
  { t with tiles := s.tiles, trail := s.trail } = s ∧
    (∀ j, j ≠ k → { t.tile j with copies := [] } = { s.tile j with copies := [] }) ∧ SameMemory s t

/-- The tile with everything a retiring S word may always change blanked: where the S engine fetches, the replay chunk, why an
engine waits, the performance counters, and whether the point has executed a word. -/
def fixedS (x : Tile) : Tile :=
  { x with pc := 0, sIn := false, chunk := 0, atLoop := false, bpPassed := false, standing := none, waits := [], pcs := [], ran := false }

/-- The same for a word of another engine: its section's progress, why an engine waits, the performance counters, and whether the point
has executed a word. -/
def fixedE (x : Tile) : Tile := { x with secs := [], waits := [], pcs := [], ran := false }

/-- The tile whose word is executed. -/
def here (s : State) : Tile := s.tile s.issue.tile

/-! ### Where a step finds its word -/

/-- Inside an S section the S engine of tile k stands at slot w: it may act, PC is within the code rows and holds w, no slot is
held as it was before a write, no breakpoint matches, and a replayed point is not at the end of its chunk (R397). -/
def StandsAtWord (s : State) (k : Nat) (w : Slot) : Prop :=
  let x := s.tile k
  s.sReady k = true ∧ s.chunkHold k = false ∧ x.sIn = true ∧ x.inCode x.pc.toNat = true ∧ x.slotAt x.pc.toNat = w ∧
    x.standing = none ∧ x.codeOld = [] ∧ x.breakHit s.scyc.toNat x.pc.toNat = none

/-- Between sections it stands at a header: as above, and the section it opens lies within the code rows. -/
def StandsAtHeader (s : State) (k : Nat) (h : Header) : Prop :=
  let x := s.tile k
  s.sReady k = true ∧ x.sIn = false ∧ x.inCode x.pc.toNat = true ∧ decodeHeader (x.slotAt x.pc.toNat) = .ok h ∧
    x.inCode (x.pc.toNat + h.len.toNat) = true ∧ x.standing = none ∧ x.codeOld = [] ∧
    x.breakHit s.scyc.toNat x.pc.toNat = none

/-- Engine e of tile k, not the S engine, has word fw to execute next, as its section's fields in iss say. -/
def StandsAtFwd (s : State) (k : Nat) (e : Engine) (iss : Issue) (fw : FwdWord) : Prop :=
  let x := s.tile k
  e ≠ .S ∧ x.mayRun e = true ∧ x.nextWord k e = some (iss, fw) ∧ slotClass fw.slot = e.code ∧
    (e = .M → x.mStep = none) ∧ (e = .L → x.lPush = none)

/-- The word being executed makes its row accesses when it executes: its turn was not one that leaves them to follow, and it is no load
that has read rows at earlier turns (log 4). -/
def AtOnce (s : State) : Prop := s.issue.late = false ∧ (s.issue.eng = .L → (here s).rowsIn = [] ∧ (here s).loadFix = none)

/-! ### Words of the S engine -/

/-- The guard of a word of the S engine. -/
def sGuard? : Instr → Option Guard
  | .add g _ | .addi g _ | .sub g _ | .mul g _ | .muli g _ | .mulh g _ | .mulhn g _ | .div g _ | .divn g _ | .rem g _
  | .remn g _ | .and g _ | .andi g _ | .or g _ | .ori g _ | .xor g _ | .xori g _ | .andn g _ | .shl g _ | .shli g _
  | .shr g _ | .shri g _ | .sar g _ | .sari g _ | .rol g _ | .roli g _ | .min g _ | .minn g _ | .max g _ | .maxn g _
  | .clz g _ | .ctz g _ | .popc g _ | .bfx g _ | .bfi g _ | .sel g _ | .movi g _ | .movhi g _ | .cmp g _ | .cmpi g _
  | .plog g _ | .pmovPack g _ | .pmovUnpack g _ | .br g _ | .brx g _ | .call g _ | .ret g _ | .lrec g _ | .loop g _
  | .lfor g _ | .lnext g _ | .lidx g _ | .pfld g _ | .pfldW g _ | .halt g _ | .trap g _ | .nop g _ | .sld g _ | .sst g _
  | .crd g _ | .cwr g _ | .tmark g _ | .lset g _ | .lget g _ | .rinit g _ | .racq g _ | .rrel g _ | .launch g _
  | .sems g _ | .semw g _ | .semr g _ | .wpop g _ | .cyc g _ | .fence g _ | .xfence g _ | .ifence g _ | .drain g _ => some g
  | _ => none

/-- An S word runs: it is the S engine's, its guard holds, and every general register it names is full. -/
def SRuns (s : State) (g : Guard) (regs : List Nat) : Prop :=
  s.issue.eng = .S ∧ (here s).guardS g = true ∧ ∀ n ∈ regs, (here s).emptyG n = false

/-- The S word retires: its tile alone differs, it is counted, its engine waits no longer, and fetch goes on at pc. -/
def SNext (s t : State) (pc : Nat) : Prop :=
  OnlyTile s.issue.tile s t ∧ (here t).pc = BitVec.ofNat 20 pc ∧ (here t).pcs = ((here s).count 2 1).pcs ∧
    (here t).waitWhy .S = 0

/-- The word answers a next state in which general register n holds v (g0 discards it), every other general register is as
before, and nothing else of the tile differs. -/
def SGives (s : State) (r : Res) (n : Nat) (v : W64) : Prop :=
  ∃ t, r = .next t ∧ SNext s t (s.issue.addr + 1) ∧
    (∀ m, (here t).readG m = if m = n ∧ n ≠ 0 then v else (here s).readG m) ∧
    { fixedS (here t) with g := [] } = { fixedS (here s) with g := [] }

/-- The same for a value known by what holds of it. -/
def SGivesSome (s : State) (r : Res) (n : Nat) (p : W64 → Prop) : Prop := ∃ v, p v ∧ SGives s r n v

/-- The word answers a next state in which scalar predicate m reads `w m` where that is given and as before elsewhere (c0 reads
1), and nothing else of the tile differs. -/
def SSetsC (s : State) (r : Res) (w : Nat → Option Bool) : Prop :=
  ∃ t, r = .next t ∧ SNext s t (s.issue.addr + 1) ∧
    (∀ m, m < 8 → (here t).readC m = if m = 0 then true else (w m).getD ((here s).readC m)) ∧
    { fixedS (here t) with c := 0 } = { fixedS (here s) with c := 0 }

/-- The word answers a next state in which nothing of the tile has changed but where fetch goes on. -/
def SOnlyMoves (s : State) (r : Res) (pc : Nat) : Prop :=
  ∃ t, r = .next t ∧ SNext s t pc ∧ fixedS (here t) = fixedS (here s)

/-- The word waits, for a reason `why`: its engine stands at it and nothing else has changed. -/
def Waits (s : State) (r : Res) (why : Nat) : Prop :=
  r = .next (s.setTile s.issue.tile ((here s).setWait s.issue.eng why))

/-- The word traps with a cause and TRAP_DATA, and has changed nothing before. -/
def Traps (s : State) (r : Res) (cause data : Nat) : Prop := r = .next (s.takeTrap s.issue false cause data)

/-- The bytes an access size of SLD and SST moves (Table 06-3). -/
def sizeBytes (size : Nat) : Nat :=
  if size = 0 ∨ size = 4 then 1 else if size = 1 ∨ size = 5 then 2 else if size = 2 ∨ size = 6 then 4 else 8

/-- What SLD writes from the bytes it reads: sizes 0 to 3 zero-extended, 4 to 6 sign-extended. -/
def loaded (size : Nat) (bs : List Byte) : W64 :=
  let v := ofBytes bs
  if size = 4 then (BitVec.ofNat 8 v).signExtend 64
  else if size = 5 then (BitVec.ofNat 16 v).signExtend 64
  else if size = 6 then (BitVec.ofNat 32 v).signExtend 64
  else BitVec.ofNat 64 v

/-- Every scratchpad byte outside [a, a + n) is the same. -/
def SpOutside (x y : Tile) (a n : Nat) : Prop := ∀ b, (b < a ∨ a + n ≤ b) → Memory.read y.sp b = Memory.read x.sp b

/-- The defined bits of word w of a layout entry (Table 10-2). -/
def layDefined (w : Nat) : Nat := if w < 5 then 2 ^ 64 - 1 else if w = 5 then 0x1FFF + 0x1F * 2 ^ 16 + 0x3FF * 2 ^ 38 else 0

/-- The tile with what an acquire renews blanked: older contents of rows and of code rows that may still be read (R295, R300). -/
def renewed (x : Tile) : Tile := { x with copies := [], codeOld := [] }

/-- Tile y keeps the older contents that x keeps, of rows and of code rows; only which releases have reached them may differ. -/
def SameOld (x y : Tile) : Prop :=
  y.copies.map noRel = x.copies.map noRel ∧ y.codeOld.map (fun w => (w.slots, w.left)) = x.codeOld.map fun w => (w.slots, w.left)

/-- A release of a write on semaphore n, at a scope within the given one, has reached the tile (R295). -/
def Released (m : CopyMark) (n scope : Nat) : Prop := ∃ r ∈ m.rel, r.1 = n ∧ r.2 ≤ scope

/-- What an acquire on semaphore n at a scope makes of writes to code rows: those that such a release orders are fetchable after an
IFENCE, and the others stay as they are (R300). -/
def CodeAcquired (x y : Tile) (n scope : Nat) : Prop :=
  y.codeOld.map (fun w => (w.slots, w.left)) = x.codeOld.map (fun w => (w.slots, w.left)) ∧
  ∀ (i : Nat) (w w' : CodeWrite), x.codeOld[i]? = some w → y.codeOld[i]? = some w' →
    ((∃ m, w.need = .acquire m ∧ Released m n scope) → w'.need = .none) ∧
    ((∀ m, w.need = .acquire m → ¬ Released m n scope) → w'.need = w.need)

/-- Contents kept of some bytes, but for which accesses no longer read them. -/
def bareCopy (c : OldCopy) : OldCopy := { c with ended := [] }

/-- The contents kept in x are kept in y, and an access (its engine, and its place or X word number) no longer reads them exactly where it
did not, or where `now` says so of the contents. -/
def EndsAlso (x y : Tile) (now : OldCopy → Engine → Nat → Prop) : Prop :=
  y.copies.map bareCopy = x.copies.map bareCopy ∧
  ∀ (i : Nat) (c c' : OldCopy), x.copies[i]? = some c → y.copies[i]? = some c' →
    ∀ f p, c'.endedFor f p = true ↔ c.endedFor f p = true ∨ now c f p

/-- An access of engine f at a place, an X word by its number, follows the word at which the S engine of x stands (R294). -/
def LaterThan (x : Tile) (f : Engine) (p : Nat) : Prop :=
  (f = .X ∧ x.xq ≤ p) ∨ (f = .L ∧ 2048 * x.seqNext ≤ p) ∨ (f = .S ∧ 1 ≤ p)

/-- What an acquire by the S engine makes of x: older contents that such a release orders are no longer read by what follows (R294,
R295, log 4). -/
def Acquired (x y : Tile) (n scope : Nat) : Prop :=
  EndsAlso x y (fun c f p => (∃ m ∈ c.marks, Released m n scope) ∧ LaterThan x f p) ∧ CodeAcquired x y n scope

/-- An access of engine f at a place, an X word by its number, is one of a section's (R294). -/
def OfSection (d : Section) (f : Engine) (p : Nat) : Prop :=
  f = d.eng ∧
    (d.eng = .X → ∃ w, d.words.head? = some w ∧ w.cap.q ≤ p ∧ p < w.cap.q + d.words.length) ∧
    (d.eng ≠ .X → 2048 * d.seq ≤ p ∧ p < 2048 * (d.seq + 1))

/-- What an acquire by engine e in section q makes of x: older contents that such a release orders are no longer read by the later words
of that engine, nor by the sections whose headers name q (R294, R295, log 4). -/
def AcquiredIn (x y : Tile) (e : Engine) (q n scope : Nat) : Prop :=
  EndsAlso x y (fun c f p => (∃ m ∈ c.marks, Released m n scope) ∧
    ((f = e ∧ x.posOf q e < p) ∨ ∃ d ∈ x.secs, q ∈ d.deps ∧ OfSection d f p)) ∧
  CodeAcquired x y n scope

/-- What a FENCE over a class mask makes of the older contents that tile t keeps: they are known to be older, for accesses of the mask's
classes, than the tile's stores of those classes (R302, log 4). -/
def Fenced (x y : Tile) (t mask : Nat) : Prop :=
  y.copies = x.copies.map fun c => { c with
    marks := c.marks.map fun m => if m.party = 2 * t ∧ mask.testBit m.cls = true then { m with fenced := m.fenced ||| mask } else m }

/-- A SEMS of the S engine has retired with semaphore n at v: no other semaphore, and nothing else but which releases have reached
older contents, differs. -/
def SGave (s t : State) (n v : Nat) : Prop :=
  SNext s (hostsAs s t) (s.issue.addr + 1) ∧ t.hostOld.map noRel = s.hostOld.map noRel ∧ (here t).sem n = v ∧
    SpOutside (here s) (here t) (4 * n) 4 ∧ SameOld (here s) (here t) ∧
    renewed { fixedS (here t) with sp := [] } = renewed { fixedS (here s) with sp := [] }

/-- No word of the tile's launch is recorded or replayed (R395). -/
def NoReplay (s : State) : Prop := ∀ l, s.launchOf s.issue.tile = some l → l.replay = 0

/-- The condition of a code of Table 03-7 on two 64-bit values: eq, ne, signed lt, le, gt, ge, unsigned lt, le, gt, ge. -/
def holdsCond (c : Nat) (a b : W64) : Bool :=
  if c = 0 then decide (a.toNat = b.toNat)
  else if c = 1 then decide (a.toNat ≠ b.toNat)
  else if c = 2 then decide (a.toInt < b.toInt)
  else if c = 3 then decide (a.toInt ≤ b.toInt)
  else if c = 4 then decide (a.toInt > b.toInt)
  else if c = 5 then decide (a.toInt ≥ b.toInt)
  else if c = 6 then decide (a.toNat < b.toNat)
  else if c = 7 then decide (a.toNat ≤ b.toNat)
  else if c = 8 then decide (a.toNat > b.toNat)
  else decide (a.toNat ≥ b.toNat)

/-! ### Words of the other engines -/

/-- The vector registers of a list are full. -/
def FullV (x : Tile) (regs : List Nat) : Prop := ∀ n ∈ regs, x.emptyV n = false

/-- An L, A or W word runs with lanes en: some lane is enabled, and every vector register it names is full. -/
def VRuns (s : State) (g : Guard) (en : PMask) (regs : List Nat) : Prop :=
  s.issue.eng ≠ .S ∧ (here s).lanes s.issue.cap g = en ∧ en ≠ 0 ∧ FullV (here s) regs

/-- A word with one guard value runs. -/
def ERuns (s : State) (e : Engine) (g : Guard) (regs : List Nat) : Prop :=
  s.issue.eng = e ∧ e ≠ .S ∧ (here s).guard0 e s.issue.cap g = true ∧ FullV (here s) regs

/-- The word retires: its tile alone differs, its section has gone on by one word (and has left where that ends it), it is
counted, and its engine waits no longer. -/
def ENext (s t : State) : Prop :=
  OnlyTile s.issue.tile s t ∧
    (here t).secs = ({ here t with secs := (here s).secs }.setSec s.issue.seq fun c => { c with idx := c.idx + 1 }).sweep.secs ∧
    (here t).pcs = ((here s).count (retireEvent s.issue.eng) 1).pcs ∧ (here t).waitWhy s.issue.eng = 0

/-- The word retires and changes nothing else of its tile. -/
def EOnlyMoves (s : State) (r : Res) : Prop := ∃ t, r = .next t ∧ ENext s t ∧ fixedE (here t) = fixedE (here s)

/-- A SEMS of another engine has retired with semaphore n at v: nothing else but which releases have reached older contents differs. -/
def EGave (s t : State) (n v : Nat) : Prop :=
  ENext s (hostsAs s t) ∧ t.hostOld.map noRel = s.hostOld.map noRel ∧ (here t).sem n = v ∧
    SpOutside (here s) (here t) (4 * n) 4 ∧ SameOld (here s) (here t) ∧
    renewed { fixedE (here t) with sp := [] } = renewed { fixedE (here s) with sp := [] }

/-- Element j of w bits of a vector register. -/
def elem (x : Tile) (w n j : Nat) : Nat := elemNat w (x.readV n).toNat j

/-- The elements of a result written to register vd of y from x under lanes en: element j is `r j` mod 2^w where its lane is
enabled and as before elsewhere. -/
def ElemsWritten (x y : Tile) (en : PMask) (w vd : Nat) (r : Nat → Nat) : Prop :=
  (∀ j, j < numElems w → elem y w vd j = if enElem en w j then r j % 2 ^ w else elem x w vd j) ∧
    ∀ n, n ≠ vd → y.readV n = x.readV n

/-- The FP_FLAGS bits of a word whose element j sets the flags of `fl j`: those of its enabled elements are set, none is
cleared (R45, R60). -/
def FlagsSet (x y : Tile) (en : PMask) (w n : Nat) (fl : Nat → Nat) : Prop :=
  ∀ i, i < 6 → (y.fp.getLsbD i = true ↔ x.fp.getLsbD i = true ∨ ∃ j, j < n ∧ enElem en w j = true ∧ (fl j).testBit i = true)

/-- An elementwise word answers a next state in which vd and FP_FLAGS alone have changed, element j being `r j` with its
flags. -/
def VGives (s : State) (res : Res) (en : PMask) (w vd : Nat) (r : Nat → FRes) : Prop :=
  ∃ t, res = .next t ∧ ENext s t ∧ ElemsWritten (here s) (here t) en w vd (fun j => (r j).1) ∧
    FlagsSet (here s) (here t) en w (numElems w) (fun j => (r j).2) ∧
    { fixedE (here t) with v := [], fp := 0, fpNow := 0 } = { fixedE (here s) with v := [], fp := 0, fpNow := 0 }

/-- The same where nothing rounds: no flag is set but those given, and no generator has drawn. -/
def VMoves (s : State) (res : Res) (en : PMask) (w vd : Nat) (r : Nat → Nat) : Prop :=
  ∃ t, res = .next t ∧ ENext s t ∧ ElemsWritten (here s) (here t) en w vd r ∧
    { fixedE (here t) with v := [] } = { fixedE (here s) with v := [] }

/-- The random word of element j of w bits: only rounding mode 4 draws one (R43). -/
def rand (x : Tile) (rnd w j : Nat) : Nat := if rnd = 4 then x.randOf w j else 0

/-- The lane generators after a word that rounds n elements of w bits: those of enabled lanes have drawn once for each of the
lane's elements under mode 4, and stand otherwise (R43, R60). -/
def GensDrawn (x y : Tile) (en : PMask) (rnd w n : Nat) : Prop :=
  ∀ l, l < 1024 → y.gen l = if rnd = 4 ∧ en.getLsbD l = true then xorshiftN (elemsInLane w n l) (x.gen l) else x.gen l

/-- An elementwise word that rounds answers a next state in which vd, FP_FLAGS and the generators alone have changed: element j is
`r j` with its flags, and n of them are rounded. -/
def VRounds (s : State) (res : Res) (en : PMask) (rnd w n vd : Nat) (r : Nat → FRes) : Prop :=
  ∃ t, res = .next t ∧ ENext s t ∧ ElemsWritten (here s) (here t) en w vd (fun j => (r j).1) ∧
    FlagsSet (here s) (here t) en w (numElems w) (fun j => (r j).2) ∧ GensDrawn (here s) (here t) en rnd w n ∧
    { fixedE (here t) with v := [], fp := 0, fpNow := 0, lg := 0 } = { fixedE (here s) with v := [], fp := 0, fpNow := 0, lg := 0 }

/-- A long-latency word issues: vd is empty and keeps its value, and a result is in flight that will write element j as `r j` with
the flags fl, and that writes the register rows holding an enabled lane (R98); generators draw as GensDrawn says; nothing else
differs. -/
def VIssues (s : State) (res : Res) (en : PMask) (rnd w vd : Nat) (r : Nat → Nat) (fl : Nat → Prop) : Prop :=
  ∃ t i, res = .next t ∧ ENext s t ∧ (here t).inflight = (here s).inflight ++ [i] ∧
    i.kind = .longLat ∧ i.eng = s.issue.eng ∧ i.tgt = vd ∧ i.seq = s.issue.seq ∧ i.rem = 0 ∧
    (∀ j, j < numElems w → elemNat w i.payload.toNat j =
      if enElem en w j then r j % 2 ^ w else elem (here s) w vd j) ∧
    (∀ j, j < 16 → (i.rows.getLsbD j = true ↔ ∃ l, l < 64 ∧ en.getLsbD (64 * j + l) = true)) ∧
    (∀ k, k < 6 → (i.flags.getLsbD k = true ↔ fl k)) ∧
    (∀ n, n < 192 → (here t).emptyV n = if n = vd then true else (here s).emptyV n) ∧ GensDrawn (here s) (here t) en rnd w (numElems w) ∧
    { fixedE (here t) with inflight := [], vEmpty := 0, lg := 0 } = { fixedE (here s) with inflight := [], vEmpty := 0, lg := 0 }

/-- A predicate word answers a next state in which the pair alone has changed: on enabled lanes pt holds the outcome and pf its
negation (pf wins where they are one), the others clear in the .z form; p0 stays all ones. -/
def VPair (s : State) (res : Res) (pt pf : Nat) (z : Bool) (en cond : Nat → Bool) : Prop :=
  ∃ t, res = .next t ∧ ENext s t ∧
    (∀ n, n < 8 → ∀ l, l < 1024 → ((here t).readP n).getLsbD l =
      if n = 0 then true
      else if n = pf then (if en l then !cond l else !z && ((here s).readP n).getLsbD l)
      else if n = pt then (if en l then cond l else !z && ((here s).readP n).getLsbD l)
      else ((here s).readP n).getLsbD l) ∧
    { fixedE (here t) with p := [] } = { fixedE (here s) with p := [] }

/-- An element as its integer type reads it: types 0 to 3 signed, 4 to 7 unsigned (R26). -/
def valueOf (ty w a : Nat) : Int := if ty < 4 then (BitVec.ofNat w a).toInt else (a : Int)

/-- Sat of an integer type: the nearest value of the type, and the flag sat where that is another one. -/
def clampTo (ty w : Nat) (v : Int) : FRes :=
  let lo : Int := if ty < 4 then -2 ^ (w - 1) else 0
  let hi : Int := if ty < 4 then 2 ^ (w - 1) - 1 else 2 ^ w - 1
  if v < lo then ((lo % 2 ^ w).toNat, 32) else if hi < v then ((hi % 2 ^ w).toNat, 32) else ((v % 2 ^ w).toNat, 0)

/-- The outcome of conditions 0 to 5 on integers: eq, ne, lt, le, gt, ge. -/
def holdsInt (c : Nat) (a b : Int) : Bool :=
  if c = 0 then decide (a = b) else if c = 1 then decide (a ≠ b) else if c = 2 then decide (a < b)
  else if c = 3 then decide (a ≤ b) else if c = 4 then decide (b < a) else decide (b ≤ a)

/-! ### Rounding of exact reals (R39, R41, R42) -/

/-- The real number that a finite value is; 0 of the others. -/
noncomputable def realOf : Fp → ℝ
  | .fin s m e => (if s then -1 else 1) * (m : ℝ) * (2 : ℝ) ^ e
  | _ => 0

/-- A magnitude of n units and the fraction F of one goes up under a mode, u being the random word (R40, R42). -/
def GoesUp (rnd u : Nat) (neg : Bool) (n : Int) (F : ℝ) : Prop :=
  (rnd = 0 ∧ (1 / 2 < F ∨ (F = 1 / 2 ∧ n % 2 = 1))) ∨ (rnd = 2 ∧ 0 < F ∧ neg = false) ∨ (rnd = 3 ∧ 0 < F ∧ neg = true) ∨
    (rnd = 4 ∧ (u : Int) < ⌊F * 65536⌋)

/-- r is the magnitude x rounded to a whole number of units 2^q. -/
def AtUnit (rnd u : Nat) (neg : Bool) (x : ℝ) (q r : Int) : Prop :=
  (GoesUp rnd u neg ⌊x / (2 : ℝ) ^ q⌋ (Int.fract (x / (2 : ℝ) ^ q)) → r = ⌊x / (2 : ℝ) ^ q⌋ + 1) ∧
    (¬ GoesUp rnd u neg ⌊x / (2 : ℝ) ^ q⌋ (Int.fract (x / (2 : ℝ) ^ q)) → r = ⌊x / (2 : ℝ) ^ q⌋)

/-- res is the value of sign `neg` and magnitude x > 0 rounded once to the format: its unit is that of its leading bit, or of the
subnormals; a magnitude above the largest finite one overflows, and a result is tiny that rounds below the smallest normal one with an
unbounded exponent (R39, R41). -/
def RoundedTo (t : Fmt) (rnd u : Nat) (sat neg : Bool) (x : ℝ) (res : FRes) : Prop :=
  let emin : Int := 1 - (t.bias : Int)
  let lead := Int.log 2 x
  let q := max lead emin - t.mw
  ∃ r w : Int, AtUnit rnd u neg x q r ∧ AtUnit rnd u neg x (lead - t.mw) w ∧
    (realOf (t.decode t.maxMag) < r * (2 : ℝ) ^ q → res = (if sat = true ∨ t.hasInf = false ∨ rnd = 1 ∨ (rnd = 2 ∧ neg = true) ∨
      (rnd = 3 ∧ neg = false) then t.maxBits neg else t.infBits neg, 5)) ∧
    (r * (2 : ℝ) ^ q ≤ realOf (t.decode t.maxMag) → res.1 < 2 ^ t.wid ∧ res.2 < 4 ∧
      (∃ m e, t.decode res.1 = .fin neg m e ∧ (m : ℝ) * (2 : ℝ) ^ e = r * (2 : ℝ) ^ q) ∧
      (res.2.testBit 0 = true ↔ Int.fract (x / (2 : ℝ) ^ q) ≠ 0) ∧
      (res.2.testBit 1 = true ↔ Int.fract (x / (2 : ℝ) ^ q) ≠ 0 ∧ w * (2 : ℝ) ^ (lead - t.mw) < (2 : ℝ) ^ emin))

/-- res is a real X, not 0, rounded once to the format. -/
def RoundsReal (t : Fmt) (rnd u : Nat) (X : ℝ) (res : FRes) : Prop :=
  (0 < X → RoundedTo t rnd u false false X res) ∧ (X < 0 → RoundedTo t rnd u false true (-X) res)

/-- A real truncated toward zero to a whole number of units 2^q. -/
noncomputable def truncReal (q : Int) (x : ℝ) : ℝ := (if 0 ≤ x then (⌊x / (2 : ℝ) ^ q⌋ : ℝ) else ⌈x / (2 : ℝ) ^ q⌉) * (2 : ℝ) ^ q

/-- Product k of a K-block as a real. -/
noncomputable def blockProd (a b : Blk) (k : Nat) : ℝ := realOf (a.vals.getD k .nan) * realOf (b.vals.getD k .nan)

/-- r is the sum of a K-block's finite products, each truncated to 41 bits below the greatest one's leading bit, with the scales applied and
rounded to .f32 (R37). -/
def BlockRounds (a b : Blk) (r : FRes) : Prop :=
  ((∀ k, k < 32 → blockProd a b k = 0) → r = (0, 0)) ∧
  ∀ top : Int, (∃ k, k < 32 ∧ blockProd a b k ≠ 0 ∧ Int.log 2 |blockProd a b k| = top) →
    (∀ k, k < 32 → blockProd a b k ≠ 0 → Int.log 2 |blockProd a b k| ≤ top) →
    let S := ((List.range 32).map fun k => truncReal (top - 40) (blockProd a b k)).sum
    (S = 0 → r = (0, 0)) ∧
    (S ≠ 0 → RoundsReal .f32 0 0 (S * (2 : ℝ) ^ ((a.scale : Int) - 127) * (2 : ℝ) ^ ((b.scale : Int) - 127)) r)

/-! ### Rows and queues -/

/-- No watchpoint of the tile is enabled. -/
def Unwatched (x : Tile) : Prop := ∀ n, n < 4 → (x.readDbg (4 + n)).testBit 63 = false

/-- Register rows of a VM word: 0 means 16. -/
def vmCount (f : FmtVM) : Nat := if f.rows.toNat = 0 then 16 else f.rows.toNat

/-- The byte address a VM word names with k added to coordinate 0, or its refusal as case and dimension (R208, R209). -/
def vmAddr (x : Tile) (cap : Capture) (f : FmtVM) (k : Int) : Except (Nat × Nat) Nat :=
  resolveRow (x.readLay f.lay.toNat)
    [(cap.vals.getD 0 0).toInt + f.imm.toInt + k, (cap.vals.getD 1 0).toInt, (cap.vals.getD 2 0).toInt, 0]

/-- The same for a word that stores, which rows 0 to 3 refuse as case 3 (R209). -/
def vmStoreAddr (x : Tile) (cap : Capture) (f : FmtVM) (k : Int) : Except (Nat × Nat) Nat :=
  match vmAddr x cap f k with
  | .ok a => if a < 1024 then .error (3, 0) else .ok a
  | .error c => .error c

/-- A VM word takes the layout fault of access index t with a case and a dimension. -/
def VmTraps (s : State) (r : Res) (f : FmtVM) (t : Nat) (c : Nat × Nat) : Prop :=
  Traps s r 8 (f.lay.toNat + c.1 * 256 + t * 2 ^ 12 + c.2 * 2 ^ 18)

/-- An access of the word's class, forwarded before it, is open. -/
def ClassOpen (s : State) (f : FmtVM) : Prop := (here s).classHold s.issue.seq s.issue.eng f.cls.toNat = true

/-- Register row j is accessed: below the word's rows, with an enabled lane. -/
def RowOn (en : PMask) (n j : Nat) : Prop := j < n ∧ ∃ l, l < 64 ∧ en.getLsbD (64 * j + l) = true

/-- A word that accesses the address `at_ j` for every access index j with `on j`: the lowest refusal is its layout fault; without
one it waits while an access of its class is open, and otherwise, its accesses made when it executes, runs as `done` says. -/
def VmAccess (s : State) (r : Res) (f : FmtVM) (on : Nat → Prop) (at_ : Nat → Except (Nat × Nat) Nat) (done : Prop) : Prop :=
  (∀ j c, on j → at_ j = .error c → (∀ k, k < j → on k → ∃ a, at_ k = .ok a) → VmTraps s r f j c) ∧
  ((∀ j, on j → ∃ a, at_ j = .ok a) → (ClassOpen s f → Waits s r 8) ∧ (¬ ClassOpen s f → AtOnce s → done))

/-- The word at byte 4i of the row of an address; 0 of a refusal, which no statement reads. -/
def rowWord (x : Tile) (at_ : Except (Nat × Nat) Nat) (i : Nat) : Nat :=
  match at_ with
  | .ok a => Memory.readLE x.sp (a / 256 * 256 + 4 * i) 4
  | .error _ => 0

/-- A storing word of the L or W engine retires with the scratchpad alone changed (its code rows are noted, R300, and older contents
of its rows are no longer read, R296). -/
def VStores (s : State) (r : Res) (p : Tile → Prop) : Prop :=
  ∃ t, r = .next t ∧ ENext s t ∧ p (here t) ∧
    renewed { fixedE (here t) with sp := [] } = renewed { fixedE (here s) with sp := [] }

/-- Register rows stored: the enabled lanes of accessed register row j go to the row of `at_ j`, a later register row over an
earlier one; every other byte of the scratchpad is as before. -/
def RowsStored (x y : Tile) (en : PMask) (n v : Nat) (at_ : Nat → Except (Nat × Nat) Nat) : Prop :=
  let hits (j b : Nat) : Prop := j < n ∧ (∃ a, at_ j = .ok a ∧ b / 256 = a / 256) ∧ en.getLsbD (64 * j + b % 256 / 4) = true
  (∀ b, (∀ j, ¬ hits j b) → Memory.read y.sp b = Memory.read x.sp b) ∧
  (∀ b j, hits j b → (∀ k, j < k → ¬ hits k b) →
    Memory.read y.sp b = (x.readV v).extractLsb' (2048 * j + 8 * (b % 256)) 8)

/-- What queue q of the matrix engine holds: 0 and 1 the bytes of SQA and SQB, heads code first, 2 and 3 FIFO A and B. -/
def queueBytes (x : Tile) (q : Nat) : List Byte :=
  if q = 0 then x.sqa.flatMap fun h => toBytes 2 h.toNat
  else if q = 1 then x.sqb.flatMap fun h => toBytes 2 h.toNat
  else if q = 2 then x.fifoA else x.fifoB

/-- Bytes a queue can hold: 16,384 in a FIFO, 1,024 heads in a scale queue (Table 16-1). -/
def queueCap (q : Nat) : Nat := if q < 2 then 2048 else 16384

/-- A push of the L engine: it appends whole and its word retires, or waits for room and holds the engine (R171, R309). -/
def Pushes (s : State) (r : Res) (q : Nat) (bs : List Byte) : Prop :=
  ((queueBytes (here s) q).length + bs.length ≤ queueCap q → ∃ t, r = .next t ∧ ENext s t ∧ (here t).lPush = none ∧
    (∀ k, k < 4 → queueBytes (here t) k = if k = q then queueBytes (here s) q ++ bs else queueBytes (here s) k) ∧
    { fixedE (here t) with sqa := [], sqb := [], fifoA := [], fifoB := [], runs := [], lPush := none } =
      { fixedE (here s) with sqa := [], sqb := [], fifoA := [], fifoB := [], runs := [], lPush := none }) ∧
  (bs ≠ [] → queueCap q < (queueBytes (here s) q).length + bs.length →
    r = .next (s.setTile s.issue.tile ({ here s with lPush := some (q, bs) }.setWait s.issue.eng 2)))

/-! ### Elements of move commands -/

/-- A byte of a scratchpad (space 0, 2^22 bytes to a tile) or of module memory (space 1). -/
def cellOf (s : State) (p : Nat × Nat) : Byte :=
  if p.1 = 0 then Memory.read (s.tile (p.2 / 2 ^ 22)).sp (p.2 % 2 ^ 22) else s.readPA1 p.2

/-- The bytes at which a piece of an access lands. -/
def spotCells : Spot → List (Nat × Nat)
  | .sp u a n => (List.range n).map fun i => (0, u * 2 ^ 22 + (a + i))
  | .at (.mem pa) n => (List.range n).map fun i => (1, pa + i)
  | .at _ _ => []

/-- Those of an access. -/
def cellsOf (y : Touched) : List (Nat × Nat) := y.spots.flatMap spotCells

/-- An access lies in a scratchpad or in module memory, on pages that are not counted. -/
def Near (y : Touched) : Prop :=
  y.counts = [] ∧ ∀ p ∈ y.spots,
    (∃ u a n, p = .sp u a n ∧ a + n ≤ 2 ^ 22) ∨ ∃ pa n, p = .at (.mem pa) n ∧ pa + n ≤ 768 * 2 ^ 30

/-- The half of a byte that a .e2m1 value has, as a value; other bytes as they are (R29). -/
def halfOut (h : Option Bool) (bs : List Byte) : List Byte :=
  match h with
  | none => bs
  | some b => bs.map fun v => BitVec.ofNat 8 (v.toNat / (if b then 16 else 1) % 16)

/-- A byte written, into its half where it is a .e2m1 value. -/
def halfIn (h : Option Bool) (old v : Byte) : Byte :=
  match h with
  | none => v
  | some b => BitVec.ofNat 8 (if b then old.toNat % 16 + 16 * (v.toNat % 16) else old.toNat / 16 * 16 + v.toNat % 16)

/-- A command may perform its next element, with nothing on the way to be noted: no watchpoint, no older contents kept, no undo log. -/
def ElementGoes (s : State) (k n : Nat) (c : Command) : Prop :=
  (s.tile k).cmd? n = some c ∧ s.mayElement k c = true ∧ s.orderHold k c = false ∧ Unwatched (s.tile k) ∧ (s.tile k).copies = [] ∧
    s.logOfTile k = none ∧ s.replayOf k = 0

/-- A command whose element has performed: the next one, or it is done; XFST, XSNAP and an empty XCOMP have a last step of their own. -/
def stepped (c : Command) : Command :=
  { c with held := none, e := c.e + 1
           done := if c.fn = 0x12 ∨ c.fn = 0x19 ∨ (c.fn = 0x10 ∧ c.count = 0) then decide (c.count ≤ c.e) else decide (c.count ≤ c.e + 1) }

/-- The scale queue and the FIFO of a side. -/
def sqOf (x : Tile) (side : Nat) : List (BitVec 16) := if side = 0 then x.sqa else x.sqb
def fifoOf (x : Tile) (side : Nat) : List Byte := if side = 0 then x.fifoA else x.fifoB

/-- What command c still had to push has gone in as far as there is room, its head and its payload each for itself; with nothing left
the command goes on, else it holds the rest (R245, R309). Without a push it goes on. -/
def QueuesAfter (x y : Tile) (c : Command) (push : Option HeldPush) : Prop :=
  match push with
  | none => (∀ i, sqOf y i = sqOf x i ∧ fifoOf y i = fifoOf x i) ∧ y.chan = (x.setCmd (stepped c)).chan
  | some h =>
    let headIn : Prop := 1 ≤ 1024 - (sqOf x h.side).length
    let payIn (p : List Byte) : Prop := p.length ≤ 16384 - (fifoOf x h.side).length
    ∃ hd pl, (∀ w, h.head = some w → (headIn → hd = none ∧ sqOf y h.side = sqOf x h.side ++ [w]) ∧
        (¬ headIn → hd = some w ∧ sqOf y h.side = sqOf x h.side)) ∧
      (h.head = none → hd = none ∧ sqOf y h.side = sqOf x h.side) ∧
      (∀ p, h.payload = some p → (payIn p → pl = none ∧ fifoOf y h.side = fifoOf x h.side ++ p) ∧
        (¬ payIn p → pl = some p ∧ fifoOf y h.side = fifoOf x h.side)) ∧
      (h.payload = none → pl = none ∧ fifoOf y h.side = fifoOf x h.side) ∧
      (∀ i, i < 2 → i ≠ h.side → sqOf y i = sqOf x i ∧ fifoOf y i = fifoOf x i) ∧
      (hd = none → pl = none → y.chan = (x.setCmd (stepped c)).chan) ∧
      (hd.isSome ∨ pl.isSome → y.chan = (x.setCmd { c with held := some { h with head := hd, payload := pl } }).chan)

/-- A tile without what an element changes in its own. -/
def besideElem (x : Tile) : Tile :=
  renewed { x with sp := [], chan := [], pcs := [], movedRest := 0, sqa := [], sqb := [], fifoA := [], fifoB := [], runs := [] }

/-- No table state and no operation on its way to a write queue differs. -/
def SameDies (s t : State) : Prop := ∀ d, (t.die d).wqIn = (s.die d).wqIn ∧ (t.die d).tsram = (s.die d).tsram

/-- Element e of a command of tile k, with c what its lists and lane have made of the command. Where its reads and then its writes
translate, to rows or module memory (R228), and what it reads is as `ok` says, it performs: its writes put what `want` gives from the bytes
read, and those that stood there, and no other byte differs; the command becomes `after` of them and has pushed `push`; and `also` holds. Of the
rest only translation entries, counters and free choices may differ. -/
def Performs (s : State) (k n : Nat) (c : Command) (reads writes : List Machine.Acc) (ok : List (List Byte) → Prop)
    (want : List (List Byte) → List (List Byte) → List (List Byte)) (after : List (List Byte) → Command)
    (push : List (List Byte) → Option HeldPush) (also : State → List (List Byte) → Prop) : Prop :=
  let x := s.tile k
  let kc : XCtx := { t := k, c := c, e := c.e }
  ∀ s1 s2 rs ys, touchAll kc reads s = (s1, .ok rs) → touchAll kc writes s1 = (s2, .ok ys) → (∀ y ∈ rs ++ ys, Near y) →
    (ys.flatMap cellsOf).Nodup → (∀ w ∈ writes, ∀ u a, w.loc = .sp u a → 1024 ≤ a) → (c.fn = 0x11 → ∀ y ∈ rs ++ ys, y.tol = true) →
    let got (l : List Machine.Acc) (zs : List Touched) : List (List Byte) := (l.zip zs).map fun p => halfOut p.1.high ((cellsOf p.2).map (cellOf s))
    let bs := got reads rs
    let out := want bs (got writes ys)
    ok bs → (out.length = writes.length ∧ ∀ i, (out.getD i []).length = ((ys.map cellsOf).getD i []).length) →
    ∃ t, exec (.elementPerform k n) s = .next t ∧
      (∀ (i j : Nat) (p : Nat × Nat) (b : Byte), ((ys.map cellsOf).getD i [])[j]? = some p → (out.getD i [])[j]? = some b →
        cellOf t p = halfIn ((writes[i]?).bind Machine.Acc.high) (cellOf s p) b) ∧
      (∀ p, p.1 ≤ 1 → p ∉ ys.flatMap cellsOf → cellOf t p = cellOf s p) ∧
      QueuesAfter x (t.tile k) (after bs) (push bs) ∧ also t bs ∧
      besideElem (t.tile k) = besideElem x ∧
      (∀ j, j ≠ k → renewed { t.tile j with sp := [] } = renewed { s.tile j with sp := [] }) ∧
      (∀ d, { t.die d with tlb := [], descs := [], wq := [], wqIn := [], tsram := [] } =
        { s.die d with tlb := [], descs := [], wq := [], wqIn := [], tsram := [] }) ∧
      { t with tiles := s.tiles, dies := s.dies, mem := s.mem, trail := s.trail, fresh := s.fresh } = s

/-- The body that a described copy writes: the payload of its head's code, zeros behind it (R251). -/
def bodyCopied (head body : List Byte) : List Byte :=
  let code := (head.getD 0 0).toNat
  (List.range 64).map fun i => if i < 4 * codeWidth code ∨ (code ≠ 0 ∧ codeWidth code = 0) then body.getD i 0 else 0

/-- What an element that copies writes at each place: its bytes, or the body and the head of a block. -/
def copied (c : Command) (bs : List (List Byte)) : List (List Byte) :=
  if layDesc c.sl then [bodyCopied (bs.getD 1 []) (bs.getD 0 []), bs.getD 1 []] else [bs.getD 0 []]

/-- What XCONV makes of block e: its body and its head; under rounding mode 4 with the random words of a generator that starts from the
captured seed, the tile and the number of the command, and e (R44, R254, R255). -/
def convBlock (c : Command) (k : Nat) (bs : List (List Byte)) : List Byte × Nat :=
  let ty := layFmt c.dl
  let w := codeWidth ty
  let g := (c.word.cap.seed.toNat ^^^ (c.vtile.getD k) * 0x9E3779B9 ^^^ c.word.cap.q * 0x85EBCA6B ^^^ c.e * 0x2545F491) % 2 ^ 32
  let us := (List.range 32).map fun i => if c.var = 4 then xorshiftN (i + 1) (if g = 0 then 1 else g) / 2 ^ 16 % 2 ^ 16 else 0
  let q := quantGroup (codeType ty) c.var us (bs.map fun b => (fmtOfTy (layFmt c.sl)).decode (ofBytes b))
  (toBytes 64 (((List.range 32).map fun i => (q.2.2.getD i (0, 0)).1 % 2 ^ w * 2 ^ (w * i)).sum), ty + 256 * q.1)

/-- A push of a head, or of a payload that is not empty, or of both, to a side's queues. -/
def pushOf (side : Nat) (head : Option Nat) (payload : List Byte) : Option HeldPush :=
  if head = none ∧ payload = [] then none
  else some { side := side, head := head.map (BitVec.ofNat 16), payload := if payload = [] then none else some payload }

/-- What an XCOPY to a stream pushes: a block its head and its payload; a value its bytes to a FIFO, two .e2m1 values in one byte, or to a
scale queue as a head (R251, Table 13-2). -/
def streamed (c : Command) (bs : List (List Byte)) : Option HeldPush :=
  let b := layBase c.dl % 4
  let v := bs.getD 0 []
  if layDesc c.sl then
    pushOf (b % 2) (some (ofBytes (bs.getD 1 []))) (v.take (4 * codeWidth (((bs.getD 1 []).getD 0 0).toNat)))
  else if 2 ≤ b then pushOf (b % 2) (some (ofBytes v)) []
  else if layFmt c.sl = 15 then
    (if bs.length = 2 then pushOf b none [BitVec.ofNat 8 ((v.getD 0 0).toNat + 16 * ((bs.getD 1 []).getD 0 0).toNat)] else none)
  else pushOf b none v

/-- What an XRED or an XATOM applies to its destination: its operation, and the operand made of the bytes read. -/
def atomArgs (c : Command) (bs : List (List Byte)) : Nat × Nat :=
  if c.fn = 7 then
    (if c.sub % 2 = 1 then c.var % 4 else 6,
      match bs.map ofBytes with | [] => 0 | v :: vs => vs.foldl (atomOp (layFmt c.dl) (c.var % 4)) v)
  else (c.var, ofBytes (bs.getD 0 []))

/-- An element of XCOPY from plain or described storage, XGATH, XSCAT, XTRAN, XCONV, XMCST, XRED or XATOM, with the index of its row read
from the list where the row begins (R252): what it writes and pushes. -/
def PlainElements : Prop :=
  ∀ (s : State) (k n : Nat) (c0 : Command) (reads writes : List Machine.Acc), ElementGoes s k n c0 → c0.expands = false →
    let x := s.tile k
    let c := c0.withIx x c0.e
    let stays (t : State) (_ : List (List Byte)) : Prop := SameDies s t
    let goes (_ : List (List Byte)) : Command := c
    let anyBytes (_ : List (List Byte)) : Prop := True
    let noPush (_ : List (List Byte)) : Option HeldPush := none
    c.accs x k c.e = .ok (reads, writes) →
    (c.fn ∈ [1, 2, 3, 4] → laySpace c.dl ≠ 3 →
      Performs s k n c reads writes anyBytes (fun bs _ => if c.fn = 1 then copied c bs else [bs.getD 0 []]) goes noPush stays) ∧
    (c.fn = 6 → Performs s k n c reads writes anyBytes (fun bs _ => c.mask.flatMap fun _ => copied c bs) goes noPush stays) ∧
    (c.fn = 5 → laySpace c.dl ≠ 3 → Performs s k n c reads writes anyBytes
      (fun bs _ => [(convBlock c k bs).1, toBytes 2 (convBlock c k bs).2]) goes noPush stays) ∧
    (c.fn = 1 → laySpace c.dl = 3 → Performs s k n c reads writes anyBytes (fun _ _ => []) goes (streamed c) stays) ∧
    (c.fn = 5 → laySpace c.dl = 3 → Performs s k n c reads writes anyBytes (fun _ _ => []) goes
      (fun bs => pushOf (layBase c.dl % 2) (some (convBlock c k bs).2) ((convBlock c k bs).1.take (4 * codeWidth (layFmt c.dl)))) stays) ∧
    (c.fn ∈ [7, 8] → (∀ w ∈ writes, w.high = none ∧ ∃ u a, w.loc = .sp u a) → Performs s k n c reads writes anyBytes
      (fun bs olds =>
        let old := ofBytes (olds.getD 0 [])
        let a := atomArgs c bs
        toBytes (xBytes c.dl) (atomOp (layFmt c.dl) a.1 old a.2) :: (if writes.length = 2 then [toBytes (xBytes c.dl) old] else [])) goes noPush stays)

/-- An element of XRED or XATOM on memory: the operation goes to the write queue of its line, with its operand and where the old value
returns; the command waits for it (R236, R257, R258). -/
def AtomicElements : Prop :=
  ∀ (s : State) (k n : Nat) (c0 : Command) (reads writes : List Machine.Acc) (v pa len : Nat) (w : Machine.Acc) (ws : List Machine.Acc) (y : Touched) (zs : List Touched)
    (s1 s2 : State) (rs : List Touched), ElementGoes s k n c0 → c0.fn ∈ [7, 8] → s.cuts = [] →
    let x := s.tile k
    let c := c0.withIx x c0.e
    let kc : XCtx := { t := k, c := c, e := c.e }
    let bs := rs.map fun r => (cellsOf r).map (cellOf s)
    let d := dieOfLine (pa / 64)
    c.accs x k c.e = .ok (reads, writes) → writes = w :: ws → w.loc = .va v → touchAll kc reads s = (s1, .ok rs) →
    touchAll kc writes s1 = (s2, .ok (y :: zs)) → (∀ z ∈ rs ++ y :: zs, Near z) → y.spots = [.at (.mem pa) len] → 0 < len →
    ∃ t o, exec (.elementPerform k n) s = .next t ∧ (t.die d).wqIn = (s.die d).wqIn ++ [o] ∧ (∀ e, e ≠ d → (t.die e).wqIn = (s.die e).wqIn) ∧
      o.tile = k ∧ o.cslot = c.cslot ∧ o.e = c.e ∧ o.q = c.word.cap.q ∧ o.pas = (List.range len).map (pa + ·) ∧ o.ty = layFmt c.dl ∧
      o.op = (atomArgs c bs).1 ∧ o.x.toNat = (atomArgs c bs).2 % 2 ^ 64 ∧
      o.ret = (match ws.head?.map Machine.Acc.loc with | some (.sp u a) => some (u, a) | _ => none) ∧
      o.slot = (match x.point with | some p => p.slot | none => 64) ∧
      (t.tile k).chan = (x.setCmd (stepped { c with opsOut := c.opsOut + 1 })).chan ∧ (∀ p, p.1 ≤ 1 → cellOf t p = cellOf s p) ∧
      besideElem (t.tile k) = besideElem x ∧ (∀ j, j ≠ k → t.tile j = s.tile j) ∧
      (∀ e, { t.die e with tlb := [], descs := [], wqIn := [] } = { s.die e with tlb := [], descs := [], wqIn := [] }) ∧
      { t with tiles := s.tiles, dies := s.dies, trail := s.trail, fresh := s.fresh } = s

/-- An element of XAPND: the item goes into the slot behind the last of the list and is counted, a release of what the tile and its
channel have written; with a full list, or a point away, it holds its channel. An element of XPREF changes translation entries alone. XWAIT waits on its semaphore
once, and with what it takes, or at once with 0, is an acquire for the younger commands of its channel. An element whose place is no
place, or whose read or write traps, ends its command, which traps as the oldest (R259, R261, R262, R265, R309, R315). -/
def ListElements : Prop :=
  ∀ (s : State) (k n : Nat) (c : Command), ElementGoes s k n c →
    let x := s.tile k
    let r := exec (.elementPerform k n) s
    (c.fn = 9 → ∀ u l s1 z, let y := s.tile u
      s.appendTo k c.word = .tile u → y.isList = true → s.sameCtx k u = true → y.nwl ≠ 0 → y.wlGone = false → y.wlDone = false →
      c.itemAt k c.e = .ok l → touchAll { t := k, c := c, e := c.e } [⟨l, 64, .read, 0, none⟩] s = (s1, .ok [z]) → Near z →
      (y.wlCap ≤ y.wlCount → r = .next (s.setTile k (x.setCmd { c with full := true }))) ∧
      (y.wlCount < y.wlCap → y.wlSlot ((y.wlHead + y.wlCount) % y.wlCap) + 64 ≤ 2 ^ 22 →
        let b := y.wlSlot ((y.wlHead + y.wlCount) % y.wlCap)
        ∃ t, r = .next t ∧ (∀ i p, i < 64 → (cellsOf z)[i]? = some p → Memory.read (t.tile u).sp (b + i) = cellOf s p) ∧
          SpOutside y (t.tile u) b 64 ∧ (t.tile u).wlCount = y.wlCount + 1 ∧ SameMemory s t ∧ SameDies s t ∧
          (∀ j, j ≠ u → (t.tile j).sp = (s.tile j).sp ∧ (t.tile j).wlCount = (s.tile j).wlCount) ∧
          (t.tile k).chan = (x.setCmd (stepped { c with full := false })).chan ∧ (∀ j, j ≠ k → (t.tile j).chan = (s.tile j).chan) ∧
          (∀ j, renewed { t.tile j with sp := [], wlCount := 0, chan := [], pcs := [], movedRest := 0 } =
            renewed { s.tile j with sp := [], wlCount := 0, chan := [], pcs := [], movedRest := 0 }) ∧
          (∀ m, s.launchOf u = some m → t.launchOf u = some { m with cntA := m.cntA + 1, idle := 0 }) ∧
          { t with tiles := s.tiles, dies := s.dies, trail := s.trail, fresh := s.fresh, launches := s.launches } = s)) ∧
    (c.fn = 9 → (s.appendTo k c.word = .away → r = .next (s.setTile k (x.setCmd { c with full := true })))) ∧
    (c.fn = 12 → ∃ t, r = .next t ∧ (t.tile k).chan = (x.setCmd (stepped c)).chan ∧ { t.tile k with chan := [], pcs := [] } = { x with chan := [], pcs := [] } ∧
      (∀ j, j ≠ k → t.tile j = s.tile j) ∧ (∀ d, { t.die d with tlb := [], descs := [] } = { s.die d with tlb := [], descs := [] }) ∧
      { t with tiles := s.tiles, dies := s.dies, trail := s.trail, fresh := s.fresh } = s) ∧
    (c.fn = 11 →
      let m := c.val 4 % 2 ^ 32
      let ended := (x.setCmd { c with e := 1, done := true }).chan
      (0 < m → (∀ w ∈ x.waiters, w.eng ≠ .X) → ∃ t, r = .next t ∧ OnlyTile k s t ∧
        (t.tile k).waiters = addWaiter { eng := .X, sem := c.xc.sem.toNat, n := m, start := s.scyc, below := decide (x.sem c.xc.sem.toNat < m) } x.waiters ∧
        (t.tile k).chan = (x.setCmd { c with waiting := true }).chan ∧ { t.tile k with waiters := [], chan := [] } = { x with waiters := [], chan := [] }) ∧
      (∀ w, 0 < m → x.waiters.find? (fun v => v.eng == .X) = some w → w.served = false → r = .next s) ∧
      (∀ w, 0 < m → x.waiters.find? (fun v => v.eng == .X) = some w → w.served = true → ∃ t, r = .next t ∧ OnlyTile k s t ∧
        (t.tile k).chan = ended ∧ (∀ v, v ∈ (t.tile k).waiters ↔ v ∈ x.waiters ∧ v.eng ≠ .X) ∧
        { t.tile k with waiters := [], chan := [] } = { x with waiters := [], chan := [] }) ∧
      (m = 0 → ∃ t, r = .next t ∧ OnlyTile k s t ∧ (t.tile k).chan = ended ∧ { t.tile k with chan := [] } = { x with chan := [] })) ∧
    (c.transforms = false → c.expands = false → c.fn ≠ 11 → c.fn ≠ 12 → ∀ f, (c.withIx x c.e).accs x k c.e = .error f →
      ∃ t, r = .next t ∧ { t with trail := s.trail } = s.setTile k (x.setCmd { c.withIx x c.e with trap := some (f.1, BitVec.ofNat 64 f.2), done := true }))

/-- A read of n bytes at a location, and a write. -/
def readAt (l : XLoc) (n opnd : Nat) : Machine.Acc := ⟨l, n, .read, opnd, none⟩
def writeAt (l : XLoc) (bs : List Byte) : Machine.Acc := ⟨l, bs.length, .write, 1, none⟩

/-- The element of a transforming command performs as a copy of fixed bytes to fixed places would. -/
def PerformsAs (s : State) (k n : Nat) (c : Command) (reads : List Machine.Acc) (ok : List (List Byte) → Prop) (outs : List (XLoc × List Byte))
    (after : Command) : Prop :=
  Performs s k n c reads (outs.map fun p => writeAt p.1 p.2) ok (fun _ _ => outs.map fun p => p.2) (fun _ => after) (fun _ => none)
    (fun t _ => SameDies s t)

/-- An element of XHDR copies a valid header; one of XTLD puts a table state into the table SRAM of its die, with no lane on the states it
loads; one of XFST gives its input byte to the lane, whose output bytes go behind those before, from coordinate 16 on, and ends the
command where the lane fails, the lane's result standing at coordinates 0 to 15, as it does after the last byte (R200, R270, R283,
R284, R285). -/
def TableElements : Prop :=
  ∀ (s : State) (k n : Nat) (c0 c : Command) (l : XLoc), ElementGoes s k n c0 → s.takeLane k c0 = some c →
    let sram := (s.die (s.dieOf k)).tsram
    (c.fn = 0x13 → ∀ b h, c.unitAt k 64 0 = .ok l → c.baseAt k = .ok b → bufValid (ofBytes h) = true → h.length = 64 →
      PerformsAs s k n c [readAt l 64 0] (fun bs => bs = [h]) [(b, h)] c) ∧
    (c.fn = 0x18 → c.unitAt k 1024 c.e = .ok l → (∀ g ∈ s.lanesOn (s.dieOf k), tabsMeet (c.val 2 % 2 ^ 13) (c.val 4) (tabBase g) (tabStates g) = false) →
      Performs s k n c [readAt l 1024 0] [] (fun _ => True) (fun _ _ => []) (fun _ => c) (fun _ => none) (fun t bs =>
        let a := (c.val 2 % 2 ^ 13 + c.e) * 1024
        let d := s.dieOf k
        (∀ i, i < 1024 → Memory.read (t.die d).tsram (a + i) = (bs.getD 0 []).getD i 0) ∧
        (∀ i, (i < a ∨ a + 1024 ≤ i) → Memory.read (t.die d).tsram i = Memory.read sram i) ∧
        (∀ e, (t.die e).wqIn = (s.die e).wqIn ∧ (e ≠ d → (t.die e).tsram = (s.die e).tsram)))) ∧
    (c.fn = 0x19 → ∀ (at_ : Nat → XLoc),
      let placed (off : Nat) (bs : List Byte) : List (XLoc × List Byte) := bs.zipIdx.map fun p => (at_ (off + p.2), [p.1])
      let inside (off m : Nat) : Prop := ∀ j, off ≤ j → j < off + m → xAt k c.dl 1 (c.co 2 + (j : Int)) = .ok (at_ j)
      (∀ ln o v, c.e < c.count → c.unitAt k 1 c.e = .ok l → laneByte sram (c.val 1) v 1025 c.lane = some (ln, o) →
        inside (16 + c.lane.outCount) o.length → (ln.failed = true → inside 0 16) →
        PerformsAs s k n c [readAt l 1 0] (fun bs => bs = [[v]])
          (placed (16 + c.lane.outCount) o ++ if ln.failed then placed 0 (laneResult ln) else [])
          { c with lane := ln, e := if ln.failed then c.count else c.e }) ∧
      (c.count ≤ c.e → inside 0 16 → PerformsAs s k n c [] (fun _ => True) (placed 0 (laneResult c.lane)) c))

/-- An element of XCOMP: the header but for W3 goes with the first element (codec 3 checks the one that stands there); a line of codec 0 is copied
behind it; the lines of a frame are read with its last, encoded, and written with their table entry; W3 goes last (R272, R275). -/
def CompressElements : Prop :=
  ∀ (s : State) (k n : Nat) (c0 c : Command) (b : XLoc) (idx : List Nat) (ls : List (XLoc × XLoc)), ElementGoes s k n c0 → s.takeLane k c0 = some c →
    c.fn = 0x10 → c.baseAt k = .ok b →
    let two := c.codec == 2
    let whole : Prop := c.codec ≠ 0 ∧ (c.e % 64 = 63 ∨ c.count ≤ c.e + 1)
    let last : Prop := c.count ≤ c.e + 1
    let start := if c.codec = 0 then 64 else 64 + 64 * ((8 * c.frames + 63) / 64)
    let pos := if c.e = 0 then start else c.outPos
    let headRead : List Machine.Acc := if c.codec = 3 ∧ c.e = 0 then [readAt b 64 1] else []
    let headOk (bs : List (List Byte)) : Prop := c.codec = 3 → c.e = 0 → bufValid (ofBytes (bs.getLastD [])) = true ∧ bufCodec (ofBytes (bs.getLastD [])) = 3
    let h := toBytes 64 (bufHeader c.codec c.point c.planes (c.val 4) c.frames)
    let head : List (XLoc × List Byte) := if c.codec ≠ 3 ∧ c.e = 0 then [(b, h.take 24), (b.plus 32, h.drop 32)] else []
    let w3 (stored : Nat) : List (XLoc × List Byte) := [(b.plus 24, toBytes 8 (stored % 2 ^ 48))]
    (c.count = 0 → PerformsAs s k n c headRead headOk (head ++ w3 start) { c with outPos := start }) ∧
    (c.count ≠ 0 → (whole → idx = (List.range (c.e % 64 + 1)).map (64 * (c.e / 64) + ·)) → (¬ whole → idx = [c.e]) → ls.length = idx.length →
      (∀ p ∈ idx.zip ls, if two then c.blockAt k p.1 = .ok p.2 else c.unitAt k 64 p.1 = .ok p.2.1) →
      let reads := (ls.flatMap fun p => if two then [readAt p.1 64 0, readAt p.2 2 0] else [readAt p.1 64 0]) ++ headRead
      let lines (bs : List (List Byte)) : List (List Byte × Nat) := (List.range idx.length).map fun i =>
        if two then (bs.getD (2 * i) [], ofBytes (bs.getD (2 * i + 1) [])) else (bs.getD i [], 0)
      (c.codec = 0 → ∀ line, line.length = 64 → PerformsAs s k n c reads (fun bs => headOk bs ∧ bs.getD 0 [] = line)
        (head ++ [(b.plus pos, line)] ++ if last then w3 (pos + 64) else []) { c with outPos := pos + 64 }) ∧
      (c.codec ≠ 0 → ¬ whole → PerformsAs s k n c reads headOk head { c with outPos := pos }) ∧
      (whole → ∀ mode enc, PerformsAs s k n c reads
        (fun bs => headOk bs ∧ encodeFrame c.codec c.planes (s.die (s.dieOf k)).tsram (c.val 1) (lines bs) = some (mode, enc))
        (head ++ (if enc = [] then [] else [(b.plus pos, enc)]) ++
          [(b.plus (64 + 8 * (c.e / 64)), toBytes 8 (c.point * 2 ^ 56 + mode * 2 ^ 54 + enc.length * 2 ^ 41 + pos % 2 ^ 41))] ++
          if last then w3 (pos + enc.length) else [])
        { c with outPos := pos + 64 * ((enc.length + 63) / 64) }))

/-- An element of XMRG, the block n of a valid tolerant buffer on pages that allow it: a block that has a reference is left; otherwise the
candidate of its sum's slot, where it is another block, has no reference of its own and lies within the tolerance, becomes its reference, and
in every other case the block becomes the slot's candidate (R280). An element of XSNAP: a block whose digest stands in its entry, which is not
all zero, is left; another is appended with its number and digest, and its entry renewed; after the last the delta's head is written (R201, R282). -/
def MergeElements : Prop :=
  ∀ (s : State) (k n : Nat) (c : Command) (h : List Byte), ElementGoes s k n c →
    (c.fn = 0x11 → bufValid (ofBytes h) = true → bufTol (ofBytes h) = true → ∀ (r blk cb rc other : List Byte),
      let hd := ofBytes h
      let base := bufBase k c.dl
      let m := c.val 2 + c.e
      let ref (i : Nat) : XLoc := base.plus (bufRef hd + 4 * i)
      let line (i : Nat) : XLoc := base.plus (64 + 64 * i)
      let slot : XLoc := base.plus (bufCand hd + 4 * (tolSum (bufTfmt hd) blk % 1024))
      let cand := ofBytes cb
      let none_ := 0xFFFFFFFF
      let rd2 := [readAt base 64 1, readAt (ref m) 4 1]
      let rd4 := rd2 ++ [readAt (line m) 64 1, readAt slot 4 1]
      let rd5 := rd4 ++ [readAt (ref cand) 4 1]
      let rd6 := rd5 ++ [readAt (line cand) 64 1]
      (ofBytes r ≠ none_ → PerformsAs s k n c rd2 (fun bs => bs = [h, r]) [] c) ∧
      (ofBytes r = none_ → (cand = none_ ∨ cand = m) → PerformsAs s k n c rd4 (fun bs => bs = [h, r, blk, cb]) [(slot, toBytes 4 m)] c) ∧
      (ofBytes r = none_ → cand ≠ none_ → cand ≠ m → ofBytes rc ≠ none_ →
        PerformsAs s k n c rd5 (fun bs => bs = [h, r, blk, cb, rc]) [(slot, toBytes 4 m)] c) ∧
      (ofBytes r = none_ → cand ≠ none_ → cand ≠ m → ofBytes rc = none_ →
        PerformsAs s k n c rd6 (fun bs => bs = [h, r, blk, cb, rc, other])
          [if within (bufTfmt hd) (bufTolu hd) blk other then (ref m, toBytes 4 cand) else (slot, toBytes 4 m)] c)) ∧
    (c.fn = 0x12 → ∀ b, c.baseAt k = .ok b →
      (∀ l blk old, c.e < c.count → c.unitAt k 4096 c.e = .ok l →
        let digest := shake256 16 blk
        let entry : XLoc := .va (c.val 1 + 16 * c.e)
        let reads := [readAt l 4096 0, readAt entry 16 0]
        ((∃ v ∈ old, v ≠ 0) → old = digest → PerformsAs s k n c reads (fun bs => bs = [blk, old]) [] c) ∧
        (¬ ((∃ v ∈ old, v ≠ 0) ∧ old = digest) → PerformsAs s k n c reads (fun bs => bs = [blk, old])
          [(b.plus (64 + 4160 * c.outPos), toBytes 8 c.e ++ digest ++ List.replicate 40 0 ++ blk), (entry, digest)]
          { c with outPos := c.outPos + 1 })) ∧
      (c.count ≤ c.e → PerformsAs s k n c [] (fun _ => True)
        [(b, toBytes 8 0x44535848 ++ toBytes 8 (c.outPos % 2 ^ 32) ++ toBytes 8 (c.val 4 % 2 ^ 48) ++ List.replicate 40 0)] c))

/-- An element of an XCOPY from a compressed buffer that no other channel is writing: its block's line, of a tolerant buffer the line that the
block's reference names, plain or decoded with its frame, is the source of a copy (R251, R276, R281). -/
def ExpandElements : Prop :=
  ∀ (s : State) (k n : Nat) (c0 c : Command) (h rf ent enc line : List Byte) (head j : Nat) (writes : List Machine.Acc), ElementGoes s k n c0 → s.takeLane k c0 = some c →
    c.expands = true → c.fn = 1 → s.race k c = (.as, s) →
    let x := s.tile k
    let hd := ofBytes h
    let base := bufBase k c.sl
    let w := xBits c.sl
    let i := c.e * w / 512
    let e := ofBytes ent
    bufValid hd = true → expandBad c hd c.e = none → h.length = 64 →
    let known := c.ref.filter fun p => p.1 == i
    (bufTol hd = false → j = i ∧ rf = []) → (∀ p, bufTol hd = true → known = some p → j = p.2 ∧ rf = []) →
    (bufTol hd = true → known = none → rf.length = 4 ∧ j = if ofBytes rf = 0xFFFFFFFF then i else ofBytes rf) →
    let refRead : List Machine.Acc := if rf = [] then [] else [readAt (base.plus (bufRef hd + 4 * i)) 4 0]
    let lineReads : List Machine.Acc := if bufCodec hd = 0 then [readAt (base.plus (64 + 64 * j)) 64 0]
      else readAt (base.plus (64 + 8 * (i / 64))) 8 0 :: if entLen e = 0 then [] else [readAt (base.plus (entOff e)) (entLen e) 0]
    let seen : List (List Byte) := [h] ++ (if rf = [] then [] else [rf]) ++
      (if bufCodec hd = 0 then [line] else ent :: if entLen e = 0 then [] else [enc])
    (bufCodec hd = 0 → head = 0) →
    (bufCodec hd ≠ 0 → ∃ ls, decodeFrame hd (s.die (s.dieOf k)).tsram (entMode e) (frameRaw (bufRaw hd) (i / 64)) (if entLen e = 0 then [] else enc) = .ok ls ∧
      (line, head) = ls.getD (i % 64) ([], 0)) →
    let at_ (p : Nat) (m : Nat) : Nat := ofBytes line / 2 ^ p % 2 ^ m
    let p := c.e * w % 512
    let source : List (List Byte) := if layDesc c.sl then [line, toBytes 2 head]
      else if layFmt c.sl = 15 ∧ laySpace c.dl = 3 ∧ c.e % 2 = 1 then [toBytes 1 (at_ (p - 4) 4), toBytes 1 (at_ p w)]
      else [toBytes (xBytes c.sl) (at_ p w)]
    let after : Command := { c with ref := if bufTol hd then some (i, j) else none }
    (laySpace c.dl ≠ 3 → accsAt c.dlNo c.e .write 1 (c.dstAt x k (layPeer c.dl) c.e) = .ok writes →
      Performs s k n c (readAt base 64 0 :: refRead ++ lineReads) writes (fun bs => bs = seen) (fun _ _ => copied c source) (fun _ => after) (fun _ => none)
        (fun t _ => SameDies s t)) ∧
    (laySpace c.dl = 3 →
      Performs s k n c (readAt base 64 0 :: refRead ++ lineReads) [] (fun bs => bs = seen) (fun _ _ => []) (fun _ => after) (fun _ => streamed c source)
        (fun t _ => SameDies s t))

/-! ### Module memory -/

/-- Bytes at a physical address have taken the values given, and no other byte differs. -/
def BytesPut (s t : State) (pa : Nat) (bs : List Byte) : Prop :=
  ∀ a, t.readPA1 a = if pa ≤ a ∧ a < pa + bs.length then bs.getD (a - pa) 0 else s.readPA1 a

/-- Nothing but the count of refused BAR2 accesses differs: it is one more, up to its maximum (R402). -/
def CountsAbort (s t : State) : Prop :=
  t.ctl.abortCnt.toNat = min (s.ctl.abortCnt.toNat + 1) (2 ^ 32 - 1) ∧ { t with ctl := { t.ctl with abortCnt := s.ctl.abortCnt } } = s

/-- Of the older contents that hosts may still read, those are gone that a release at system scope under one of the numbers has ordered
(R24, R298). -/
def HostsAcquire (s t : State) (ns : Nat → Prop) : Prop :=
  ∀ c, c ∈ t.hostOld ↔ c ∈ s.hostOld ∧ ∀ n, ns n → ∀ m ∈ c.marks, ¬ Released m n 3

/-- What a die's undo log keeps of itself: its entries' bytes, the lines that have one, and whether it has asked for a mark early. -/
def logsOf (s : State) (d : Nat) : Nat × List Nat × Bool := ((s.die d).undoUsed, (s.die d).undoLines, (s.die d).undoEarly)

/-- The command that hears of an operation on its way to a write queue: it is still its tile's, and has operations out (R236, R258). -/
def heardBy (s : State) (o : WqOp) : Option Command :=
  ((s.tile o.tile).cmd? o.cslot).filter fun c => c.opsOut != 0 && (s.tile o.tile).point.map Point.slot == some o.slot

/-- The k-th operation on its way to die d has been applied: its bytes hold its result on what they held, it has left the queue, its command
has one less out and, where it returns a value, has the old bytes at its place; and a die that has taken a cut before it, its sender's not,
records it with the link that has brought it (R8, R236, R258, R393). Memory outside its bytes and the undo logs are said beside it. -/
def OperationDone (s t : State) (d k : Nat) (o : WqOp) : Prop :=
  let old := o.pas.map s.readPA1
  let from_ := s.dieOf o.tile
  let link := 16 + if (d + 8 - from_) % 8 ≤ 4 then (d + 7) % 8 else d
  let back : Option (Nat × Nat) := (heardBy s o).bind fun _ => o.ret
  (∀ i (h : i < o.pas.length), t.readPA1 o.pas[i] = (toBytes o.pas.length (atomOp o.ty o.op (ofBytes old) o.x.toNat)).getD i 0) ∧
  (t.die d).wqIn = (s.die d).wqIn.eraseIdx k ∧ (∀ j, j ≠ d → (t.die j).wqIn = (s.die j).wqIn) ∧
  (∀ j, (t.tile j).chan = match (if j = o.tile then heardBy s o else none) with
    | some c => ((s.tile j).setCmd { c with opsOut := c.opsOut - 1 }).chan
    | none => (s.tile j).chan) ∧
  (∀ u a, back = some (u, a) → SpOutside (s.tile u) (t.tile u) a old.length ∧
    ∀ i, i < old.length → Memory.read (t.tile u).sp (a + i) = old.getD i 0) ∧
  (∀ j, (∀ a, back ≠ some (j, a)) → (t.tile j).sp = (s.tile j).sp) ∧
  (∀ j, renewed { t.tile j with chan := [], sp := [] } = renewed { s.tile j with chan := [], sp := [] }) ∧
  (let blank (x : Die) : Die := { x with wq := [], wqIn := [], undoUsed := 0, undoLines := [], undoEarly := false }
   ∀ j, blank (t.die j) = blank (s.die j)) ∧
  t.cuts = (if o.cut = true ∨ from_ = d then s.cuts
    else s.cuts.map fun c => if c.die = 16 + d then { c with ops := c.ops ++ [(link, o)] } else c) ∧
  { t with tiles := s.tiles, dies := s.dies, mem := s.mem, cuts := s.cuts, trail := s.trail, markAsked := s.markAsked } = s

/-! ### Points -/

/-- The rows of a tile as a point of a launch finds them (R21, R85): code rows as the launch's segment in memory holds them, unless the
last point on the tile was of the same launch; every other row as it was where the last point had the same context or there was none
(log 65), else 0. -/
def RowsReady (s : State) (l : Launch) (x y : Tile) : Prop :=
  let lo := 256 * hdrField l.hdr 4 20 14
  let n := hdrField l.hdr 4 34 14
  y.codeOf = some l.seq ∧ y.lastCtx = some l.tctx ∧
    (∀ a, a < lo ∨ lo + 256 * n ≤ a → Memory.read y.sp a = if x.lastCtx = none ∨ x.lastCtx = some l.tctx then Memory.read x.sp a else 0) ∧
    (x.lastCtx ≠ some l.tctx ∨ x.codeOf ≠ some l.seq → ∀ r ctx va bs i, r < n → l.codeAt = some (ctx, va) →
      s.readVA ctx (va + 256 * r) 256 = some bs → i < 256 → Memory.read y.sp (lo + 256 * r + i) = bs.getD i 0) ∧
    (x.lastCtx = some l.tctx → x.codeOf = some l.seq → y.sp = x.sp)

/-! ### What the launch processor does -/

/-- The completion word of a launch (R24, R194): a VA that does not translate gives a kind 11 record; on a page that migrates, of a far
module that no link reaches, and of a checkpointed launch with a full undo log it must wait; else its bytes are written, and nothing else. -/
def CompletionWords : Prop :=
  ∀ (s : State) (log : Option Nat) (ctx va lid status : Nat),
    let r := s.putCompletion log ctx va lid status
    let word := toBytes 8 (lid + status * 64)
    (s.mapped ctx va 8 .write = false → r = some (s.pushRing .fq [11 * 2 ^ 60 + va % 2 ^ 57, status, lid, 0])) ∧
    (∀ l, s.translate ctx va .write = .ok l → va % 65536 ≤ 65528 →
      (pteMig l.pte = true → r = none) ∧
      (∀ pa, pteMig l.pte = false → l.place (va % 2 ^ 57) = .mem pa → pa + 8 ≤ 768 * 2 ^ 30 → log = none →
        ∃ t, r = some t ∧ BytesPut s t pa word ∧ { t with mem := s.mem, dies := s.dies, doneAt := s.doneAt } = s) ∧
      (∀ port a, pteMig l.pte = false → l.place (va % 2 ^ 57) = .host port a → ∃ t, r = some t ∧
        (∀ b, Memory.read t.hostMem b = if hostKey port a ≤ b ∧ b < hostKey port a + 8 then word.getD (b - hostKey port a) 0
          else Memory.read s.hostMem b) ∧ { t with hostMem := s.hostMem, hostOld := s.hostOld, doneAt := s.doneAt } = s) ∧
      (∀ m pa, l.place (va % 2 ^ 57) = .far m pa → s.linkTo m = false → r = none) ∧
      (∀ slot pa, log = some slot → l.place (va % 2 ^ 57) = .mem pa → pa % 64 ≤ 56 →
        let x := s.die (dieOfLine (pa / 64))
        pa / 64 ∉ x.undoLines → 2 ^ 30 < x.undoUsed + 72 → r = none)) ∧
    s.sendCompletion log ctx va lid status = r.getD { s with doneWait := s.doneWait ++ [⟨log, ctx, va, lid, status⟩] }

/-- A tile whose point has ended holds nothing of it but what a later point of its context may find in the rows (R19, R21). -/
def Emptied (x y : Tile) : Prop :=
  y.point = none ∧ y.stop = none ∧ y.secs = [] ∧ y.chan = [] ∧ y.inflight = [] ∧ y.late = [] ∧ y.rowsOut = [] ∧ y.waiters = [] ∧
    y.copies = [] ∧ y.sp = x.sp

/-- The slot is free, with nothing left of its launch in the launch processor's queues; no other slot differs. -/
def SlotFreed (v t : State) (slot : Nat) : Prop :=
  t.launch? slot = none ∧ (∀ n, n ≠ slot → t.launch? n = v.launch? n) ∧ t.parkedQ = v.parkedQ.filter (fun p => p.1 != slot) ∧
    t.resumeWait = v.resumeWait.filter (fun p => p.1 != slot) ∧ t.heldFail = v.heldFail.filter (fun p => p.1 != slot) ∧
    t.savedKind = v.savedKind.filter fun p => p.1 != slot

/-- A kill stops every point of its launch without saving it. It ends with the completion word, of status 0, once nothing that its commands
have sent is on its way: the slot is then free with the reason in SLOT_STAT, the trap vector is raised, and no successor is decremented;
until then the slot shows its launch stopping (R367). -/
def KillEffect : Prop :=
  (∀ (s : State) (slot why : Nat) (l : Launch), s.launch? slot = some l →
    let t := s.kill slot why
    let u := s.vacateAll (s.tilesOf slot)
    (l.dying ≠ none → t = s) ∧
    (l.dying = none →
      (∀ k, (k ∈ s.tilesOf slot → Emptied (s.tile k) (u.tile k)) ∧ (k ∉ s.tilesOf slot → u.tile k = s.tile k)) ∧
      { u with tiles := s.tiles } = s ∧
      (s.slotOps slot = true ∨ u.writeCompletion l slot 0 = none →
        t.launch? slot = some { l with dying := some why, state := 2, pts := [] } ∧ (∀ n, n ≠ slot → t.launch? n = s.launch? n) ∧
        t.parkedQ = s.parkedQ.filter (fun p => p.1 != slot) ∧ { t with launches := s.launches, parkedQ := s.parkedQ } = u) ∧
      (s.slotOps slot = false → ∀ v, u.writeCompletion l slot 0 = some v → Killed v t slot why l))) ∧
  (∀ (s : State) (slot why : Nat) (l : Launch), s.launch? slot = some l → l.dying = some why →
    let t := s.settleKill slot
    (s.slotOps slot = true ∨ s.writeCompletion l slot 0 = none → t = s) ∧
    (s.slotOps slot = false → ∀ v, s.writeCompletion l slot 0 = some v → Killed v t slot why l))
where
  Killed (v t : State) (slot why : Nat) (l : Launch) : Prop :=
    SlotFreed v t slot ∧ Tab.get? slot t.ctl.why = some why ∧ { t.ctl with why := [] } = { v.ctl with why := [] } ∧
      t.msix = v.msix ++ [v.ctl.trapVec.toNat] ∧ (∀ g, l.gang = some g → t.gang? g = none) ∧ (l.gang = none → t.gangs = v.gangs) ∧
      { t with
        launches := v.launches, parkedQ := v.parkedQ, resumeWait := v.resumeWait, heldFail := v.heldFail, savedKind := v.savedKind
        gangs := v.gangs, ctl := v.ctl, msix := v.msix } = v

/-- A launch that has completed gets its word, of status 2; then its slot is free and each successor of its node has a decrement to come,
which a checkpointed launch has logged; a member of another module's gang tells its rank 0. While the word must wait, the launch waits
with it (R24, R343, R358, R379). -/
def FinishEffect : Prop :=
  ∀ (s : State) (slot : Nat) (l : Launch), s.launch? slot = some l →
    let t := s.finishLaunch slot
    (s.writeCompletion l slot 2 = none → t.launch? slot = some { l with held := false, ending := true } ∧
      (∀ n, n ≠ slot → t.launch? n = s.launch? n) ∧ { t with launches := s.launches } = s) ∧
    (∀ v, s.writeCompletion l slot 2 = some v → (∀ n g, l.gang = some n → s.gang? n = some g → g.rank ≠ 0) →
      SlotFreed v t slot ∧
      (let w := l.nodeW.toNat
       t.graphQ = v.graphQ ++ (List.range (min 6 (w / 2 ^ 8 % 2 ^ 8))).map fun i =>
         ⟨w / 2 ^ (64 * (2 + i)) % 2 ^ 64, l.tctx, l.priv, 2, BitVec.ofNat 64 (l.seq * 256 + slot), if l.checkpointed then some slot else none⟩) ∧
      (∀ n g, l.gang = some n → s.gang? n = some g → t.gang? n = none ∧ t.outbox = v.outbox ++ [(.completion, n, g.modOf 0)]) ∧
      (l.gang = none → t.gangs = v.gangs ∧ t.outbox = v.outbox) ∧
      { t with
        launches := v.launches, parkedQ := v.parkedQ, resumeWait := v.resumeWait, heldFail := v.heldFail, savedKind := v.savedKind
        gangs := v.gangs, outbox := v.outbox, graphQ := v.graphQ } = v)

/-- Case c of the list in R194 holds of a launch header, its node carrying a privilege. -/
def HeaderBad (h : BitVec 1024) (priv c : Nat) : Prop :=
  let f := hdrField h
  let width (i : Nat) : Nat := f 1 (7 * i) 7
  let role (i : Nat) : Nat := f 1 (42 + 3 * i) 3
  let ext (r : Nat) : Nat := if r = 1 then f 2 0 17 else if r = 2 then f 2 17 17 else f 2 34 24
  let rows (a n : Nat) : Prop := n ≠ 0 ∧ (a < 4 ∨ 16384 < a + n)
  (c = 1 ∧ 64 < width 0 + width 1 + width 2 + width 3 + width 4 + width 5) ∨
  (c = 2 ∧ ((∃ i, i < 6 ∧ 5 ≤ role i) ∨ ∃ i j, i < j ∧ j < 6 ∧ role i = role j ∧ 1 ≤ role i ∧ role i ≤ 3)) ∨
  (c = 3 ∧ f 0 0 1 = 0 ∧ ∀ i, i < 6 → role i ≠ 3) ∨
  (c = 4 ∧ ∃ r, 1 ≤ r ∧ r ≤ 3 ∧ ((∃ i, i < 6 ∧ role i = r ∧ 2 ^ width i < ext r) ∨ ((∀ i, i < 6 → role i ≠ r) ∧ ext r ≠ 1))) ∨
  (c = 5 ∧ 65536 < ext 1 * ext 2) ∨
  (c = 6 ∧ (5 ≤ f 0 8 3 ∨ ∃ i, i < f 0 8 3 ∧ f 3 (12 * i) 12 = 0)) ∨
  (c = 7 ∧ (f 0 24 10 = 0 ∨ 896 < f 0 24 10 ∨ f 0 14 10 = 0 ∨ f 0 24 10 < f 0 14 10)) ∨
  (c = 8 ∧ (rows (f 4 20 14) (f 4 34 14) ∨ rows (f 5 0 14) (f 5 14 14) ∨
    (f 4 34 14 ≠ 0 ∧ f 5 14 14 ≠ 0 ∧ f 4 20 14 < f 5 0 14 + f 5 14 14 ∧ f 5 0 14 < f 4 20 14 + f 4 34 14))) ∨
  (c = 9 ∧ ∃ b, b < 3 ∧ (f 0 11 3).testBit b = true ∧ priv.testBit b = false) ∨
  (c = 10 ∧ f 13 0 16 = 0 ∧ (f 0 11 3).testBit 2 = false)

/-- A launch is rejected: its record names the header and the condition, and its completion word has status 1 (R194). -/
def rejectedAs (s : State) (hdrVA cond : Nat) (h : BitVec 1024) (lid : Nat) : State :=
  (s.pushRing .fq [9 * 2 ^ 60 + hdrVA % 2 ^ 57, cond, lid, 0]).sendCompletion none (hdrField h 13 0 16) (hdrField h 10 0 64) lid 1

/-- A kernel node's launch: a header that cannot be read gives a kind 9 record of the node; one with a case of R194, the first of them, or
with a table image that cannot be read, condition 12, is rejected and takes no slot; any other takes the lowest free slot, where no launch
waits for one, and else waits in the ready-launch queue. Its columns are 0, or those its saved frontier gives; a frontier that cannot be
restored rejects it with condition 11 (R194, R197, R308, R344, R345, R432). -/
def SubmitEffect : Prop :=
  (∀ (h : BitVec 1024) (priv : BitVec 3), checkHeader h priv ≤ 10 ∧
    (checkHeader h priv = 0 ↔ ∀ c, ¬ HeaderBad h priv.toNat c) ∧
    ∀ c, c ≠ 0 → (checkHeader h priv = c ↔ HeaderBad h priv.toNat c ∧ ∀ d, d < c → ¬ HeaderBad h priv.toNat d)) ∧
  (∀ (s : State) (node : Nat) (w : BitVec 512) (ctx : Nat) (priv : BitVec 3) (lid : W64),
    let va := w.toNat / 2 ^ 64 % 2 ^ 64
    let t := s.submitLaunch node w ctx priv lid
    let s1 := { s with launchSeq := s.launchSeq + 1 }
    (s.readVA ctx va 128 = none → t = s.pushRing .fq [9 * 2 ^ 60 + node % 2 ^ 57, 0, lid.toNat, 0]) ∧
    (∀ b, s.readVA ctx va 128 = some b →
      let h : BitVec 1024 := BitVec.ofNat 1024 (ofBytes b)
      let tctx := hdrField h 13 0 16
      let img (a n : Nat) : Option (List Byte) := if a = 0 then some [] else s.readVA tctx a n
      let li := img (hdrField h 7 0 64) 16384
      let ri := img (hdrField h 8 0 64) 256
      let at_ := hdrField h 12 0 64
      let saved : Prop := hdrField h 0 0 1 = 0 ∧ at_ ≠ 0 ∧ ∃ f, s.readVA tctx at_ 16 = some f ∧
        ofBytes f % 2 ^ 48 = 0x53465848 + 2 ^ 32 ∧ ofBytes f / 2 ^ 64 = va
      (checkHeader h priv ≠ 0 → t = rejectedAs s1 va (checkHeader h priv) h ((s.launchSeq + 1) * 256)) ∧
      (checkHeader h priv = 0 → li = none ∨ ri = none → t = rejectedAs s1 va 12 h ((s.launchSeq + 1) * 256)) ∧
      (∀ lay ring, checkHeader h priv = 0 → li = some lay → ri = some ring → ∃ l : Launch,
        l = { hdrVA := va, hdr := h, seq := s.launchSeq + 1, node := node, nodeW := w, nodeCtx := ctx, nodePriv := priv
              layImg := lay, ringImg := ring, codeAt := l.codeAt, saved := l.saved } ∧
        (l.saved = true ↔ saved) ∧
        (∀ i, s.images.find? (fun i => i.ctx == ctx && i.hdrVA == va) = some i → l.codeAt = some (ctx, i.codeVA)) ∧
        (s.readyQ ≠ [] ∨ (∀ n, n < 64 → s.launch? n ≠ none) → t = { s1 with readyQ := s.readyQ ++ [l] }) ∧
        (∀ slot, s.readyQ = [] → slot < 64 → s.launch? slot = none → (∀ n, n < slot → s.launch? n ≠ none) → s.ctl.replayMode = 0 →
          (¬ saved → l.isList = true ∨ (0 < l.ncol ∧ l.extz ≠ 0) → t.launch? slot = some l ∧
            (∀ n, n ≠ slot → t.launch? n = s.launch? n) ∧ { t with launches := s.launches } = s1) ∧
          (saved → s1.loadFrontier l = none → t = rejectedAs s1 va 11 h ((s.launchSeq + 1) * 256 + slot)) ∧
          (saved → ∀ m cols fly, s1.loadFrontier l = some (m, cols, fly) →
            t = (s1.putFrontier slot m cols fly).checkDone slot))))) ∧
  (∀ (s : State) (slot : Nat) (l : Launch) (cols : List (BitVec 64)) (fly : List (Nat × Nat × Nat)),
    (∀ p ∈ fly, p.1 < cols.length ∧ colH (cols.getD p.1 0) ≤ p.2.1 ∧ p.2.1 ≤ colH (cols.getD p.1 0) + 7) →
    let place (p : Nat × Nat × Nat) : PtPlace := if p.2.2 = 0 then .refire
      else if s.recTrapped l (l.recIdx p.2.2) then .trapped (l.recIdx p.2.2) else .parked (l.recIdx p.2.2)
    let parked := fly.filterMap fun p => match place p with | .parked i => some (slot, i) | _ => none
    let trapped := (fly.filter fun p => match place p with | .trapped _ => true | _ => false).length
    ∃ t m, s.putFrontier slot l cols fly = t ∧ t.launch? slot = some m ∧ (∀ n, n ≠ slot → t.launch? n = s.launch? n) ∧
      m.pts.map (fun p => (p.col, p.z, p.place)) = fly.map (fun p => (p.1, p.2.1, place p)) ∧ m.ntrap = trapped ∧
      (∀ c, colH (m.col c) = colH (cols.getD c 0) ∧ (∀ j, 1 ≤ j → j ≤ 7 → colD (m.col c) j = colD (cols.getD c 0) j) ∧
        ∀ j, j < 8 → (colF (m.col c) j = true ↔ colF (cols.getD c 0) j = true ∨ ∃ va, (c, colH (cols.getD c 0) + j, va) ∈ fly)) ∧
      { m with pts := l.pts, ntrap := l.ntrap, cols := l.cols } = l ∧
      t.parkedQ = s.parkedQ ++ parked ∧ t.msix = s.msix ++ List.replicate trapped s.ctl.trapVec.toNat ∧
      { t with launches := s.launches, parkedQ := s.parkedQ, msix := s.msix, ctl := { t.ctl with slotTrap := s.ctl.slotTrap } } = s)

/-- What a launch that finds too few free tiles stops (R354, R369, log 38): of the launches of lower priority that have a context area, one
point of the least priority, the one placed last of a launch that holds more than mint tiles; where none of them does, every point of the
launch of the point placed last. Nothing is stopped where enough points stop already, or where the parked-point queue would be overfilled. -/
def RoomEffect : Prop :=
  (∀ (s : State) (slot need : Nat) (l : Launch), Tab.wf s.launches = true →
    let t := s.makeRoom slot l need
    let short : Prop := (s.freeTiles slot).length + s.stopping.length < need
    let on (m : Launch) : List (Nat × Nat) := m.pts.filterMap fun q => match q.place with
      | .onTile k => if (s.tile k).parking then none else some (k, q.ord)
      | _ => none
    let runs (m : Launch) : List (Nat × Nat) := (on m).filter fun p => (s.tile p.1).stop.isNone && !(s.tile p.1).quenched
    let may (j : Nat) (m : Launch) (k o : Nat) : Prop := s.launch? j = some m ∧ m.ctxVA ≠ 0 ∧ m.prio < l.prio ∧ (k, o) ∈ runs m
    let spare (m : Launch) : Prop := m.mint < (on m).length
    let least (m : Launch) : Prop := ∀ j n k o, may j n k o → m.prio ≤ n.prio
    let stopped (ks : List Nat) : Prop := { t with tiles := s.tiles } = s ∧ (∀ k, k ∉ ks → t.tile k = s.tile k) ∧
      ∀ k, k ∈ ks → let x := s.tile k
        t.tile k = { x with stop := some { why := .preempt, trapped := false, eng := none, gen := x.preemptGen, inst := x.inner } }
    let fits (n : Nat) : Prop := s.parkedQ.length + s.stopping.length + n ≤ 16384
    (¬ short → t = s) ∧ (short → (∀ j m k o, ¬ may j m k o) → t = s) ∧
    (short → ∀ j m k o, may j m k o → least m →
      (spare m → (∀ j' m' k' o', may j' m' k' o' → m'.prio = m.prio → spare m' → (j', k', o') ≠ (j, k, o) → o' < o) →
        (fits 1 → stopped [k]) ∧ (¬ fits 1 → t = s)) ∧
      ((∀ j' m' k' o', may j' m' k' o' → m'.prio = m.prio → ¬ spare m' ∧ ((j', k', o') ≠ (j, k, o) → o' < o)) →
        let ks := (runs m).map fun p => p.1
        (fits ks.length → stopped ks) ∧ (¬ fits ks.length → t = s)))) ∧
  (∀ (x : Tile), (x.records = [] → x.preemptGen = 0) ∧
    ∀ id n rs, x.records = (id, n) :: rs → x.preemptGen ≤ n ∧ (∀ c ∈ x.secs, x.preemptGen ≤ c.relGen id) ∧
      (x.preemptGen = n ∨ ∃ c ∈ x.secs, x.preemptGen = c.relGen id))

/-- The launch of a slot after a rollback (R197, R382): from its start where no mark has saved it and it was not itself restored; else from its
frontier, or from its list record with its records as the last mark left them. -/
def RestoreEffect : Prop :=
  ∀ (s : State) (slot : Nat) (l : Launch), s.launch? slot = some l →
    let t := s.restoreLaunch slot
    let l0 : Launch := { l with state := if l.state = 3 then 3 else 1, held := false, ending := false, ntrap := 0, pts := [], cols := [] }
    let others : Prop := ∀ n, n ≠ slot → t.launch? n = s.launch? n
    t.tiles = s.tiles ∧
    (l.isList = false → l.markPts = none → l.saved = false → t.launch? slot = some l0 ∧ others ∧ { t with launches := s.launches } = s) ∧
    (l.isList = false → l.markPts ≠ none ∨ l.saved = true →
      (∀ m cols fly, s.loadFrontier l0 = some (m, cols, fly) → t = s.putFrontier slot m cols fly) ∧
      (s.loadFrontier l0 = none → t = rejectedAs (s.freeSlot slot) l.hdrVA 11 l.hdr (l.seq * 256 + slot))) ∧
    (l.isList = true → l.markPts = none →
      t.launch? slot = some { l0 with started := false, cntA := 0, cntC := 0, cleared := false, idle := 0 } ∧ others ∧
      { t with launches := s.launches } = s) ∧
    (l.isList = true → ∀ ps, l.markPts = some ps → ∃ m, t.launch? slot = some m ∧ others ∧
      (let saved := ps.filterMap fun p => match p.place with | .parked i => some (p, i) | .trapped i => some (p, i) | _ => none
       m.pts = saved.map (fun p => { p.1 with place := if s.recTrapped l p.2 then .trapped p.2 else .parked p.2 }) ∧
       m.ntrap = (saved.filter fun p => s.recTrapped l p.2).length ∧
       t.msix = s.msix ++ List.replicate m.ntrap s.ctl.trapVec.toNat ∧
       t.parkedQ = s.parkedQ ++ (saved.filter fun p => !s.recTrapped l p.2).map fun p => (slot, p.2)) ∧
      m.cntA = (s.wordVA l.tctx (l.ctxVA + 8)).getD 0 ∧ m.cntC = (s.wordVA l.tctx (l.ctxVA + 16)).getD 0 ∧ m.started = true ∧
      m.cleared = false ∧ { m with pts := [], ntrap := 0, cntA := 0, cntC := 0, started := false, cleared := false, idle := 0 } =
        { l0 with cntA := 0, cntC := 0, started := false, cleared := false, idle := 0 } ∧
      { t with launches := s.launches, parkedQ := s.parkedQ, msix := s.msix, ctl := { t.ctl with slotTrap := s.ctl.slotTrap } } = s)

/-- A rollback (R382): every point of every checkpointed launch stops without saving, with its operations and its launch's parked points and
held acts dropped; each die's undo log is applied, from its last entry to its first, so that a line holds what its first entry has; and then
each of those launches is restored, as RestoreEffect says. -/
def RollbackEffect : Prop :=
  ∀ (s : State), Tab.wf s.launches = true →
    let slots := s.ckptSlots
    let t := s.rollback
    let entry (d i : Nat) : Nat := (s.die d).undoBase.toNat + 72 * i
    let holds (d i : Nat) : Prop := d < 8 ∧ i < (s.die d).undoUsed / 72
    let line (d i : Nat) : Nat := s.wordPA (entry d i) % 2 ^ 40 / 64
    (∀ n, n ∈ slots ↔ ∃ l, s.launch? n = some l ∧ l.checkpointed = true ∧ l.dying = none) ∧
    ((∀ d i, holds d i → s.wordPA (entry d i) % 2 ^ 40 % 64 = 0 ∧ 64 * line d i + 64 ≤ 768 * 2 ^ 30 ∧
        ∀ e j, holds e j → (line d i = line e j → d = e) ∧ (64 * line d i + 64 ≤ entry e j ∨ entry e j + 72 ≤ 64 * line d i)) →
      ∃ u, t = slots.foldl State.restoreLaunch u ∧ t.tiles = u.tiles ∧
        (∀ k, ((∃ n ∈ slots, k ∈ s.tilesOf n) → Emptied (s.tile k) (u.tile k)) ∧
          ((∀ n ∈ slots, k ∉ s.tilesOf n) → u.tile k = s.tile k)) ∧
        (∀ d i, holds d i → (∀ j, j < i → line d j ≠ line d i) → u.readPA (64 * line d i) 64 = s.readPA (entry d i + 8) 64) ∧
        (∀ a, (∀ d i, holds d i → line d i ≠ a / 64) → u.readPA1 a = s.readPA1 a) ∧
        (∀ d, d < 8 → (u.die d).wqIn = (s.die d).wqIn.filter fun o => !slots.contains o.slot) ∧
        (∀ d, { u.die d with wq := [], wqIn := [] } = { s.die d with wq := [], wqIn := [] }) ∧
        u.parkedQ = s.parkedQ.filter (fun p => !slots.contains p.1) ∧ u.heldFail = s.heldFail.filter (fun p => !slots.contains p.1) ∧
        u.resumeWait = s.resumeWait.filter (fun p => !slots.contains p.1) ∧
        { u with
          tiles := s.tiles, dies := s.dies, mem := s.mem, parkedQ := s.parkedQ, heldFail := s.heldFail, resumeWait := s.resumeWait } = s) ∧
    RestoreEffect

/-- The gang message m to every other member, by rank and module number (R357, Table 18-3). -/
def toOthers (g : Gang) (m : GangMsg) : List (GangMsg × Nat × Nat) :=
  ((List.range g.nmem).filter fun r => r != g.rank).map fun r => (m, g.gang, g.modOf r)

/-- A member's preparation (R357): a header that cannot be read, or fails its checks, makes it answer REFUSE, rank 0 abort; a member with no
free slot, or with fewer free tiles than mint, waits, having made what room it may; else it reserves the lowest free slot and the first mint
free tiles, and answers READY, rank 0 sending PREPARE to every other member. A gang that starts has its launch live in that slot. -/
def GangEffect : Prop :=
  (∀ (s : State) (va ctx : Nat) (w : BitVec 512) (priv : BitVec 3),
    let s1 := { s with launchSeq := s.launchSeq + 1 }
    (s.readVA ctx va 128 = none → s.acceptLaunch va 0 w ctx priv = .failed) ∧
    (∀ b, s.readVA ctx va 128 = some b →
      let h : BitVec 1024 := BitVec.ofNat 1024 (ofBytes b)
      let lid := (s.launchSeq + 1) * 256
      let unread (a n : Nat) : Prop := a ≠ 0 ∧ s.readVA (hdrField h 13 0 16) a n = none
      let noImage : Prop := unread (hdrField h 7 0 64) 16384 ∨ unread (hdrField h 8 0 64) 256
      (checkHeader h priv ≠ 0 → s.acceptLaunch va 0 w ctx priv = .rejected (rejectedAs s1 va (checkHeader h priv) h lid)) ∧
      (checkHeader h priv = 0 → noImage → s.acceptLaunch va 0 w ctx priv = .rejected (rejectedAs s1 va 12 h lid)) ∧
      (checkHeader h priv = 0 → ¬ noImage →
        ∃ l, s.acceptLaunch va 0 w ctx priv = .accepted s1 l ∧ l.hdr = h ∧ l.hdrVA = va ∧ l.seq = s.launchSeq + 1))) ∧
  (∀ (s : State) (g : Gang), g.phase = 0 → g.rank = 0 ∨ g.gang ∈ s.prepHeld →
    let t := s.gangPrepare g
    let refused (u : State) (g1 : Gang) : Prop :=
      (g.rank = 0 → t = u.gangAbortAll g1) ∧
      (g.rank ≠ 0 → t = { u with
        outbox := u.outbox ++ [(.refuse, g.gang, g.modOf 0)], prepHeld := u.prepHeld.filter fun n => n != g.gang })
    (g.cand = none →
      (s.readVA g.ctx g.hdrVA 128 = none →
        refused (s.pushRing .fq [9 * 2 ^ 60 + g.hdrVA % 2 ^ 57, 0, 0, 0]) ((s.gang? g.gang).getD g)) ∧
      (∀ b, s.readVA g.ctx g.hdrVA 128 = some b → let h : BitVec 1024 := BitVec.ofNat 1024 (ofBytes b)
        (∀ u, s.acceptLaunch g.hdrVA 0 0 g.ctx 7 = .rejected u →
          let g1 := { g with lid := (s.launchSeq + 1) * 256, done := some (hdrField h 13 0 16, hdrField h 10 0 64) }
          refused (u.setGang g1) g1) ∧
        (∀ u l, s.acceptLaunch g.hdrVA 0 0 g.ctx 7 = .accepted u l →
          let g1 := { g with
            cand := some { l with gang := some g.gang }, lid := (s.launchSeq + 1) * 256
            done := some (hdrField h 13 0 16, hdrField h 10 0 64) }
          t = (u.setGang g1).gangPrepare g1))) ∧
    (∀ l, g.cand = some l →
      ((∀ n, n < 64 → s.launch? n ≠ none) → t = s) ∧
      (∀ slot, slot < 64 → s.launch? slot = none → (∀ n, n < slot → s.launch? n ≠ none) →
        ((s.freeTiles slot).length < l.mint → t = s.makeRoom slot l l.mint) ∧
        (l.mint ≤ (s.freeTiles slot).length →
          t.launch? slot = some { l with reserved := true, resTiles := (s.freeTiles slot).take l.mint } ∧
          (∀ n, n ≠ slot → t.launch? n = s.launch? n) ∧
          t.gang? g.gang = some { g with cand := none, slot := some slot, phase := 1, lid := l.seq * 256 + slot } ∧
          (∀ n, n ≠ g.gang → t.gang? n = s.gang? n) ∧
          (g.rank = 0 → t.outbox = s.outbox ++ toOthers g .prepare ∧ t.prepHeld = s.prepHeld) ∧
          (g.rank ≠ 0 → t.outbox = s.outbox ++ [(.ready, g.gang, g.modOf 0)] ∧ t.prepHeld = s.prepHeld.filter fun n => n != g.gang) ∧
          { t with launches := s.launches, gangs := s.gangs, outbox := s.outbox, prepHeld := s.prepHeld } = s)))) ∧
  (∀ (s : State) (g : Gang) (slot : Nat) (l : Launch), g.slot = some slot → s.launch? slot = some l → s.ctl.replayMode = 0 →
    l.saved = false → l.isList = true ∨ l.allDone = false → ∃ t, s.gangStart g = t ∧
      t.launch? slot = some { l with reserved := false, replay := 0 } ∧ (∀ n, n ≠ slot → t.launch? n = s.launch? n) ∧
      t.gang? g.gang = some { g with phase := 2 } ∧ (∀ n, n ≠ g.gang → t.gang? n = s.gang? n) ∧
      t.parkedQ = s.parkedQ.filter (fun p => p.1 != slot) ∧
      { t with
        launches := s.launches, gangs := s.gangs, parkedQ := s.parkedQ, resumeWait := s.resumeWait, heldFail := s.heldFail
        savedKind := s.savedKind } = s)

/-- A gang lets the present mark end: it takes no part, or is this module's with the answer of every other member, or its RESUME has come. -/
def LetsGo (g : Gang) : Prop :=
  g.marking = false ∨ (g.rank = 0 ∧ ∀ r, 1 ≤ r → r < g.nmem → r ∈ g.marked) ∨ (g.rank ≠ 0 ∧ g.resumed = true)

/-- A mark (R380, R383). At its beginning the started points of the checkpointed launches are asked to stop, and MARK goes to the other
members of each gang that this module leads. What is saved of a point depends on where it stands. Once all are saved, MARKED goes to each rank
0 whose MARK has come; the mark ends when every gang lets it, with RESUME to the members of those this module leads, and waits till then. At
its end every die has a fresh log of the next interval, and the points go on where they are. -/
def MarkEffect : Prop :=
  (∀ (s : State), TablesOk s →
    let t := s.markStart
    t.markPhase = 1 ∧
    (∀ k, let x := s.tile k
      t.tile k = if (∃ n ∈ s.ckptSlots, k ∈ s.tilesOf n) ∧ x.runsPoint = true ∧ x.stop = none
        then { x with stop := some { why := .mark, trapped := false, eng := none, gen := x.preemptGen, inst := x.inner } } else x) ∧
    t.outbox = s.outbox ++ (s.ckptGangs.filter fun g => g.rank == 0).flatMap (fun g => toOthers g .mark) ∧
    (∀ n, t.gang? n = (s.gang? n).map fun g => if s.ckptGangs.any fun h => h.gang == g.gang
      then { g with marked := [], told := false, resumed := false, marking := true } else g) ∧
    { t with tiles := s.tiles, markPhase := s.markPhase, outbox := s.outbox, gangs := s.gangs } = s) ∧
  (∀ (s : State),
    let a := s.askAll .mark (s.ckptTiles.filter fun k => (s.tile k).runsPoint)
    (s.markPhase = 1 → a.markReady = false → s.markStep = a) ∧
    (s.markPhase = 1 → a.markReady = true → s.markStep = ((a.markSave a.ckptSlots).bind State.markSaved).getD a) ∧
    (s.markPhase = 2 → s.markStep = s.markSaved.getD s) ∧ (s.markPhase ≠ 1 → s.markPhase ≠ 2 → s.markStep = s)) ∧
  (∀ (s : State) (slot k : Nat) (l : Launch) (pts : List LPoint), s.launch? slot = some l → ∀ i,
    i = l.freeIdx (pts.filterMap fun p => match p.place with | .parked i => some i | .trapped i => some i | _ => none) →
    let x := s.tile k
    let places (qs : List LPoint) (dest : PtPlace) : Prop :=
      qs.map (fun q => (q.col, q.z, q.home, q.place)) =
        pts.map fun p => (p.col, p.z, p.home, if p.place = .onTile k then dest else p.place)
    (x.runsPoint = false → ∃ qs, s.markPoint slot k pts = (.ok s, qs) ∧ places qs .refire) ∧
    (x.runsPoint = true → ∀ u, s.putRecord k l (s.logOf slot) i = .ok u →
      ((∀ st, x.stop = some st → st.trapped = false) → ∃ t qs, s.markPoint slot k pts = (.ok t, qs) ∧ places qs (.parked i) ∧
        { t with savedKind := u.savedKind } = u) ∧
      ((∃ st, x.stop = some st ∧ st.trapped = true) → ∃ t qs, s.markPoint slot k pts = (.ok t, qs) ∧ places qs (.trapped i) ∧
        (t.tile k).point = none ∧ t.msix = u.msix ++ [u.ctl.trapVec.toNat]))) ∧
  (∀ (s : State),
    let answers := s.gangs.filter fun p => p.2.marking && p.2.rank != 0 && p.2.asked && !p.2.told
    let u := s.tellMarked
    u.outbox = s.outbox ++ answers.map (fun p => (.marked, p.2.gang, p.2.modOf 0)) ∧
    (∀ n, u.gang? n = (s.gang? n).map fun g => if g.marking && g.rank != 0 && g.asked && !g.told then { g with told := true } else g) ∧
    { u with outbox := s.outbox, gangs := s.gangs } = s ∧
    ((∃ p ∈ s.gangs, ¬ LetsGo p.2) → s.markSaved = some { u with markPhase := 2 }) ∧
    ((∀ p ∈ s.gangs, LetsGo p.2) → (u.markEnd = none → s.markSaved = none) ∧
      ∀ v, u.markEnd = some v → ∃ t, s.markSaved = some t ∧
        t.outbox = v.outbox ++ (s.gangs.filter fun p => p.2.marking && p.2.rank == 0).flatMap (fun p => toOthers p.2 .resume) ∧
        (∀ n, t.gang? n = (v.gang? n).map fun g => if g.marking
          then { g with marked := [], told := false, resumed := false, marking := false, asked := false } else g) ∧
        { t with outbox := v.outbox, gangs := v.gangs } = v)) ∧
  (∀ (s : State), TablesOk s → Tab.wf s.launches = true → (∀ p ∈ s.launches, p.2.held = false ∧ p.2.dying = none ∧
    p.2.ending = false ∧ p.2.replay = 0) →
    s.doneWait = [] → s.resumeWait = [] → s.graphQ = [] → s.subQ = [] →
    ∃ t, s.markEnd = some t ∧ t.markPhase = 0 ∧ t.markAsked = false ∧
      (∀ d, d < 8 → let x := s.die d
        t.die d = { x with undoUsed := 0, undoLines := [], undoEarly := false, undoIval := x.undoIval + 1 }) ∧
      (∀ k, let x := s.tile k
        t.tile k = { x with
          stop := if (∃ st, x.stop = some st ∧ st.why = .mark) then none else x.stop
          markWait := if x.markWait = 1 then 2 else x.markWait }) ∧
      (∀ n, t.launch? n = (s.launch? n).map fun l => if l.checkpointed then { l with markPts := l.markNext, markNext := none } else l) ∧
      { t with
        tiles := s.tiles, dies := s.dies, launches := s.launches, markPhase := s.markPhase, markAsked := s.markAsked } = s)

/-! ### Context records -/

/-- How a record is read: the little-endian number of n bytes at an offset. -/
abbrev Rec := Nat → Nat → Nat

/-- A record as it stands at a physical address. -/
def recAt (s : State) (pa : Nat) : Rec := fun off n => ofBytes (s.readPA (pa + off) n)

/-- The tables of a tile list each register once, under its own number, and its queues, stack, channel and sections fit a record. -/
def TileFits (x : Tile) (dump : Bool) : Prop :=
  let names {α : Type} (l : List (Nat × α)) (lo hi : Nat) : Prop := (l.map fun p => p.1).Nodup ∧ ∀ p ∈ l, lo ≤ p.1 ∧ p.1 < hi
  names x.g 0 64 ∧ names x.p 1 8 ∧ names x.v 0 192 ∧ names x.m 0 4 ∧ names x.pcs 0 8 ∧ names x.rings 0 16 ∧ names x.layout 0 256 ∧
    names x.waitLog 0 64 ∧ x.ks.length ≤ 6 ∧ x.fifoA.length ≤ 16384 ∧ x.fifoB.length ≤ 16384 ∧ x.sqa.length ≤ 1024 ∧
    x.sqb.length ≤ 1024 ∧ x.chan.length ≤ 256 ∧ (x.secBytes dump).length ≤ 11337728 ∧ x.xq < 2 ^ 32 ∧
    ∀ p, x.point = some p → p.home < 1024

/-- A word record at offset o (R373). -/
def WordHeld (rd : Rec) (o : Nat) (isX : Bool) (w : FwdWord) : Prop :=
  rd o 12 = w.slot.toNat ∧ rd (o + 12) 2 = w.cap.preds.toNat ∧
  (∀ m v, m < (if isX then 5 else 4) → w.cap.vals[m]? = some v → rd (o + 16 + 8 * m) 8 = v.toNat) ∧
  (isX = true → rd (o + 56) 4 = w.cap.seed.toNat ∧ rd (o + 60) 4 = w.cap.q % 2 ^ 32 ∧ rd (o + 64) 64 = w.cap.sl.toNat ∧
    rd (o + 128) 64 = w.cap.dl.toNat) ∧
  (isX = false → ∀ m r, m < 16 → w.cap.regs[m]? = some r → rd (o + 48 + m) 1 = r % 256)

/-- Bytes of the record of a section: its head, and one word record for each word that has not been executed (R373). -/
def sectionSize (c : Section) : Nat := 32 + (if c.eng == .X then 192 else 64) * (c.words.drop c.idx).length

/-- A section record at offset o (R373). -/
def SectionHeld (rd : Rec) (o : Nat) (x : Tile) (c : Section) : Prop :=
  let ws := c.words.drop c.idx
  Header.ofBits (BitVec.ofNat 64 (rd o 8)) = { c.hdr with len := BitVec.ofNat 10 ws.length } ∧
  rd (o + 8) 8 = c.seq % 2 ^ 32 + c.tag % 256 * 2 ^ 32 + (c.first + c.idx) % 1024 * 2 ^ 40 + (if c.started then 2 ^ 50 else 0) ∧
  rd (o + 16) 8 = c.hdrAddr % 2 ^ 20 ∧
  rd (o + 24) 8 = (match x.records with
    | [] => 0
    | (id, _) :: _ => if c.relGen id < 0 then 2 ^ 32 else (c.relGen id).toNat % 2 ^ 32) ∧
  ∀ j w, ws[j]? = some w → WordHeld rd (o + 32 + (if c.eng == .X then 192 else 64) * j) (c.eng == .X) w

/-- A command record at offset o (R374). -/
def CommandHeld (rd : Rec) (o : Nat) (c : Command) : Prop :=
  let b (v : Bool) (k : Nat) : Nat := if v then 2 ^ k else 0
  WordHeld rd o true c.word ∧
  rd (o + 192) 8 = c.e % 2 ^ 48 + b c.accepted 48 + b (c.susp.isSome || c.failed) 49 + b c.void 50 ∧
  rd (o + 200) 8 = (if c.fn = 0x19 then c.lane.outCount else c.outPos) % 2 ^ 64 ∧
  (c.held = none → ∀ i, i < 72 → rd (o + 208 + i) 1 = 0) ∧
  (∀ h, c.held = some h → rd (o + 211) 1 = b h.head.isSome 0 + b h.payload.isSome 1 ∧
    (∀ w, h.head = some w → rd (o + 208) 2 = w.toNat) ∧
    (∀ p, h.payload = some p → rd (o + 210) 1 = p.length % 256 ∧
      ∀ i, i < 64 → rd (o + 216 + i) 1 = (p.getD i 0).toNat)) ∧
  rd (o + 280) 2 = c.lane.q % 2 ^ 16 ∧ (∀ i, i < 4 → rd (o + 282 + i) 1 = (c.lane.fields.getD i []).length % 256) ∧
  rd (o + 286) 4 = c.lane.counter.toNat ∧ rd (o + 290) 2 = c.lane.inCount % 2 ^ 16 ∧ rd (o + 292) 2 = c.lane.holds % 2 ^ 16 ∧
  rd (o + 294) 4 = c.lane.outCount % 2 ^ 32 ∧ rd (o + 300) 4 = c.word.addr % 2 ^ 20 + c.tag % 256 * 2 ^ 20 ∧
  rd (o + 304) 2 = (c.recTile.getD 0 + b c.unanswered 15) % 2 ^ 16 ∧ rd (o + 306) 1 = c.cslot % 256

/-- A record, or a dump, holds a tile as Tables 19-4 and 19-5 have it: with the registers that its liveness leaves out 0 (R375), a dump with
all of them (R391). Rows and a dump's in-flight list are said beside it. -/
def RecordHolds (rd : Rec) (x : Tile) (dump : Bool) (scyc : Nat) : Prop :=
  let lv := if dump then none else x.liveness
  (rd 0 8 = (if dump then 0x51445848 else 0x58435848) + 2 ^ 32 ∧
    ((rd 8 8).testBit 0 = true ↔ ∃ st, x.stop = some st ∧ st.trapped = true) ∧ (rd 8 8).testBit 1 = x.halted ∧
    (rd 8 8).testBit 2 = lv.isSome ∧ (rd 8 8).testBit 3 = x.sWaits ∧
    (rd 8 8 / 2 ^ 8 = match x.stop with | some st => (st.gen % 256).toNat | none => 0) ∧
    rd 16 8 = x.pointId.toNat ∧ rd 24 8 = x.launchId.toNat ∧
    rd 32 8 = x.fifoA.length + x.fifoB.length * 2 ^ 16 + x.sqa.length * 2 ^ 32 + x.sqb.length * 2 ^ 48 ∧
    rd 40 8 = x.chan.length + (x.secBytes dump).length * 2 ^ 32 ∧
    (∀ k, x.mStep = some (k + 1) → rd 48 8 = (k + 1) % 2 ^ 16 + 2 ^ 16) ∧ (x.mStep = none → rd 48 8 = 0) ∧ rd 56 8 = scyc % 2 ^ 64 ∧
    rd 64 8 = (match x.point with | some p => p.home | none => 0) ∧ rd 72 8 = (if x.sIn then x.sHdr.toNat + 2 ^ 20 else 0)) ∧
  (rd 0x100 8 = x.pc.toNat ∧ (∀ n, n < 64 → (rd 0x108 8).testBit n = !x.gEmpty.getLsbD n) ∧
    (∀ n, n < 8 → (rd 0x110 8).testBit n = (x.c.getLsbD n && liveBit lv (268 + n)) ∧ (rd 0x110 8).testBit (8 + n) = x.sw.getLsbD n) ∧
    rd 0x110 8 / 2 ^ 16 % 2 ^ 8 = x.rb.toNat ∧ rd 0x110 8 / 2 ^ 24 = x.ks.length ∧ rd 0x118 8 = x.fp.toNat ∧
    rd 0x120 8 = x.seed.toNat ∧ rd 0x128 8 = x.trapCause.toNat ∧ rd 0x130 8 = x.trapEngine.toNat ∧
    rd 0x138 8 = x.trapSection.toNat ∧ rd 0x140 8 = x.trapWord.toNat ∧ rd 0x148 8 = x.trapData.toNat ∧
    rd 0x150 8 = x.waitHead.toNat ∧ rd 0x158 8 = x.xq) ∧
  ((∀ n, n < 8 → rd (0x180 + 8 * n) 8 = (Assoc.get 0 n x.pcs).toNat) ∧
    (∀ i k, x.ks[i]? = some k → rd (0x1C0 + 16 * i) 16 = k.toNat) ∧
    (∀ n, 1 ≤ n → n < 64 → rd (0x400 + 8 * n) 8 = if liveBit lv (192 + n) then (x.readG n).toNat else 0) ∧
    rd 0x600 36 = (match lv with | some b => b.toNat | none => 0) ∧
    (∀ n, n < 192 → (rd 0x640 24).testBit n = !x.emptyV n) ∧
    rd 0x660 8 = ((if x.wlGone then 1 else 0) + (if x.wlDone then 2 else 0) + x.wlHead * 2 ^ 2 + x.wlCount * 2 ^ 18) % 2 ^ 64 ∧
    (∀ n, 1 ≤ n → n < 8 → rd (0x680 + 128 * (n - 1)) 128 = if liveBit lv (256 + n) then (x.readP n).toNat else 0) ∧
    (∀ b, b < 16 → rd (0xA00 + 16 * b) 16 = x.readRing b) ∧ rd 0x1000 4096 = x.lg.toNat ∧
    (∀ n, n < 256 → rd (0x2000 + 64 * n) 64 = x.readLay n) ∧
    (∀ n, n < 64 → rd (0x6000 + 16 * n) 16 = (Assoc.get 0 n x.waitLog).toNat) ∧
    rd 0x8000 x.fifoA.length = ofBytes x.fifoA ∧ rd 0xC000 x.fifoB.length = ofBytes x.fifoB ∧
    (∀ i w, x.sqa[i]? = some w → rd (0x10000 + 2 * i) 2 = w.toNat) ∧ (∀ i w, x.sqb[i]? = some w → rd (0x10800 + 2 * i) 2 = w.toNat) ∧
    (∀ n, n < 4 → rd (0x20000 + 16384 * n) 16384 = if liveBit lv (264 + n) then (x.readM n).toNat else 0) ∧
    (∀ n, n < 192 → rd (0x30000 + 4096 * n) 4096 =
      if liveBit lv (if n < 64 then n else 64 + (n - 64 + 128 - x.rb.toNat) % 128) then (x.readV n).toNat else 0)) ∧
  (∀ i c, x.chan[i]? = some c → CommandHeld rd (0x100000 + 768 * i) c) ∧
  (∀ i c, (x.recSecs dump)[i]? = some c →
    SectionHeld rd (0x130000 + (((x.recSecs dump).take i).map sectionSize).foldl (· + ·) 0) x c) ∧
  (∀ o n, (o, n) ∈ ([(0x160, 32), (0x220, 480), (0x668, 24), (0xB00, 1280), (0x6400, 7168), (0x11000, 61440), (0xF0000, 65536)] :
    List (Nat × Nat)) → ∀ i, i < n → rd (o + i) 1 = 0)

/-- The rows that a record of a launch holds (R376). -/
def rowSaved (l : Launch) (live r : Nat) : Prop :=
  let f := hdrField l.hdr
  r < 4 ∨ (f 5 0 14 ≤ r ∧ r < f 5 0 14 + f 5 14 14) ∨
    (live.testBit r = true ∧ ¬ (f 4 20 14 ≤ r ∧ r < f 4 20 14 + f 4 34 14))

/-- A point's record goes to record i of its launch, where it holds the point and its saved rows, every other row 0, and a dump holds its
tile and every row; no other byte of memory differs, and nothing else (R371, R372, R376, R391). For a record whose 16 MiB lie one behind the
other in module memory, apart from the tables that translate them, and are not logged, or are logged already. -/
def RecordEffect : Prop :=
  (∀ (s : State) (k i base live : Nat) (l : Launch) (log : Option Nat), TileFits (s.tile k) false → s.liveMap l = some live →
    base + 2 ^ 24 ≤ 768 * 2 ^ 30 →
    (∀ v : State, v.ctl = s.ctl → (∀ a, (a < base ∨ base + 2 ^ 24 ≤ a) → v.readPA1 a = s.readPA1 a) → ∀ o, o < 2 ^ 24 →
      ∃ f, v.translate l.tctx (l.recVA i + o) .write = .ok f ∧ pteMig f.pte = false ∧ f.place ((l.recVA i + o) % 2 ^ 57) = .mem (base + o)) →
    log = none ∨ (∀ a, base ≤ a → a < base + 2 ^ 24 → a / 64 ∈ (s.die (dieOfLine (a / 64))).undoLines) →
    ∃ u, s.putRecord k l log i = .ok u ∧ { u with mem := s.mem, dies := s.dies } = s ∧
      (∀ a, (a < base ∨ base + 2 ^ 24 ≤ a) → u.readPA1 a = s.readPA1 a) ∧
      RecordHolds (recAt u base) (s.tile k) false s.scyc.toNat ∧
      ∀ r o, r < 16384 → o < 256 →
        (rowSaved l live r → u.readPA1 (base + 0xC00000 + 256 * r + o) = Memory.read (s.tile k).sp (256 * r + o)) ∧
        (¬ rowSaved l live r → u.readPA1 (base + 0xC00000 + 256 * r + o) = 0)) ∧
  (∀ (s : State) (k pa : Nat), TileFits (s.tile k) true → pa + 20 * 2 ^ 20 ≤ 768 * 2 ^ 30 → Memory.wf (s.tile k).sp = true →
    (∀ c ∈ (s.tile k).sp, c.1 < 2 ^ 22) → (s.tile k).flightList.length ≤ 2 ^ 22 →
    let u := s.writeDump k pa
    { u with mem := s.mem, dies := s.dies } = s ∧ (∀ a, (a < pa ∨ pa + 20 * 2 ^ 20 ≤ a) → u.readPA1 a = s.readPA1 a) ∧
      RecordHolds (recAt u pa) (s.tile k) true s.scyc.toNat ∧
      ∀ o, o < 2 ^ 22 → u.readPA1 (pa + 0xC00000 + o) = Memory.read (s.tile k).sp o)

/-- The registers, tables and queues of a tile are those of a record, each field cut to its width and its reserved bits 0 (R2, R377, R392). -/
def RegsFrom (rd : Rec) (y : Tile) : Prop :=
  let n (k lo len : Nat) : Nat := rd (8 * k) 8 / 2 ^ lo % 2 ^ len
  (y.pc = BitVec.ofNat 20 (rd 0x100 8) ∧ y.pointId = BitVec.ofNat 64 (rd 16 8) ∧ y.halted = (rd 8 8).testBit 1 ∧
    y.sIn = (rd 72 8).testBit 20 ∧ (y.sIn = true → y.sHdr = BitVec.ofNat 20 (rd 72 8)) ∧
    y.mStep = (if (rd 48 8).testBit 16 then some (n 6 0 16) else none)) ∧
  (∀ m, 1 ≤ m → m < 64 → y.readG m = BitVec.ofNat 64 (rd (0x400 + 8 * m) 8) ∧ y.emptyG m = !(rd 0x108 8).testBit m) ∧
  (∀ m, m < 8 → (1 ≤ m → y.readC m = (rd 0x110 8).testBit m) ∧ y.sw.getLsbD m = (rd 0x110 8).testBit (8 + m)) ∧
  y.rb.toNat = rd 0x110 8 / 2 ^ 16 % 2 ^ 7 ∧
  y.ks.length = min (rd 0x110 8 / 2 ^ 24 % 8) 6 ∧
  (∀ i k, y.ks[i]? = some k → let v := rd (0x1C0 + 16 * i) 16
    kRec k = v.testBit 126 ∧ kStg k = v / 2 ^ 123 % 8 ∧ kExit k = v / 2 ^ 84 % 2 ^ 20 ∧ kBody k = v / 2 ^ 64 % 2 ^ 20 ∧
      kIdx k = v / 2 ^ 32 % 2 ^ 32 ∧ kLim k = v % 2 ^ 32) ∧
  (∀ m, m < 192 → y.readV m = BitVec.ofNat 32768 (rd (0x30000 + 4096 * m) 4096) ∧ y.emptyV m = !(rd 0x640 24).testBit m) ∧
  (∀ m, 1 ≤ m → m < 8 → y.readP m = BitVec.ofNat 1024 (rd (0x680 + 128 * (m - 1)) 128)) ∧
  (∀ m, m < 4 → y.readM m = BitVec.ofNat 131072 (rd (0x20000 + 16384 * m) 16384)) ∧
  (y.lg = BitVec.ofNat 32768 (rd 0x1000 4096) ∧ y.fp = BitVec.ofNat 6 (rd 0x118 8) ∧ y.seed = BitVec.ofNat 32 (rd 0x120 8) ∧
    y.trapCause = BitVec.ofNat 8 (rd 0x128 8) ∧ y.trapEngine = BitVec.ofNat 4 (rd 0x130 8) ∧
    y.trapSection = BitVec.ofNat 16 (rd 0x138 8) ∧ y.trapWord = BitVec.ofNat 20 (rd 0x140 8) ∧
    y.trapData = BitVec.ofNat 64 (rd 0x148 8) ∧ y.waitHead = BitVec.ofNat 7 (rd 0x150 8) ∧ y.xq = rd 0x158 4) ∧
  (∀ m, m < 64 → ∀ b, b < 128 →
    (Assoc.get 0 m y.waitLog).getLsbD b = ((rd (0x6000 + 16 * m) 16).testBit b && !(decide (64 ≤ b) && decide (b < 69)))) ∧
  (∀ m w, m < 256 → w < 8 → y.readLay m / 2 ^ (64 * w) % 2 ^ 64 = (rd (0x2000 + 64 * m) 64 / 2 ^ (64 * w) % 2 ^ 64) &&& layDefined w) ∧
  (∀ b, b < 16 → y.readRing b = rd (0xA00 + 16 * b) 16 % 2 ^ 32 + rd (0xA00 + 16 * b) 16 / 2 ^ 64 % 2 ^ 64 * 2 ^ 64) ∧
  (let a := min (n 4 0 15) 16384
   let b := min (n 4 16 15) 16384
   y.fifoA = toBytes a (rd 0x8000 a) ∧ y.fifoB = toBytes b (rd 0xC000 b)) ∧
  y.sqa = (List.range (min (n 4 32 11) 1024)).map (fun i => BitVec.ofNat 16 (rd (0x10000 + 2 * i) 2)) ∧
  y.sqb = (List.range (min (n 4 48 11) 1024)).map (fun i => BitVec.ofNat 16 (rd (0x10800 + 2 * i) 2))

/-- A word from its record at offset o, of a section or a command (R373). -/
def WordFrom (rd : Rec) (o : Nat) (w : FwdWord) : Prop :=
  w.slot = BitVec.ofNat 96 (rd o 12) ∧ w.cap.preds = BitVec.ofNat 16 (rd (o + 12) 2) ∧
    w.cap.vals = (List.range (captured w.slot).length).map fun m => BitVec.ofNat 64 (rd (o + 16 + 8 * m) 8)

/-- A section from its record at offset o: what is left of it (R373). -/
def SectionFrom (rd : Rec) (o : Nat) (c : Section) : Prop :=
  let h := Header.ofBits (BitVec.ofNat 64 (rd o 8) &&& ~~~6#64)
  let w1 := rd (o + 8) 8
  let first := w1 / 2 ^ 40 % 2 ^ 10
  let size := if c.eng == .X then 192 else 64
  c.eng = engOf h.eng.toNat ∧ c.hdr.num = h.num ∧ c.seq = w1 % 2 ^ 32 ∧ c.tag = w1 / 2 ^ 32 % 256 ∧ c.started = w1.testBit 50 ∧
    c.hdrAddr = rd (o + 16) 8 % 2 ^ 20 ∧ c.first + c.idx = first ∧ (c.words.drop c.idx).length = h.len.toNat ∧
    ∀ j w, (c.words.drop c.idx)[j]? = some w → WordFrom rd (o + 32 + size * j) w ∧ w.addr = c.hdrAddr + 1 + first + j

/-- The sections of a tile are those of a record whose section records stand at the offsets `at_` (R373, R377). -/
def SectionsFrom (rd : Rec) (secs : List Section) : Prop :=
  let hdr (o : Nat) : Header := Header.ofBits (BitVec.ofNat 64 (rd o 8) &&& ~~~6#64)
  ∀ (n : Nat) (at_ : Nat → Nat), at_ 0 = 0x130000 →
    (∀ i, i < n → 1 ≤ (hdr (at_ i)).eng.toNat ∧ (hdr (at_ i)).eng.toNat ≤ 5 ∧
      at_ (i + 1) = at_ i + 32 + (if (hdr (at_ i)).eng = 5 then 192 else 64) * (hdr (at_ i)).len.toNat) →
    at_ n = 0x130000 + rd 44 4 → rd 44 4 ≤ 11337728 →
    secs.length = n ∧ ∀ i c, secs[i]? = some c → SectionFrom rd (at_ i) c

/-- The commands of a tile are those of a record (R374, R377). -/
def CommandsFrom (rd : Rec) (chan : List Command) : Prop :=
  chan.length = min (rd 40 8 % 2 ^ 9) 256 ∧
    ∀ i c, chan[i]? = some c → let o := 0x100000 + 768 * i
      WordFrom rd o c.word ∧ c.cslot = rd (o + 306) 1 ∧ c.word.addr = rd (o + 300) 4 % 2 ^ 20 ∧ c.tag = rd (o + 300) 4 / 2 ^ 20 % 256 ∧
        c.e = rd (o + 192) 8 % 2 ^ 48 ∧ c.accepted = (rd (o + 192) 8).testBit 48 ∧ c.void = (rd (o + 192) 8).testBit 50

/-- A point's tile as its record gives it (R377): the rows, the registers, tables and queues, the work list, the commands and the sections,
whose dependences are on the latest sections restored before them, those of a started one met. -/
def RestoredFrom (s : State) (l : Launch) (live : Nat) (rd : Rec) (y : Tile) : Prop :=
  let f := hdrField l.hdr
  let code (r : Nat) : Prop := f 4 20 14 ≤ r ∧ r < f 4 20 14 + f 4 34 14
  let wl := rd 0x660 8
  RegsFrom rd y ∧ SectionsFrom rd y.secs ∧ CommandsFrom rd y.chan ∧
  (∀ m, m < 8 → Assoc.get 0 m y.pcs = BitVec.ofNat 48 (rd (0x180 + 8 * m) 8)) ∧
  (∀ r o, r < 16384 → o < 256 → let v := Memory.read y.sp (256 * r + o)
    (∀ ctx va bs, code r → l.codeAt = some (ctx, va) → s.readVA ctx (va + 256 * (r - f 4 20 14)) 256 = some bs → v = bs.getD o 0) ∧
    (¬ code r → rowSaved l live r → v = BitVec.ofNat 8 (rd (0xC00000 + 256 * r) 256 / 2 ^ (8 * o))) ∧
    (¬ code r → ¬ rowSaved l live r → v = 0)) ∧
  y.wlCount = min (wl / 2 ^ 18 % 2 ^ 17) (4 * f 5 14 14) ∧ y.wlDone = (wl.testBit 1 || l.cleared) ∧ y.wlGone = wl.testBit 0 ∧
  (f 5 14 14 ≠ 0 → y.wlHead = wl / 2 ^ 2 % 2 ^ 16 % (4 * f 5 14 14)) ∧
  (∀ c ∈ y.secs, c.started = true → c.deps = []) ∧
  (∀ i c, y.secs[i]? = some c → c.started = false → ∀ q, q ∈ c.deps ↔ ∃ d ∈ c.hdr.deps c.eng, ∃ (j : Nat) (e : Section),
    j < i ∧ y.secs[j]? = some e ∧ e.eng = d.1 ∧ e.hdr.num.toNat = d.2 ∧ e.seq = q ∧
    ∀ (m : Nat) (e' : Section), j < m → m < i → y.secs[m]? = some e' → ¬ (e'.eng = d.1 ∧ e'.hdr.num.toNat = d.2)) ∧
  y.inflight = [] ∧ y.late = [] ∧ y.rowsOut = [] ∧ y.stop = none ∧ y.quenched = false

/-- Sections and commands as forwarding and the channel leave them: numbers within their fields, and a captured value for each field. -/
def WorkPlain (x : Tile) : Prop :=
  (∀ d ∈ x.secs, d.eng = engOf d.hdr.eng.toNat ∧ d.tag < 256 ∧ d.first + d.idx < 1024 ∧ d.hdrAddr < 2 ^ 20 ∧
    ∀ j w, d.words[j]? = some w → w.addr = d.hdrAddr + 1 + d.first + j ∧ w.cap.vals.length = (captured w.slot).length) ∧
  (∀ c ∈ x.chan, c.trap = none ∧ c.cslot < 256 ∧ c.tag < 256 ∧ c.e < 2 ^ 48 ∧ c.word.addr < 2 ^ 20 ∧
    c.word.cap.vals.length = (captured c.word.slot).length)

/-- A quenched tile as its dump gives it at temper (R392): everything but the rows; each result in flight is written at the end of the
temper's cycle plus its rem less 1. -/
def ReloadedFrom (rd : Rec) (now : Nat) (x y : Tile) : Prop :=
  RegsFrom rd y ∧ (WorkPlain x → SectionsFrom rd y.secs ∧ CommandsFrom rd y.chan) ∧ y.sp = x.sp ∧ y.quenched = false ∧
  (x.ovFrozen = 0 → ∀ m, m < 8 → Assoc.get 0 m y.pcs = BitVec.ofNat 48 (rd (0x180 + 8 * m) 8)) ∧
  y.launchId = BitVec.ofNat 64 (rd 24 8) &&& ~~~0xC0#64 ∧
  ((rd 8 1).testBit 0 = true ↔ ∃ st, y.stop = some st ∧ st.trapped = true) ∧
  (x.point.map Point.started = y.point.map Point.started ∧ ∀ p, y.point = some p → p.home = rd 64 2 % 1024) ∧
  y.wlCount = min (rd 0x660 8 / 2 ^ 18 % 2 ^ 17) x.wlCap + (x.wlCount - x.wlFrozen.1) ∧
  (∀ (n : Nat) (at_ : Nat → Nat), at_ 0 = 0x1000010 → rd 0x1000000 16 = n → n ≤ 2 ^ 18 →
    (∀ i, i < n → at_ i + 16 ≤ 20 * 2 ^ 20 ∧ at_ (i + 1) = at_ i + 16 + 16 * ((rd (at_ i) 8 / 2 ^ 32 % 2 ^ 16 + 15) / 16)) →
    y.inflight.length = n ∧ ∀ i j, y.inflight[i]? = some j → let o := at_ i
      let w := rd o 8
      let len := w / 2 ^ 32 % 2 ^ 16
      let kind := w % 2 ^ 8
      j.rem = now + w / 2 ^ 16 % 2 ^ 16 ∧ j.addr = rd (o + 8) 8 % 2 ^ 20 ∧ j.tag = rd (o + 8) 8 / 2 ^ 32 % 2 ^ 8 ∧
      (kind = 1 → j.kind = .longLat ∧ j.tgt = w / 2 ^ 48 % 2 ^ 16 % 192 ∧ j.payload = BitVec.ofNat 32768 (rd (o + 16) len)) ∧
      (kind = 2 → j.kind = .vtog ∧ j.tgt = w / 2 ^ 48 % 2 ^ 16 % 64 ∧ j.payload = BitVec.ofNat 32768 (rd (o + 16) len)) ∧
      (kind ≠ 1 → kind ≠ 2 → j.kind = .entry kind ∧ j.bytes = toBytes len (rd (o + 16) len)))

/-! ### Control space -/

/-- A write of master m reaches the ordering point and passes it: a master of the module, over a link that is up where it is one of a
link, no write of it held, and its posted writes acknowledged. -/
def Passes (s : State) (m : Nat) : Prop := s.reaches m = true ∧ s.heldBy m = false ∧ s.unacked m s.hostNum = false

/-- It passes, and is the owner's or Yelsutor's (256), on a module that is not in recovery. -/
def Owns (s : State) (m : Nat) : Prop := Passes s m ∧ s.ctl.recovery = false ∧ (m = 256 ∨ s.ctl.owner.toNat = m)

/-- The write of a control register of master m that only its owner may make, with a row of its own. -/
def OwnedWrite (m : Nat) (i : Instr) : Prop :=
  ∃ v n r, i ∈ [.handover m v, .submit m v, .gangSubmit m v, .shootCtlStart m v, .shootCtlClearLost m v, .resumeRetry m v,
    .resumeFail m v, .resumeClearStray m v, .slotCtlResume m n v, .slotCtlKill m n v, .slotCtlPark m n v, .ringCfgWrite m r v,
    .ringHeadWrite m r v, .lcReqReset m v, .lcReqAdvance m v, .lcStateTripClear m v, .attest m v, .pwrCap m v, .thresh m n v,
    .perfCtl m v, .replayCtl m v, .quenchCtl m v, .temper m v, .blazeCtl m v]

/-- Nothing but the control registers differs. -/
def OnlyCtl (s t : State) : Prop := { t with ctl := s.ctl } = s

/-- Nothing but LINK_PEER differs. -/
def OnlyLinks (s t : State) : Prop := { t with ctl := { t.ctl with links := s.ctl.links } } = s

end Sys2Proof.Safety
end

