-- ==== Sys2Proof/Certificates/Slice0/Obligations.lean ====
section
/-! DEFINITION. The statements about the model, each with the rules or sections of the spec it formalises. -/

open Sys2Proof Sys2Proof.Machine Sys2Proof.Safety

/-- For every well-formed instruction i that has an encoding w (each of the 175 word forms, with every operand at every value
the encoding admits), decode w is i. (From 03_encoding.md.) -/
def Obligations.DecodeEncode : Prop :=
  ∀ (i : Instr) (w : Slot), i.wf = true → encode i = some w → decode w = .ok i

/-- For every slot w, if decode w is i then i is well-formed and encode i is w: no bit of a slot is ignored, and no two slots
decode to one instruction. For every header h with engine 0 to 5, a number other than 255, a nonzero length and reserved bits
0: decodeHeader of its slot is h, and decode refuses that slot as one of no class. Bits [95:93] of the slot are 7, bits
[92:64] 0. (From 03_encoding.md, R67, R70.) -/
def Obligations.SlotsAndHeaders : Prop :=
  (∀ (i : Instr) (w : Slot), decode w = .ok i → i.wf = true ∧ encode i = some w) ∧
  (∀ h : Header, h.eng.toNat < 6 → h.num ≠ 255 → h.len ≠ 0 → h.rsv = 0 →
     decodeHeader h.toSlot = .ok h ∧ decode h.toSlot = .error .noClass ∧
       h.toSlot.extractLsb' 93 3 = 7 ∧ h.toSlot.extractLsb' 64 29 = 0 ∧ h.toSlot.extractLsb' 0 64 = h.toBits)

/-- Fourteen words that the spec writes out with their fields, of every engine class, decode to their instructions with those
fields, among them the LREC and ADDI of chapter 06, the guarded VFADD of chapter 03, VQNT, VSPCMP, MMAS, MDRAIN, RACQ, VFEED,
VST, XCOPY, XRED, FENCE and SEMW; the A-section header printed below R70 decodes to its fields. (From 03_encoding.md,
06_scalar.md, 09_matrix.md, 10_tables.md, 11_scratchpad.md, 13_move.md, 15_consistency.md, 17_counters.md.) -/
def Obligations.DecodeWords : Prop :=
  decode 0x0D3FC0000010001C002C5200 = .ok (.lrec ⟨0xFF, 0, 0, 0⟩ ⟨4, 7, 11, 5, 1, 0⟩) ∧
  decode 0x00BC20006180000000010000 = .ok (.addi ⟨0xF0, 8, 0, 0⟩ ⟨6, 6, 0, 1, 0, 0, 0, 0, 0, 0⟩) ∧
  decode 0x480C0A400C04000080000050 = .ok (.vfadd ⟨0x30, 2, 9, 0⟩ ⟨3, 1, 0, 2, 0, 0, 0, 10, 0⟩) ∧
  decode 0x50BFC0005010000540016050 = .ok (.vqnt ⟨0xFF, 0, 0, 0⟩ ⟨20, 4, 0, 21, 0, 11, 0, 0, 0, 10, 0⟩) ∧
  decode 0x563FC000A020000A40000000 = .ok (.vspcmp ⟨0xFF, 0, 0, 0⟩ ⟨40, 8, 0, 41, 0, 0, 0, 0, 0⟩) ∧
  decode 0x80FFC0010780000820000000 = .ok (.mmas ⟨0xFF, 0, 0, 0⟩ ⟨1, 0, 30, 0, 2, 0, 1, 0⟩) ∧
  decode 0x813FC0020200000000000000 = .ok (.mdrain ⟨0xFF, 0, 0, 0⟩ ⟨2, 0, 8, 0, 0, 0, 0, 0⟩) ∧
  decode 0x12FFC0001C00010000000000 = .ok (.racq ⟨0xFF, 0, 0, 0⟩ ⟨7, 0, 0, 0, 2, 0, 0, 0⟩) ∧
  decode 0x217FC0000024200000000003 = .ok (.vfeed ⟨0xFF, 0, 0, 0⟩ ⟨0, 9, 2, 0, 0, 0, 0, 0, 3⟩) ∧
  decode 0x607C2802944580000F000100 = .ok (.vst ⟨0xF0, 10, 0, 0⟩ ⟨165, 17, 24, 0, 0, 3840, 0, 1, 0⟩) ∧
  decode 0xA07FC0000C10108518709820 = .ok (.xcopy ⟨0xFF, 0, 0, 0⟩ ⟨3, 4, 1, 2, 5, 6, 7, 9, 2, 0, 1, 0⟩) ∧
  decode 0xA1FFC0004448028000904B21 = .ok (.xred ⟨0xFF, 0, 0, 0⟩ ⟨17, 18, 0, 10, 0, 0, 9, 4, 2, 12, 1, 1⟩) ∧
  decode 0x163FC0000018000000000000 = .ok (.fence ⟨0xFF, 0, 0, 0⟩ ⟨6, 0⟩) ∧
  decode 0x147FC0003000000000100000 = .ok (.semw ⟨0xFF, 0, 0, 0⟩ ⟨12, 0, 1, 0, 0, 0, 0⟩) ∧
  decodeHeader 0xE000000040A067F81FFFFFF8 = .ok ⟨2, 5, 12, 255, 3, 255, 255, 255, 0, 0⟩

/-- The next item of the agenda decides a step (the agenda, its order and the tile in focus are the model's own, log 1). (1)
An S turn of a tile whose S engine stands inside an S section at slot w, with w decoding to i of class 0: step is exec of i
with the issue of that word, its row access left to follow at a turn that says so; (2) the same with an empty agenda and the
tile in focus; (3) a turn of another engine that has forwarded word fw next, fw decoding to i, and has no earlier word with
writes to make: step is exec of i with the captured issue; (4) an event row: step is exec of it; (5) a turn that leaves the
writes of fw to follow: step is exec of i on the registers as the engine finds them, with the flags clear, and what it has
written and flagged becomes a late word behind the registers as they were (log 4). Each with what the item has written and
read noted on the older contents that tiles and hosts keep (log 4), which changes nothing but the notes where they keep none.
(From R46, R66, R68, R72, R98, R131.) -/
def Obligations.StepRunsDecoded : Prop :=
  (∀ (s : State) (k : Nat) (late : Bool) (rest : List Act) (w : Slot) (i : Instr) (a : Act), s.on = true →
    a = (if late then .runLate k .S else .run k .S) → s.agenda = a :: rest →
    StandsAtWord s k w → slotClass w = 0 → decode w = .ok i →
    step s = { s with agenda := rest }.noted a
      (exec i { s with agenda := rest, issue := { s.issueS k (s.tile k).pc.toNat (s.tile k).sNum with late := late } })) ∧
  (∀ (s : State) (w : Slot) (i : Instr), s.on = true → s.agenda = [] → StandsAtWord s s.focus w → slotClass w = 0 →
    decode w = .ok i →
    step s = s.noted (.run s.focus .S) (exec i { s with issue := s.issueS s.focus (s.tile s.focus).pc.toNat (s.tile s.focus).sNum })) ∧
  (∀ (s : State) (k : Nat) (e : Engine) (rest : List Act) (iss : Issue) (fw : FwdWord) (i : Instr), s.on = true →
    s.agenda = .run k e :: rest → StandsAtFwd s k e iss fw → (s.tile k).inParts e = false → decode fw.slot = .ok i →
    step s = { s with agenda := rest }.noted (.run k e) (exec i { s with agenda := rest, issue := iss })) ∧
  (∀ (s : State) (rest : List Act) (i : Instr), s.on = true → s.agenda = .event i :: rest → encode i = none →
    step s = { s with agenda := rest }.noted (.event i) (exec i { s with agenda := rest })) ∧
  (∀ (s : State) (k : Nat) (e : Engine) (late : Bool) (rest : List Act) (iss : Issue) (fw : FwdWord) (i : Instr) (a : Act), s.on = true →
    a = (if late then .runLate k e else .run k e) → s.agenda = a :: rest → late = true ∨ (s.tile k).inParts e = true →
    StandsAtFwd s k e iss fw → decode fw.slot = .ok i →
    let x := s.tile k
    let y := { x.wordView k e iss.seq fw with fp := 0 }
    let i' := { iss with late := late }
    let due := { s with agenda := rest, issue := iss }.dueAt 0
    ∃ u, exec i { { s with agenda := rest }.setTile k y with issue := i' } = .next u ∧
      step s = { s with agenda := rest }.noted a
        (.next (u.setTile k (x.afterWord y (u.tile k) iss fw (e == Engine.L && (fw.vmClass? e).isSome) due)))) ∧
  (∀ (s t : State) (a : Act), (∀ p ∈ t.tiles, p.2.copies = []) → t.hostOld = [] → s.noted a (.next t) = .next { t with trail := [] })

/-- For every instruction and every state exec answers a next state: it never faults and never refuses. A step of a module
without power and with nothing left on the agenda faults (noPower, the model's own, log 1), and every other step answers a
next state. (From R17.) -/
def Obligations.StepStopsOnlyWithoutPower : Prop :=
  (∀ (i : Instr) (s : State), ∃ t, exec i s = .next t) ∧
  (∀ s : State, s.on = false ∧ s.agenda = [] → step s = .fault .noPower) ∧
  (∀ s : State, ¬ (s.on = false ∧ s.agenda = []) → ∃ t, step s = .next t)

/-- ADD, SUB, MUL, MULH, MULHN, AND, OR, XOR, ANDN, SHL, SHR, SAR, ROL, MIN, MINN, MAX, MAXN, with their guard true and every
named register full, each answer a next state in which gd holds the result of Table 06-1 taken mod 2^64 (g0 discards it), the
S engine goes on at the next slot, and no other register, flag, scratchpad byte, tile or memory byte differs. (From R101,
R86.) -/
def Obligations.ScalarRegisterResults : Prop :=
  ∀ (s : State) (g : Guard) (f : FmtS), SRuns s g [f.ga.toNat, f.gb.toNat, f.gd.toNat] →
    let a := (here s).readG f.ga.toNat
    let b := (here s).readG f.gb.toNat
    let n := b.toNat % 64
    let d := f.gd.toNat
    SGives s (exec (.add g f) s) d (BitVec.ofNat 64 (a.toNat + b.toNat)) ∧
    SGives s (exec (.sub g f) s) d (BitVec.ofInt 64 (a.toInt - b.toInt)) ∧
    SGives s (exec (.mul g f) s) d (BitVec.ofNat 64 (a.toNat * b.toNat)) ∧
    SGives s (exec (.mulh g f) s) d (BitVec.ofInt 64 (a.toInt * b.toInt / 18446744073709551616)) ∧
    SGives s (exec (.mulhn g f) s) d (BitVec.ofNat 64 (a.toNat * b.toNat / 18446744073709551616)) ∧
    SGives s (exec (.and g f) s) d (a &&& b) ∧
    SGives s (exec (.or g f) s) d (a ||| b) ∧
    SGives s (exec (.xor g f) s) d (a ^^^ b) ∧
    SGives s (exec (.andn g f) s) d (a &&& ~~~b) ∧
    SGives s (exec (.shl g f) s) d (BitVec.ofNat 64 (a.toNat * 2 ^ n)) ∧
    SGives s (exec (.shr g f) s) d (BitVec.ofNat 64 (a.toNat / 2 ^ n)) ∧
    SGives s (exec (.sar g f) s) d (BitVec.ofInt 64 (a.toInt / 2 ^ n)) ∧
    SGives s (exec (.rol g f) s) d (BitVec.ofNat 64 (a.toNat * 2 ^ n) ||| BitVec.ofNat 64 (a.toNat / 2 ^ (64 - n))) ∧
    SGives s (exec (.min g f) s) d (if a.toInt ≤ b.toInt then a else b) ∧
    SGives s (exec (.minn g f) s) d (if a.toNat ≤ b.toNat then a else b) ∧
    SGives s (exec (.max g f) s) d (if a.toInt ≤ b.toInt then b else a) ∧
    SGives s (exec (.maxn g f) s) d (if a.toNat ≤ b.toNat then b else a)

/-- With guard true and registers full, DIV and REM answer the quotient truncated toward zero and the remainder with the sign
of the dividend, DIVN and REMN the unsigned ones; a zero divisor gives a quotient of all ones and the dividend as remainder;
-2^63 divided by -1 gives -2^63 and remainder 0. Nothing else differs. (Rules R102.) -/
def Obligations.ScalarDivision : Prop :=
  ∀ (s : State) (g : Guard) (f : FmtS), SRuns s g [f.ga.toNat, f.gb.toNat, f.gd.toNat] →
    let a := (here s).readG f.ga.toNat
    let b := (here s).readG f.gb.toNat
    let d := f.gd.toNat
    SGives s (exec (.div g f) s) d (if b = 0 then BitVec.allOnes 64 else BitVec.ofInt 64 (a.toInt.tdiv b.toInt)) ∧
    SGives s (exec (.divn g f) s) d (if b = 0 then BitVec.allOnes 64 else BitVec.ofNat 64 (a.toNat / b.toNat)) ∧
    SGives s (exec (.rem g f) s) d (if b = 0 then a else BitVec.ofInt 64 (a.toInt.tmod b.toInt)) ∧
    SGives s (exec (.remn g f) s) d (if b = 0 then a else BitVec.ofNat 64 (a.toNat % b.toNat)) ∧
    (a = BitVec.intMin 64 → b = BitVec.allOnes 64 →
      SGives s (exec (.div g f) s) d (BitVec.intMin 64) ∧ SGives s (exec (.rem g f) s) d 0)

/-- ADDI, MULI, ANDI, ORI, XORI, SHLI, SHRI, SARI, ROLI with b = SignExt(imm32, 32), and MOVI, MOVHI, SEL: each, with guard
true and its registers full, writes gd as Table 06-1 says; MOVHI keeps the low half of gd, SEL takes ga where its predicate is
set and gb elsewhere. Nothing else differs. (From R101, R104.) -/
def Obligations.ScalarImmediateResults : Prop :=
  (∀ (s : State) (g : Guard) (f : FmtS), SRuns s g [f.ga.toNat, f.gd.toNat] →
    let a := (here s).readG f.ga.toNat
    let b : W64 := f.imm.signExtend 64
    let n := f.imm.toNat % 64
    let d := f.gd.toNat
    SGives s (exec (.addi g f) s) d (BitVec.ofInt 64 (a.toInt + f.imm.toInt)) ∧
    SGives s (exec (.muli g f) s) d (BitVec.ofInt 64 (a.toInt * f.imm.toInt)) ∧
    SGives s (exec (.andi g f) s) d (a &&& b) ∧
    SGives s (exec (.ori g f) s) d (a ||| b) ∧
    SGives s (exec (.xori g f) s) d (a ^^^ b) ∧
    SGives s (exec (.shli g f) s) d (BitVec.ofNat 64 (a.toNat * 2 ^ n)) ∧
    SGives s (exec (.shri g f) s) d (BitVec.ofNat 64 (a.toNat / 2 ^ n)) ∧
    SGives s (exec (.sari g f) s) d (BitVec.ofInt 64 (a.toInt / 2 ^ n)) ∧
    SGives s (exec (.roli g f) s) d (BitVec.ofNat 64 (a.toNat * 2 ^ n) ||| BitVec.ofNat 64 (a.toNat / 2 ^ (64 - n)))) ∧
  (∀ (s : State) (g : Guard) (f : FmtS), SRuns s g [f.gd.toNat] →
    SGives s (exec (.movi g f) s) f.gd.toNat (f.imm.signExtend 64) ∧
    SGives s (exec (.movhi g f) s) f.gd.toNat
      (BitVec.ofNat 64 (f.imm.toNat * 4294967296 + ((here s).readG f.gd.toNat).toNat % 4294967296))) ∧
  (∀ (s : State) (g : Guard) (f : FmtS), SRuns s g [f.ga.toNat, f.gb.toNat, f.gd.toNat] →
    SGives s (exec (.sel g f) s) f.gd.toNat
      (if (here s).readC f.ct.toNat then (here s).readG f.ga.toNat else (here s).readG f.gb.toNat))

/-- With guard true and registers full: CLZ counts the zero bits above the highest set bit and CTZ those below the lowest (64
for 0), POPC the set bits; BFX gives the field of ga at lsb, zero-extended; BFI puts the low bits of ga into that field of gd
and keeps the rest. Only gd changes. (From R101, R103.) -/
def Obligations.ScalarBitCounts : Prop :=
  ∀ (s : State) (g : Guard) (f : FmtS), SRuns s g [f.ga.toNat, f.gd.toNat] →
    let a := (here s).readG f.ga.toNat
    let d := f.gd.toNat
    let old := (here s).readG d
    let lsb := f.imm.toNat % 64
    let wid := f.imm.toNat / 64 % 128
    SGivesSome s (exec (.clz g f) s) d (fun v => v.toNat ≤ 64 ∧
      (∀ i, 64 - v.toNat ≤ i → a.getLsbD i = false) ∧ (v.toNat < 64 → a.getLsbD (63 - v.toNat) = true)) ∧
    SGivesSome s (exec (.ctz g f) s) d (fun v => v.toNat ≤ 64 ∧
      (∀ i, i < v.toNat → a.getLsbD i = false) ∧ (v.toNat < 64 → a.getLsbD v.toNat = true)) ∧
    SGivesSome s (exec (.popc g f) s) d (fun v => v.toNat = ((List.range 64).filter fun i => a.getLsbD i).length) ∧
    (WellFormed.bitField f.imm = true →
      SGivesSome s (exec (.bfx g f) s) d (fun v => ∀ i, i < 64 → v.getLsbD i = (decide (i < wid) && a.getLsbD (lsb + i))) ∧
      SGivesSome s (exec (.bfi g f) s) d (fun v => ∀ i, i < 64 → v.getLsbD i =
        if lsb ≤ i ∧ i < lsb + wid then a.getLsbD (i - lsb) else old.getLsbD i))

/-- With guard true and registers full, CMP and CMPI write the pair (ct, cf) with the condition of Table 03-7 and its negation
(cf wins where they are one, c0 discards), PLOG writes ct with its truth table over three predicates of the S name space, PMOV
packs c0-c7 and s0-s7 into gd[15:0] or writes c1-c7 from ga[7:1]. Nothing else differs. (From R61, R105, R107, R108.) -/
def Obligations.ScalarPredicates : Prop :=
  (∀ (s : State) (g : Guard) (f : FmtS), SRuns s g [f.ga.toNat, f.gb.toNat] → f.cs.toNat % 16 ≤ 9 →
    let o := holdsCond (f.cs.toNat % 16) ((here s).readG f.ga.toNat) ((here s).readG f.gb.toNat)
    SSetsC s (exec (.cmp g f) s) (fun m => if m = f.cf.toNat then some (!o) else if m = f.ct.toNat then some o else none)) ∧
  (∀ (s : State) (g : Guard) (f : FmtS), SRuns s g [f.ga.toNat] → f.cs.toNat % 16 ≤ 9 →
    let o := holdsCond (f.cs.toNat % 16) ((here s).readG f.ga.toNat) (f.imm.signExtend 64)
    SSetsC s (exec (.cmpi g f) s) (fun m => if m = f.cf.toNat then some (!o) else if m = f.ct.toNat then some o else none)) ∧
  (∀ (s : State) (g : Guard) (f : FmtS), SRuns s g [] →
    SSetsC s (exec (.plog g f) s) (fun m => if m = f.ct.toNat then
      some (ttBit (f.imm.toNat % 256) ((here s).readCS (f.imm.toNat / 256 % 16)) ((here s).readCS (f.imm.toNat / 4096 % 16))
        ((here s).readCS (f.imm.toNat / 65536 % 16))) else none)) ∧
  (∀ (s : State) (g : Guard) (f : FmtS), SRuns s g [f.gd.toNat] →
    SGivesSome s (exec (.pmovPack g f) s) f.gd.toNat (fun v => ∀ i, i < 64 →
      v.getLsbD i = if i < 16 then (here s).readCS i else false)) ∧
  (∀ (s : State) (g : Guard) (f : FmtS), SRuns s g [f.ga.toNat] →
    SSetsC s (exec (.pmovUnpack g f) s) (fun m => some (((here s).readG f.ga.toNat).getLsbD m)))

/-- A CMP or CMPI whose guard is false retires whatever registers are empty. In the .z form C[ct] and C[cf] are clear after it
(c0 reads 1) and nothing else of the tile has changed but fetch and the counters; in the plain form no predicate has changed
either. No other tile and no memory byte differs. (Rules R106.) -/
def Obligations.CompareWithFalseGuard : Prop :=
  ∀ (s : State) (g : Guard) (f : FmtS) (i : Instr), i = .cmp g f ∨ i = .cmpi g f → s.issue.eng = .S →
    (here s).guardS g = false →
    ∃ t, exec i s = .next t ∧ OnlyTile s.issue.tile s t ∧ (here t).pc = BitVec.ofNat 20 (s.issue.addr + 1) ∧
      (here t).waitWhy .S = 0 ∧
      (∀ m, m < 8 → (here t).readC m =
        if m = 0 then true else if f.cs.getLsbD 4 = true ∧ (m = f.ct.toNat ∨ m = f.cf.toNat) then false else (here s).readC m) ∧
      { fixedS (here t) with c := 0 } = { fixedS (here s) with c := 0 }

/-- Every word of the S engine (other than a compare of the .z form) whose guard is false answers a next state, whatever
registers are empty: fetch goes on at the next slot, for LREC after its three liveness slots, the word is counted as retired
and as void, and nothing else differs. (From R59, R56, R100, R112.) -/
def Obligations.ScalarVoidWords : Prop :=
  ∀ (s : State) (i : Instr) (g : Guard), sGuard? i = some g → s.issue.eng = .S → (here s).guardS g = false →
    (∀ h f, i = .cmp h f ∨ i = .cmpi h f → f.cs.getLsbD 4 = false) →
    ∃ t, exec i s = .next t ∧ OnlyTile s.issue.tile s t ∧ (here t).waitWhy .S = 0 ∧
      (here t).pc = BitVec.ofNat 20 (s.issue.addr + (match i with | .lrec _ _ => 4 | _ => 1)) ∧
      (here t).pcs = (((here s).count 2 1).count 0x11 1).pcs ∧ fixedS (here t) = fixedS (here s)

/-- Every enabled word gd, ga, gb of the S engine (ADD, SUB, MUL, MULH, MULHN, DIV, DIVN, REM, REMN, AND, OR, XOR, ANDN, SHL,
SHR, SAR, ROL, MIN, MINN, MAX, MAXN, SEL): an empty ga whose fe bit is set traps with the register, its kind and operand 0 in
TRAP_DATA; else an empty gb whose fe bit is set traps with operand 1; else any empty ga, gb or gd makes the engine wait for a
register and changes nothing else. (From R63, R64, R100, R361.) -/
def Obligations.EmptySourceTraps : Prop :=
  ∀ (s : State) (g : Guard) (f : FmtS) (i : Instr), s.issue.eng = .S → (here s).guardS g = true →
    i ∈ [.add g f, .sub g f, .mul g f, .mulh g f, .mulhn g f, .div g f, .divn g f, .rem g f, .remn g f, .and g f, .or g f,
      .xor g f, .andn g f, .shl g f, .shr g f, .sar g f, .rol g f, .min g f, .minn g f, .max g f, .maxn g f, .sel g f] →
    let a := (here s).emptyG f.ga.toNat = true
    let b := (here s).emptyG f.gb.toNat = true
    (a → f.feA = 1 → Traps s (exec i s) 4 (f.ga.toNat + 256)) ∧
    (¬ (a ∧ f.feA = 1) → b → f.feB = 1 → Traps s (exec i s) 4 (f.gb.toNat + 256 + 512)) ∧
    (¬ (a ∧ f.feA = 1) → ¬ (b ∧ f.feB = 1) → a ∨ b ∨ (here s).emptyG f.gd.toNat = true → Waits s (exec i s) 3)

/-- When a word of a tile traps and no word of its point has trapped before, or one has in this same schedule cycle and on an
engine of a higher class, the tile holds the cause, the engine (8 for a check made at forwarding), the section number in [7:0]
and its generation tag in [15:8], the word address and the cause-specific data, and the point is stopping with that engine as
the one that trapped. Where nothing had retired with a trap that gives way, PC and every other register, scratchpad byte,
section, predicate and the channel are as before, and where the launch has a context area no other tile and no memory byte
differs. Where a word or command had retired with it (log 39), it stands again in its section or channel, its event is taken
back and so is what it had added to semaphores, and nothing else differs. Any other trap of the point changes nothing but that
its engine stands at the word. (From R96, R360, R361, R363, R97.) -/
def Obligations.TrapEntry : Prop :=
  (∀ (s : State) (w : Issue) (fwd : Bool) (cause data : Nat),
    let x := s.tile w.tile
    let t := s.takeTrap w fwd cause data
    let y := t.tile w.tile
    let again := ∃ st, x.stop = some st ∧ st.trapped = true ∧
      (st.cyc ≠ some s.scyc ∨ ∀ o, st.eng = some o → o.code ≤ w.eng.code)
    let blank (z : Tile) : Tile := { z with
      trapCause := 0, trapEngine := 0, trapSection := 0, trapWord := 0, trapData := 0, stop := none, waits := [] }
    (¬ again →
      (∀ p l, x.point = some p → s.launch? p.slot = some l → l.ctxVA ≠ 0) → (x.point = none → s.launch? 64 = none) →
      y.trapCause = BitVec.ofNat 8 cause ∧ y.trapEngine = (if fwd then 8 else BitVec.ofNat 4 w.eng.code) ∧
      y.trapSection = BitVec.ofNat 16 (w.num % 256 + 256 * (w.tag % 256)) ∧ y.trapWord = BitVec.ofNat 20 w.addr ∧
      y.trapData = BitVec.ofNat 64 data ∧
      (∃ st, y.stop = some st ∧ st.trapped = true ∧ st.eng = some w.eng ∧ st.cyc = some s.scyc) ∧ y.waitWhy w.eng = 7 ∧
      (x.stop.bind Stop.back = none → blank y = blank x ∧ OnlyTile w.tile s t) ∧
      (∀ b, x.stop.bind Stop.back = some b →
        let u := b.sems.foldl State.semBack s
        let z := u.tile w.tile
        OnlyTile w.tile u t ∧ y.chan = b.cmd.toList ++ z.chan ∧
          y.secs = (match b.sec with | some c => putSec c z.secs | none => z.secs) ∧ y.pcs = (z.count b.event (2 ^ 48 - 1)).pcs ∧
          { blank y with chan := [], secs := [], pcs := [] } = { blank z with chan := [], secs := [], pcs := [] })) ∧
    (again → t = s.setTile w.tile (x.setWait w.eng 7))) ∧
  (∀ (s : State) (u n k : Nat) (b : Nat × Nat × Nat), n < 256 → k ≤ (s.tile u).sem n →
    let t := s.semBack (u, n, k, b)
    OnlyTile u s t ∧ (t.tile u).sem n = (s.tile u).sem n - k ∧ SpOutside (s.tile u) (t.tile u) (4 * n) 4 ∧
      { t.tile u with sp := [], missed := [] } = { s.tile u with sp := [], missed := [] })

/-- A TRAP whose guard is true, in a point that has not trapped and whose launch has a context area: the next state holds
cause 0x0D, engine 0, the S section's number and generation tag, the TRAP's address in TRAP_WORD and 2^63 + imm32 in
TRAP_DATA; the word counts as retired, PC stands at the next slot, so that a point resumed after it goes on there, and the
point is stopping. General registers, predicates, vector state, scratchpad, other tiles and memory are as before. In a point
that has trapped in an earlier cycle the word stays unretired and waits, to trap again when it runs after a restore (R361). A
TRAP whose guard is false does nothing but let fetch go on at the next slot. (From R121, R97, R361, R362; that the repeated
TRAP stays unretired is the model's reading of R361 beside R121, log 39.) -/
def Obligations.TrapWord : Prop :=
  ∀ (s : State) (g : Guard) (f : FmtS), s.issue.eng = .S →
    ((here s).guardS g = true → (∀ st, (here s).stop = some st → st.trapped = false ∧ st.back = none) →
      (∀ p l, (here s).point = some p → s.launch? p.slot = some l → l.ctxVA ≠ 0) →
      ((here s).point = none → s.launch? 64 = none) →
      ∃ t, exec (.trap g f) s = .next t ∧ OnlyTile s.issue.tile s t ∧
        (here t).trapCause = 0x0D ∧ (here t).trapEngine = 0 ∧ (here t).trapWord = BitVec.ofNat 20 s.issue.addr ∧
        (here t).trapSection = BitVec.ofNat 16 (s.issue.num % 256 + 256 * (s.issue.tag % 256)) ∧
        (here t).trapData = 0x8000000000000000 ||| f.imm.zeroExtend 64 ∧
        (here t).pc = BitVec.ofNat 20 (s.issue.addr + 1) ∧ (here t).pcs = ((here s).count 2 1).pcs ∧
        (∃ st, (here t).stop = some st ∧ st.trapped = true ∧ st.eng = some .S) ∧
        { fixedS (here t) with trapCause := 0, trapEngine := 0, trapSection := 0, trapWord := 0, trapData := 0, stop := none } =
          { fixedS (here s) with trapCause := 0, trapEngine := 0, trapSection := 0, trapWord := 0, trapData := 0, stop := none }) ∧
    ((here s).guardS g = true → ∀ st, (here s).stop = some st → st.trapped = true → st.cyc ≠ some s.scyc →
      Waits s (exec (.trap g f) s) 7) ∧
    ((here s).guardS g = false →
      ∃ t, exec (.trap g f) s = .next t ∧ OnlyTile s.issue.tile s t ∧
        (here t).pc = BitVec.ofNat 20 (s.issue.addr + 1) ∧ fixedS (here t) = fixedS (here s))

/-- With guard true and registers full: BR goes to a + off32, CALL too with a + 1 in gd, BRX to G[ga] + off32 and RET to
G[ga], each mod 2^20 word addresses; a target of BR or CALL that is no word address is taken, and the illegal-word fault with
it (TRAP_WORD keeps its low 20 bits, log 59); the section ends at the word; nothing else differs (CALL: no other register).
With guard true and gd full, PFLD gives field f of POINT_ID at the position that the widths of the lower fields make, 0 where
the launch header gives the field no frontier role, and PFLD.w its width whatever its role (the model's choice, log 60); HALT
stops fetch and discards the loop-index stack; NOP changes nothing. Nothing else differs. (From R70, R109, R110, R111, R20,
R119, R120, R122.) -/
def Obligations.ControlWords : Prop :=
  ((∀ (s : State) (g : Guard) (f : FmtB), SRuns s g [] →
     let dst := (s.issue.addr : Int) + f.off.toInt
     (0 ≤ dst → dst < 1048576 → ∃ t, exec (.br g f) s = .next t ∧ SNext s t dst.toNat ∧
       (here t).sIn = false ∧ fixedS (here t) = fixedS (here s)) ∧
     (dst < 0 ∨ 1048576 ≤ dst → ∃ t, SNext s t (dst % 1048576).toNat ∧ (here t).sIn = false ∧ fixedS (here t) = fixedS (here s) ∧
       exec (.br g f) s = .next (t.takeTrap { s.issue with addr := (dst % 1048576).toNat, num := 0 } false 1 0))) ∧
   (∀ (s : State) (g : Guard) (f : FmtB), SRuns s g [f.ga.toNat] →
     (∃ t, exec (.brx g f) s = .next t ∧
       SNext s t (((((here s).readG f.ga.toNat).toNat : Int) + f.off.toInt) % 1048576).toNat ∧
       (here t).sIn = false ∧ fixedS (here t) = fixedS (here s)) ∧
     (∃ t, exec (.ret g f) s = .next t ∧ SNext s t (((here s).readG f.ga.toNat).toNat % 1048576) ∧
       (here t).sIn = false ∧ fixedS (here t) = fixedS (here s))) ∧
   (∀ (s : State) (g : Guard) (f : FmtB), SRuns s g [f.gd.toNat] →
     let dst := (s.issue.addr : Int) + f.off.toInt
     let called (t : State) : Prop := (here t).sIn = false ∧
       (∀ m, (here t).readG m = if m = f.gd.toNat ∧ m ≠ 0 then BitVec.ofNat 64 (s.issue.addr + 1) else (here s).readG m) ∧
       { fixedS (here t) with g := [] } = { fixedS (here s) with g := [] }
     (0 ≤ dst → dst < 1048576 → ∃ t, exec (.call g f) s = .next t ∧ SNext s t dst.toNat ∧ called t) ∧
     (dst < 0 ∨ 1048576 ≤ dst → ∃ t, SNext s t (dst % 1048576).toNat ∧ called t ∧
       exec (.call g f) s = .next (t.takeTrap { s.issue with addr := (dst % 1048576).toNat, num := 0 } false 1 0)))) ∧
  ((∀ (s : State) (g : Guard) (f : FmtS), SRuns s g [f.gd.toNat] →
     let i := f.imm.toNat % 8
     let h := (here s).hdr
     let width (j : Nat) : Nat := h.toNat / 2 ^ (64 + 7 * j) % 128
     let role := h.toNat / 2 ^ (64 + 42 + 3 * i) % 8
     SGives s (exec (.pfld g f) s) f.gd.toNat
       (if role = 1 ∨ role = 2 ∨ role = 3 then
         BitVec.ofNat 64 ((here s).pointId.toNat / 2 ^ ((List.range i).map width).sum % 2 ^ width i) else 0) ∧
     SGives s (exec (.pfldW g f) s) f.gd.toNat (BitVec.ofNat 64 (width i))) ∧
   (∀ (s : State) (g : Guard) (f : FmtS), SRuns s g [] →
     (∃ t, exec (.halt g f) s = .next t ∧ OnlyTile s.issue.tile s t ∧ (here t).halted = true ∧ (here t).sIn = false ∧
       (here t).ks = [] ∧ (here t).pcs = ((here s).count 2 1).pcs ∧
       { fixedS (here t) with halted := false, ks := [], kIds := [], kLive := [] } =
         { fixedS (here s) with halted := false, ks := [], kIds := [], kLive := [] }) ∧
     SOnlyMoves s (exec (.nop g f) s) (s.issue.addr + 1)))

/-- With guard true, trip register full, depth below 6 and T + S - 1 below 2^32: LREC with T = 0 goes to its epilogue and
changes nothing; else it pushes the entry of R112 as k0, sets s7-s0 to 1 and goes to its prologue. LOOP on a record k0 counts
it, turns RB down by one mod 128, shifts the stage window with the new bit saying whether the run is below T, and goes to the
body, or to the exit when idx reaches lim. LREC's three targets are taken mod 2^20 (the model's choice, log 59). A depth of 6,
a trip beyond the limit and a LOOP without a record on top take the loop-stack overflow with data 0, 2 and 1. (From R71, R88,
R89, R91, R112, R114, R115.) -/
def Obligations.LoopRecordWords : Prop :=
  (∀ (s : State) (g : Guard) (f : FmtLrec), SRuns s g [f.trip.toNat] →
    let x := here s
    let T := (x.readG f.trip.toNat).toNat
    let S := f.stg.toNat + 1
    let tgt (off : BitVec 16) : Nat := (((s.issue.addr : Int) + off.toInt) % 1048576).toNat
    (6 ≤ x.ks.length → exec (.lrec g f) s = .next (s.takeTrap s.issue false 0x0B 0)) ∧
    (x.ks.length < 6 → 2 ^ 32 - 1 < T + S - 1 → exec (.lrec g f) s = .next (s.takeTrap s.issue false 0x0B 2)) ∧
    (x.ks.length < 6 → T = 0 → ∃ t, exec (.lrec g f) s = .next t ∧ SNext s t (tgt f.epi) ∧ (here t).sIn = false ∧
      fixedS (here t) = fixedS x) ∧
    (x.ks.length < 6 → 0 < T → T + S - 1 ≤ 2 ^ 32 - 1 → ∃ t k, exec (.lrec g f) s = .next t ∧ SNext s t (tgt f.pro) ∧
      (here t).sIn = false ∧ (here t).ks = k :: x.ks ∧ (here t).sw = 1 ∧ kValid k = true ∧ kRec k = true ∧
      kStg k = f.stg.toNat ∧ kBody k = tgt f.ker ∧ kExit k = tgt f.epi ∧ kIdx k = 0 ∧ kLim k = T + S - 1 ∧
      { fixedS (here t) with ks := [], kIds := [], kLive := [], nextRec := 0, sw := 0 } =
        { fixedS x with ks := [], kIds := [], kLive := [], nextRec := 0, sw := 0 })) ∧
  (∀ (s : State) (g : Guard) (f : FmtS) (e : BitVec 128) (l : List (BitVec 128)), SRuns s g [] → (here s).ks = e :: l →
    kRec e = true → kValid e = true → kIdx e < 2 ^ 32 - 1 →
    let x := here s
    let i := kIdx e + 1
    ∃ t k, exec (.loop g f) s = .next t ∧
      OnlyTile s.issue.tile s t ∧ (here t).pc = BitVec.ofNat 20 (if i < kLim e then kBody e else kExit e) ∧
      (here t).waitWhy .S = 0 ∧ (here t).sIn = false ∧ (here t).ks = k :: l ∧ kIdx k = i ∧ kLim k = kLim e ∧ kStg k = kStg e ∧
      kBody k = kBody e ∧ kExit k = kExit e ∧ kRec k = true ∧
      (here t).rb.toNat = (x.rb.toNat + 127) % 128 ∧
      (∀ j, j < 8 → (here t).sw.getLsbD j = if j = 0 then decide (i < kLim e - kStg e) else x.sw.getLsbD (j - 1)) ∧
      { fixedS (here t) with ks := [], rb := 0, sw := 0 } = { fixedS x with ks := [], rb := 0, sw := 0 }) ∧
  (∀ (s : State) (g : Guard) (f : FmtS), SRuns s g [] → (∀ e l, (here s).ks = e :: l → kRec e = false) →
    exec (.loop g f) s = .next (s.takeTrap s.issue false 0x0B 1))

/-- With guard true and registers full: LFOR with N = 0 goes to its exit and pushes nothing, else it pushes the counted entry
of R116 and goes to the next slot; LNEXT counts k0 and goes on at its own offset, or removes k0 and goes to its exit; LIDX
gives the count of the named entry, 0 beyond the depth. A push beyond six, a trip above 2^32 - 1 and an LNEXT without a
counted entry on top take the loop-stack overflow with data 0, 2 and 1. LFOR's exit and LNEXT's target are taken mod 2^20 (the
model's choice, log 59). Nothing else differs. (From R115, R116, R117, R118.) -/
def Obligations.CountedLoopWords : Prop :=
  (∀ (s : State) (g : Guard) (f : FmtB), SRuns s g [f.ga.toNat] →
    let x := here s
    let N := (x.readG f.ga.toNat).toNat
    let exit := (((s.issue.addr : Int) + f.off.toInt) % 1048576).toNat
    (6 ≤ x.ks.length → exec (.lfor g f) s = .next (s.takeTrap s.issue false 0x0B 0)) ∧
    (x.ks.length < 6 → 2 ^ 32 - 1 < N → exec (.lfor g f) s = .next (s.takeTrap s.issue false 0x0B 2)) ∧
    (x.ks.length < 6 → N = 0 → ∃ t, exec (.lfor g f) s = .next t ∧ SNext s t exit ∧ (here t).sIn = false ∧
      fixedS (here t) = fixedS x) ∧
    (x.ks.length < 6 → 0 < N → N ≤ 2 ^ 32 - 1 → ∃ t k, exec (.lfor g f) s = .next t ∧ SNext s t ((s.issue.addr + 1) % 2 ^ 20) ∧
      (here t).sIn = false ∧ (here t).ks = k :: x.ks ∧ kValid k = true ∧ kRec k = false ∧ kStg k = 0 ∧
      kBody k = (s.issue.addr + 1) % 2 ^ 20 ∧ kExit k = exit ∧ kIdx k = 0 ∧ kLim k = N ∧
      { fixedS (here t) with ks := [], kIds := [], kLive := [], nextRec := 0 } =
        { fixedS x with ks := [], kIds := [], kLive := [], nextRec := 0 })) ∧
  (∀ (s : State) (g : Guard) (f : FmtB) (e : BitVec 128) (l : List (BitVec 128)), SRuns s g [] → (here s).ks = e :: l →
    kRec e = false → kIdx e < 2 ^ 32 - 1 →
    let x := here s
    (kIdx e + 1 < kLim e → ∃ t k, exec (.lnext g f) s = .next t ∧
      SNext s t (((s.issue.addr : Int) + f.off.toInt) % 1048576).toNat ∧ (here t).sIn = false ∧ (here t).ks = k :: l ∧
      kIdx k = kIdx e + 1 ∧ kLim k = kLim e ∧ kBody k = kBody e ∧ kExit k = kExit e ∧ kRec k = false ∧
      { fixedS (here t) with ks := [] } = { fixedS x with ks := [] }) ∧
    (kLim e ≤ kIdx e + 1 → ∃ t, exec (.lnext g f) s = .next t ∧ SNext s t (kExit e) ∧ (here t).sIn = false ∧
      (here t).ks = l ∧
      { fixedS (here t) with ks := [], kIds := [], kLive := [] } = { fixedS x with ks := [], kIds := [], kLive := [] })) ∧
  (∀ (s : State) (g : Guard) (f : FmtB), SRuns s g [] → (∀ e l, (here s).ks = e :: l → kRec e = true) →
    exec (.lnext g f) s = .next (s.takeTrap s.issue false 0x0B 1)) ∧
  (∀ (s : State) (g : Guard) (f : FmtS), SRuns s g [f.gd.toNat] →
    SGives s (exec (.lidx g f) s) f.gd.toNat
      (match (here s).ks[f.imm.toNat % 8]? with | some k => BitVec.ofNat 64 (kIdx k) | none => 0))

/-- For every entry and four coordinates: an entry of space 3 names its stream and checks nothing; else the first dimension
whose coordinate lies outside its extent (0 standing for 65,536), or above the rank is nonzero, is refused as case 1; space 2
gives (base[56:0] + offset) mod 2^57; spaces 0 and 1 give base[21:0] + offset, refused as case 5 outside 0 to 2^22 - 1. The
address of SLD and SST is Resolve of the named entry at (G[ga] + imm20, G[gb], 0, 0) with the low bits of its size cleared; an
entry that is not of space 0 is refused as case 2 and a refused coordinate with its case and dimension, in the fields of
TRAP_DATA, the space before the coordinate (the model's choice, log 61); every address lies below 2^22 and an access within
one row. (From R182, R123.) -/
def Obligations.LayoutAddresses : Prop :=
  (∀ (e : Nat) (c0 c1 c2 c3 : Int),
     let c (i : Nat) : Int := if i = 0 then c0 else if i = 1 then c1 else if i = 2 then c2 else c3
     let ext (i : Nat) : Nat := if e / 2 ^ (128 + 16 * i) % 2 ^ 16 = 0 then 65536 else e / 2 ^ (128 + 16 * i) % 2 ^ 16
     let rank := e / 2 ^ (320 + 11) % 4
     let space := e / 2 ^ (320 + 9) % 4
     let good (i : Nat) : Prop := if rank < i then c i = 0 else 0 ≤ c i ∧ c i < ext i
     let stride (i : Nat) : Int := (BitVec.ofNat 32 (e / 2 ^ (192 + 32 * i))).toInt
     let off := c0 * stride 0 + c1 * stride 1 + c2 * stride 2 + c3 * stride 3
     let a : Int := (e % 2 ^ 22 : Nat) + off
     (space = 3 → resolve e [c0, c1, c2, c3] = .ok (.stream (e % 4))) ∧
     (space ≠ 3 → ∀ i, i < 4 → ¬ good i → (∀ j, j < i → good j) → resolve e [c0, c1, c2, c3] = .error (1, i)) ∧
     ((∀ i, i < 4 → good i) →
       (space = 2 → resolve e [c0, c1, c2, c3] = .ok (.virt ((((e % 2 ^ 57 : Nat) : Int) + off) % 2 ^ 57).toNat)) ∧
       (space < 2 → 0 ≤ a ∧ a < 2 ^ 22 → resolve e [c0, c1, c2, c3] = .ok (.row a.toNat)) ∧
       (space < 2 → a < 0 ∨ 2 ^ 22 ≤ a → resolve e [c0, c1, c2, c3] = .error (5, 0)))) ∧
  (∀ (x : Tile) (f : FmtSM), f.size.toNat ≤ 6 →
     let e := x.readLay f.lay.toNat
     let n := sizeBytes f.size.toNat
     let r := resolve e [(x.readG f.ga.toNat).toInt + f.imm.toInt, (x.readG f.gb.toNat).toInt, 0, 0]
     (laySpace e ≠ 0 → x.smAddr f = .error (f.lay.toNat + 2 * 256)) ∧
     (laySpace e = 0 → ∀ c d, r = .error (c, d) → x.smAddr f = .error (f.lay.toNat + c * 256 + d * 2 ^ 18)) ∧
     (laySpace e = 0 → ∀ b, r = .ok (.row b) → x.smAddr f = .ok (b - b % n)) ∧
     (∀ a, x.smAddr f = .ok a → a + n ≤ 2 ^ 22 ∧ a % n = 0 ∧ (a + n - 1) / 256 = a / 256))

/-- With guard true, registers full, no earlier access of the class open and no watchpoint on the row: SLD of a resolved
address writes gd with its bytes (of an older copy of the row where the ordinary domain still holds one, R296), zero- or
sign-extended; SST to a row above 3 (or, with PRIV.sys and no waiting engine, in rows 0 to 3) stores the low bytes of gd there
and no byte elsewhere, or, at a turn that leaves it to follow and outside rows 0 to 3 and the code rows, puts that access on
its way and changes no byte (log 4). An address that does not resolve takes the layout fault with its data and so, as case 3,
does an SST to rows 0 to 3 without PRIV.sys; an earlier access of the class that is open makes the word wait. Nothing else
differs. (From R123, R124, R203, R204, R293.) -/
def Obligations.ScalarMemoryWords : Prop :=
  ∀ (s : State) (g : Guard) (f : FmtSM), SRuns s g [f.ga.toNat, f.gb.toNat, f.gd.toNat] → f.size.toNat ≤ 6 →
    let x := here s
    let n := sizeBytes f.size.toNat
    let open_ := x.classHold x.nowSeq .S f.cls.toNat
    (∀ d, x.smAddr f = .error d → Traps s (exec (.sld g f) s) 8 d ∧ Traps s (exec (.sst g f) s) 8 d) ∧
    (∀ a, x.smAddr f = .ok a →
      (a < 1024 → x.priv.getLsbD 2 = false → Traps s (exec (.sst g f) s) 8 (f.lay.toNat + 3 * 256)) ∧
      (open_ = true → Waits s (exec (.sld g f) s) 8 ∧
        (1024 ≤ a ∨ x.priv.getLsbD 2 = true → Waits s (exec (.sst g f) s) 8)) ∧
      (open_ = false → NoReplay s → x.watch [a / 256] false false = none →
        SGives s (exec (.sld g f) s) f.gd.toNat (loaded f.size.toNat
          ((x.ordinary s.issue.tile .S f.cls.toNat (2048 * x.seqNext + 1)).readBytes a n))) ∧
      (open_ = false → f.size.toNat ≤ 3 → x.watch [a / 256] true false = none →
        let code := x.codeRow ≤ a / 256 ∧ a / 256 < x.codeRow + x.ncode
        ((1024 ≤ a ∧ (AtOnce s ∨ code)) ∨ (a < 1024 ∧ x.priv.getLsbD 2 = true ∧ x.waiters = []) →
          ∃ t, exec (.sst g f) s = .next t ∧ SNext s t (s.issue.addr + 1) ∧ SpOutside x (here t) a n ∧
            (∀ i, i < n → Memory.read (here t).sp (a + i) = (x.readG f.gd.toNat).extractLsb' (8 * i) 8) ∧
            renewed { fixedS (here t) with sp := [] } = renewed { fixedS x with sp := [] }) ∧
        (1024 ≤ a → ¬ AtOnce s → ¬ code →
          ∃ t r, exec (.sst g f) s = .next t ∧ SNext s t (s.issue.addr + 1) ∧ (here t).rowsOut = x.rowsOut ++ [r] ∧
            r.pos = 2048 * x.seqNext ∧ r.cls = f.cls.toNat ∧ r.eng = .S ∧ r.at_ = a ∧
            r.bytes = (toBytes n (x.readG f.gd.toNat).toNat).map (fun b => (b, true)) ∧
            { fixedS (here t) with rowsOut := [] } = { fixedS x with rowsOut := [] })))

/-- With guard true and registers full, CRD gives the value of the register its selector names; CWR of FP_FLAGS writes its six
bits, those that words have set in the same cycle staying set, of RAND_SEED (no A section unretired, else it waits) the seed
and every lane generator, of a debug register with PRIV.debug its defined bits; any other selector of Table 05-3 takes the
privilege fault with it. TMARK emits a mark record where marks are on and does nothing else otherwise. Nothing else differs.
(From R43, R45, R93, R94, R125, R126, R127.) -/
def Obligations.SystemRegisterWords : Prop :=
  (∀ (s : State) (g : Guard) (f : FmtS), SRuns s g [f.gd.toNat] → NoReplay s →
    SGives s (exec (.crd g f) s) f.gd.toNat (s.readSys s.issue.tile f.imm.toNat)) ∧
  (∀ (s : State) (k : Nat), let x := s.tile k
    s.readSys k 0 = BitVec.ofNat 64 k ∧ s.readSys k 1 = x.pointId ∧ s.readSys k 2 = x.launchId ∧
    (s.readSys k 3).toNat = x.bound.toNat ∧ (s.readSys k 4).toNat = x.fp.toNat ∧ (s.readSys k 5).toNat = x.seed.toNat ∧
    (s.readSys k 6).toNat = x.priv.toNat ∧ s.readSys k 7 = s.scyc ∧ (s.readSys k 8).toNat = x.rb.toNat ∧
    (s.readSys k 0x10).toNat = x.trapCause.toNat ∧ (s.readSys k 0x11).toNat = x.trapEngine.toNat ∧
    (s.readSys k 0x12).toNat = x.trapSection.toNat ∧ (s.readSys k 0x13).toNat = x.trapWord.toNat ∧
    s.readSys k 0x14 = x.trapData ∧ (s.readSys k 0x18).toNat = x.waitHead.toNat ∧
    (∀ i, i < 9 → s.readSys k (0x100 + i) = BitVec.ofNat 64 (x.readDbg i))) ∧
  (∀ (s : State) (g : Guard) (f : FmtS), SRuns s g [f.ga.toNat] →
    let x := here s
    let v := x.readG f.ga.toNat
    let sel := f.imm.toNat
    (sel = 4 → ∃ t, exec (.cwr g f) s = .next t ∧ SNext s t (s.issue.addr + 1) ∧ (here t).fp = v.extractLsb' 0 6 ||| x.fpNow ∧
      { fixedS (here t) with fp := 0 } = { fixedS x with fp := 0 }) ∧
    (sel = 5 → (∃ c ∈ x.secs, c.eng = .A) → Waits s (exec (.cwr g f) s) 8) ∧
    (sel = 5 → (∀ c ∈ x.secs, c.eng ≠ .A) → ∃ t, exec (.cwr g f) s = .next t ∧ SNext s t (s.issue.addr + 1) ∧
      (here t).seed.toNat = v.toNat % 2 ^ 32 ∧
      (∀ l, l < 1024 → elemNat 32 (here t).lg.toNat l = genSeed (v.toNat % 2 ^ 32) l) ∧
      { fixedS (here t) with seed := 0, lg := 0 } = { fixedS x with seed := 0, lg := 0 }) ∧
    (∀ i, i < 9 → sel = 0x100 + i → x.priv.getLsbD 1 = true →
      ∃ t, exec (.cwr g f) s = .next t ∧ SNext s t (s.issue.addr + 1) ∧
        (∀ j, (here t).readDbg j = if j = i then (v &&& dbgMask i).toNat else x.readDbg j) ∧
        (∀ j, j < 4 → (here t).bpFired.getLsbD j = (x.bpFired.getLsbD j && j != i)) ∧
        { fixedS (here t) with dbg := [], bpFired := 0 } = { fixedS x with dbg := [], bpFired := 0 }) ∧
    (sel ∈ [0, 1, 2, 3, 6, 7, 8, 0x10, 0x11, 0x12, 0x13, 0x14, 0x18] ∨ (0x100 ≤ sel ∧ sel ≤ 0x108 ∧ x.priv.getLsbD 1 = false) →
      Traps s (exec (.cwr g f) s) 0x0C sel)) ∧
  (∀ (s : State) (g : Guard) (f : FmtS), SRuns s g [f.ga.toNat] →
    (((here s).readDbg 8).testBit 0 = false → SOnlyMoves s (exec (.tmark g f) s) (s.issue.addr + 1)) ∧
    (((here s).readDbg 8).testBit 0 = true → exec (.tmark g f) s =
      .next ((s.trace 1 s.issue.tile (f.imm.toNat % 65536) ((here s).readG f.ga.toNat).toNat 0).retire false)))

/-- With guard true and registers full, LSET of an entry that no unretired L or W word names writes the defined bits of G[ga]
into word wd of the entry and leaves every other word of every entry (its defined bits) as it was, and waits otherwise; LGET
gives the defined bits of the word. Nothing else differs. (From R2, R181, R183, R186.) -/
def Obligations.LayoutTableWords : Prop :=
  (∀ (s : State) (g : Guard) (f : FmtT), SRuns s g [f.ga.toNat] →
    let x := here s
    let k := f.lay.toNat
    let held := ∃ c ∈ x.secs, ∃ w ∈ c.words, w.vmLay? c.eng = some k
    (held → Waits s (exec (.lset g f) s) 8) ∧
    (¬ held → ∃ t, exec (.lset g f) s = .next t ∧ SNext s t (s.issue.addr + 1) ∧
      (∀ j, j ≠ k → (here t).readLay j = x.readLay j) ∧
      (∀ w, w < 8 → (here t).readLay k / 2 ^ (64 * w) % 2 ^ 64 =
        (if w = f.wd.toNat then (x.readG f.ga.toNat).toNat else x.readLay k / 2 ^ (64 * w) % 2 ^ 64) &&& layDefined w) ∧
      { fixedS (here t) with layout := [] } = { fixedS x with layout := [] })) ∧
  (∀ (s : State) (g : Guard) (f : FmtT), SRuns s g [f.gd.toNat] →
    SGives s (exec (.lget g f) s) f.gd.toNat
      (BitVec.ofNat 64 (((here s).readLay f.lay.toNat / 2 ^ (64 * f.wd.toNat) % 2 ^ 64) &&& layDefined f.wd.toNat)))

/-- With guard true and registers full: RINIT of a ring with no pending release writes the configuration and a zero state
word, or takes the ring fault of case 4 where the configuration is bad, and waits while a release is pending. RACQ of side f
(d) binds the next slot to fill (drain) if it is free (full): it becomes filling (draining), the side's pointer moves on by
one mod n, and the layout entry gets the slot's address and the binding fields; an uninitialised ring is case 3, an entry of
another space case 5, a slot that can never become ready case 2 (no release of it is pending, or one that leads to the other
state); a slot that its pending release makes ready is waited for. Behind a RACQ.d the ordinary accesses find no content that
is older than a write which the slot's RREL.f has ordered (log 4). No other ring, entry or register differs. (From R185, R187,
R188, R189, R190.) -/
def Obligations.RingWords : Prop :=
  (∀ (s : State) (g : Guard) (f : FmtT), SRuns s g [f.ga.toNat] →
    let x := here s
    let b := f.bn.toNat
    let c := (x.readG f.ga.toNat).toNat % 2 ^ 32
    let pending := ∃ i, i < 16 ∧ ringPend (x.readRing b) i = true
    let slots := (ringNm1 c + 1) * ringSrows c
    let meets (lo n : Nat) : Prop := 0 < n ∧ lo < ringBrow c + slots ∧ ringBrow c < lo + n
    let bad := ringNm1 c = 0 ∨ ringSrows c = 0 ∨ ringBrow c < 4 ∨ 16384 < ringBrow c + slots ∨
      meets x.codeRow x.ncode ∨ meets x.wlRow x.nwl
    (pending → Waits s (exec (.rinit g f) s) 8) ∧
    (¬ pending → bad → Traps s (exec (.rinit g f) s) 9 (b * 256 + 4)) ∧
    (¬ pending → ¬ bad → ∃ t, exec (.rinit g f) s = .next t ∧ SNext s t (s.issue.addr + 1) ∧
      (∀ j, (here t).readRing j = if j = b then c else x.readRing j) ∧
      { fixedS (here t) with rings := [] } = { fixedS x with rings := [] })) ∧
  (∀ (s : State) (g : Guard) (f : FmtT), SRuns s g [] →
    let x := here s
    let b := f.bn.toNat
    let r := x.readRing b
    let k := f.lay.toNat
    let drain := f.side.toNat = 1
    let i := if drain then ringDa r else ringFa r
    let want := if drain then 2 else 0
    let held := ∃ c ∈ x.secs, ∃ w ∈ c.words, w.vmLay? c.eng = some k
    (ringNm1 r = 0 → Traps s (exec (.racq g f) s) 9 (b * 256 + 3)) ∧
    (ringNm1 r ≠ 0 → laySpace (x.readLay k) ≠ 0 → Traps s (exec (.racq g f) s) 9 (b * 256 + 5)) ∧
    (ringNm1 r ≠ 0 → laySpace (x.readLay k) = 0 → held → Waits s (exec (.racq g f) s) 7) ∧
    (ringNm1 r ≠ 0 → laySpace (x.readLay k) = 0 → ¬ held → ringSt r i ≠ want →
      ringPend r i = false ∨ ringSt r i = (if drain then 3 else 1) → Traps s (exec (.racq g f) s) 9 (b * 256 + 2)) ∧
    (ringNm1 r ≠ 0 → laySpace (x.readLay k) = 0 → ¬ held → ringSt r i = (if drain then 1 else 3) → ringPend r i = true →
      Waits s (exec (.racq g f) s) 7) ∧
    (ringNm1 r ≠ 0 → laySpace (x.readLay k) = 0 → ¬ held → ringSt r i = want →
      ∃ t, exec (.racq g f) s = .next t ∧ SNext s t (s.issue.addr + 1) ∧
        (if drain then EndsAlso x (here t) (fun c e p => c.chan = false ∧ (∃ m ∈ c.marks, Released m (260 + 16 * b + i) 0) ∧
          ((e = .L ∧ 2048 * x.seqNext ≤ p) ∨ (e = .S ∧ 1 ≤ p))) else (here t).copies = x.copies) ∧
        (∀ j, j ≠ b → (here t).readRing j = x.readRing j) ∧ (∀ j, j ≠ k → (here t).readLay j = x.readLay j) ∧
        (let r' := (here t).readRing b
         let n := ringNm1 r + 1
         r' % 2 ^ 64 = r % 2 ^ 64 ∧ ringFr r' = ringFr r ∧ ringDr r' = ringDr r ∧
         ringFa r' = (if drain then ringFa r else (i + 1) % n) ∧ ringDa r' = (if drain then (i + 1) % n else ringDa r) ∧
         (∀ j, j < 16 → ringSt r' j = (if j = i then (if drain then 3 else 1) else ringSt r j) ∧ ringPend r' j = ringPend r j)) ∧
        (let e := x.readLay k
         let e' := (here t).readLay k
         layBase e' = (ringBrow r + i * ringSrows r) * 256 % 2 ^ 22 ∧
         layField e' 5 38 10 = 512 + f.side.toNat * 256 + b * 16 + i ∧ layField e' 5 0 38 = layField e 5 0 38 ∧
         (∀ w, w < 8 → w ≠ 0 → w ≠ 5 → layField e' w 0 64 = layField e w 0 64)) ∧
        { fixedS (here t) with rings := [], layout := [], copies := [] } = { fixedS x with rings := [], layout := [], copies := [] }))

/-- With guard true, RREL of side f (d) on a slot that is filling (draining) and has no pending release sets the slot's
pending bit, moves the side's pointer on by one mod n, and changes no state of a slot; an uninitialised ring is case 3,
nothing acquired case 1. RREL_COMPLETE makes the slot full (free) and clears its pending bit once every section forwarded
before the RREL has retired and its writes are performed, and until then changes nothing; that of an RREL.f is a release of
those sections' stores and of the commands forwarded before it, on the slot's own number among the tile's semaphores (log 4).
(From R189, R190.) -/
def Obligations.RingRelease : Prop :=
  (∀ (s : State) (g : Guard) (f : FmtT), SRuns s g [] →
    let x := here s
    let b := f.bn.toNat
    let r := x.readRing b
    let drain := f.side.toNat = 1
    let i := if drain then ringDr r else ringFr r
    (ringNm1 r = 0 → Traps s (exec (.rrel g f) s) 9 (b * 256 + 3)) ∧
    (ringNm1 r ≠ 0 → (ringSt r i ≠ (if drain then 3 else 1) ∨ ringPend r i = true) →
      Traps s (exec (.rrel g f) s) 9 (b * 256 + 1)) ∧
    (ringNm1 r ≠ 0 → ringSt r i = (if drain then 3 else 1) → ringPend r i = false →
      ∃ t, exec (.rrel g f) s = .next t ∧ SNext s t (s.issue.addr + 1) ∧
        (∀ j, j ≠ b → (here t).readRing j = x.readRing j) ∧ (here t).relPend = x.relPend ++ [(b, i, f.side.toNat, x.seqNext, x.xq)] ∧
        (let r' := (here t).readRing b
         let n := ringNm1 r + 1
         r' % 2 ^ 64 = r % 2 ^ 64 ∧ ringFa r' = ringFa r ∧ ringDa r' = ringDa r ∧
         ringFr r' = (if drain then ringFr r else (i + 1) % n) ∧ ringDr r' = (if drain then (i + 1) % n else ringDr r) ∧
         (∀ j, j < 16 → ringSt r' j = ringSt r j ∧ ringPend r' j = (if j = i then true else ringPend r j))) ∧
        { fixedS (here t) with rings := [], relPend := [] } = { fixedS x with rings := [], relPend := [] })) ∧
  (∀ (s : State) (k b i side q xq : Nat), b < 16 → i < 16 →
    let x := s.tile k
    let r := x.readRing b
    let retired := (∀ c ∈ x.secs, q ≤ c.seq) ∧ (∀ c ∈ x.inflight, q ≤ c.seq) ∧ (∀ c ∈ x.late, q ≤ c.seq) ∧
      (∀ c ∈ x.chan, q ≤ c.seq) ∧ ∀ r ∈ x.rowsOut, 2048 * q < r.pos
    x.relPend.find? (fun p => p.1 == b && p.2.1 == i) = some (b, i, side, q, xq) → x.quenched = false →
    let prior (m : CopyMark) : Bool := (m.party == 2 * k && m.key % 2 == 0 && decide (m.key < 2048 * q)) ||
      (m.party == 2 * k + 1 && decide (m.key < xq))
    let mark (key : Nat × Nat) (m : CopyMark) : CopyMark :=
      if prior m && s.keyScope k key == 0 && s.partyScope k m.party == 0 then { m with rel := (260 + 16 * b + i, 0) :: m.rel } else m
    let noted (c : OldCopy) : OldCopy := { c with marks := c.marks.map (mark c.key) }
    (¬ retired → exec (.rrelComplete k b i) s = .next s) ∧
    (retired → ∃ t, exec (.rrelComplete k b i) s = .next t ∧ OnlyTile k s t ∧
      (∀ j, j ≠ b → (t.tile k).readRing j = x.readRing j) ∧
      (let r' := (t.tile k).readRing b
       r' % 2 ^ 64 = r % 2 ^ 64 ∧ r' / 2 ^ 112 = r / 2 ^ 112 ∧
       (∀ j, j < 16 → ringSt r' j = (if j = i then (if side = 0 then 2 else 0) else ringSt r j) ∧
         ringPend r' j = (if j = i then false else ringPend r j))) ∧
      (t.tile k).copies = (if side = 0 then x.copies.map noted else x.copies) ∧ SameOld x (t.tile k) ∧
      (side ≠ 0 → (t.tile k).codeOld = x.codeOld) ∧
      renewed { t.tile k with rings := [], relPend := [] } = renewed { x with rings := [], relPend := [] }))

/-- An enabled SEMS (S form with gn full, or of engine e with its captured gn), no earlier ordinary access open (for an engine
form, nothing of its engine in flight) and no engine waiting on the semaphore: the semaphore holds its value plus (gn + imm32)
mod 2^32, the release is noted on the older contents that the tile keeps, and nothing else differs; a sum past 2^32 - 1 leaves
it at 2^32 - 1 and the word, retired, takes the semaphore-overflow fault with sem and the tile in TRAP_DATA (an engine form
can be unretired by a trap of a lower class of the same cycle, log 39), or, in a point that has trapped in an earlier cycle,
does neither and waits to trap again (R361). While an earlier access is open it waits. (From R294, R324, R325, R330, R361.) -/
def Obligations.SemaphoreAdd : Prop :=
  (∀ (s : State) (g : Guard) (f : FmtSY), SRuns s g [f.gn.toNat] →
    let x := here s
    let n := f.sem.toNat
    let v := x.sem n + (((x.readG f.gn.toNat).toNat + f.imm.toNat) % 2 ^ 32)
    (x.openBefore x.nowSeq .S 0xFFFF = true → Waits s (exec (.sems g f) s) 7) ∧
    (x.openBefore x.nowSeq .S 0xFFFF = false → (∀ w ∈ x.waiters, w.sem ≠ n) →
      (v ≤ 2 ^ 32 - 1 → ∃ t, exec (.sems g f) s = .next t ∧ SGave s t n v) ∧
      (2 ^ 32 - 1 < v → (∀ st, x.stop = some st → st.trapped = false) →
        ∃ t, SGave s t n (2 ^ 32 - 1) ∧ exec (.sems g f) s = .next (t.trapWith
          s.issue false 0x0A (n + s.issue.tile * 256) (x.trapGen .S s.issue.seq s.issue.tag))) ∧
      (2 ^ 32 - 1 < v → ∀ st, x.stop = some st → st.trapped = true → st.cyc ≠ some s.scyc → Waits s (exec (.sems g f) s) 7))) ∧
  (∀ (s : State) (e : Engine) (g : Guard) (f : FmtSY), ERuns s e g [] →
    let x := here s
    let n := f.sem.toNat
    let v := x.sem n + (((s.issue.cap.vals.getD 0 0).toNat + f.imm.toNat) % 2 ^ 32)
    let busy := x.openBefore s.issue.seq e 0xFFFF = true ∨ (∃ i ∈ x.inflight, i.eng = e) ∨ ∃ i ∈ x.late, i.eng = e
    (busy → Waits s (exec (.semsEngine e g f) s) 7) ∧
    (¬ busy → (∀ w ∈ x.waiters, w.sem ≠ n) →
      (v ≤ 2 ^ 32 - 1 → ∃ t, exec (.semsEngine e g f) s = .next t ∧ EGave s t n v) ∧
      (2 ^ 32 - 1 < v → (∀ st, x.stop = some st → st.trapped = false) →
        ∃ t b, EGave s t n (2 ^ 32 - 1) ∧ exec (.semsEngine e g f) s = .next ((t.trapWith
          s.issue false 0x0A (n + s.issue.tile * 256) (x.trapGen e s.issue.seq s.issue.tag)).keepBack s.issue.tile b)) ∧
      (2 ^ 32 - 1 < v → ∀ st, x.stop = some st → st.trapped = true → st.cyc ≠ some s.scyc → Waits s (exec (.semsEngine e g f) s) 7)))

/-- An enabled SEMW, S form with gn full or of engine e with its captured gn. With n = 0 it retires, an acquire at its scope
on the present value, and nothing else differs. With n > 0 and no wait of its engine begun it begins a wait at the present
SCYC, takes nothing and does not retire: the unit serves it when the cycle ends, or later (R327). A wait the unit has served
retires with the acquire; one it has not goes on. The S form's acquire orders what is forwarded after it, an engine form's the
later words of its engine and the sections whose headers name its section. SEMR gives the value in gd, in a point that is
neither recorded nor replayed. (From R294, R295, R324, R326, R327, R328; what an acquire does to older contents is the
model's, log 4.) -/
def Obligations.SemaphoreTake : Prop :=
  (∀ (s : State) (g : Guard) (f : FmtSY), SRuns s g [f.gn.toNat] →
    let x := here s
    let k := f.sem.toNat
    let n := ((x.readG f.gn.toNat).toNat + f.imm.toNat) % 2 ^ 32
    (n = 0 → ∃ t, exec (.semw g f) s = .next t ∧ SNext s t (s.issue.addr + 1) ∧ Acquired x (here t) k f.scope.toNat ∧
      renewed (fixedS (here t)) = renewed (fixedS x)) ∧
    (0 < n → (∀ w ∈ x.waiters, w.eng ≠ .S) →
      exec (.semw g f) s = .next (s.setTile s.issue.tile (Tile.setWait { x with
        waiters := addWaiter { eng := .S, sem := k, n := n, start := s.scyc, below := decide (x.sem k < n) } x.waiters } .S
          (if n ≤ x.sem k then 8 else 1)))) ∧
    (∀ w, 0 < n → x.waiters.find? (fun v => v.eng == .S) = some w →
      (w.served = false → Waits s (exec (.semw g f) s) (if w.below = false ∧ w.start = s.scyc then 8 else 1)) ∧
      (w.served = true → ∃ t, exec (.semw g f) s = .next t ∧ SNext s t (s.issue.addr + 1) ∧ Acquired x (here t) k f.scope.toNat ∧
        (∀ v, v ∈ (here t).waiters ↔ v ∈ x.waiters ∧ v.eng ≠ .S) ∧
        renewed { fixedS (here t) with waiters := [] } = renewed { fixedS x with waiters := [] }))) ∧
  (∀ (s : State) (e : Engine) (g : Guard) (f : FmtSY), ERuns s e g [] →
    let x := here s
    let k := f.sem.toNat
    let n := ((s.issue.cap.vals.getD 0 0).toNat + f.imm.toNat) % 2 ^ 32
    (n = 0 → ∃ t, exec (.semwEngine e g f) s = .next t ∧ ENext s t ∧ AcquiredIn x (here t) e s.issue.seq k f.scope.toNat ∧
      renewed (fixedE (here t)) = renewed (fixedE x)) ∧
    (0 < n → (∀ w ∈ x.waiters, w.eng ≠ e) →
      exec (.semwEngine e g f) s = .next (s.setTile s.issue.tile (Tile.setWait { x with
        waiters := addWaiter { eng := e, sem := k, n := n, start := s.scyc, below := decide (x.sem k < n) } x.waiters } e
          (if n ≤ x.sem k then 8 else 1)))) ∧
    (∀ w, 0 < n → x.waiters.find? (fun v => v.eng == e) = some w →
      (w.served = false → Waits s (exec (.semwEngine e g f) s) (if w.below = false ∧ w.start = s.scyc then 8 else 1)) ∧
      (w.served = true → ∃ t, exec (.semwEngine e g f) s = .next t ∧ ENext s t ∧ AcquiredIn x (here t) e s.issue.seq k f.scope.toNat ∧
        (∀ v, v ∈ (here t).waiters ↔ v ∈ x.waiters ∧ v.eng ≠ e) ∧
        renewed { fixedE (here t) with waiters := [] } = renewed { fixedE x with waiters := [] }))) ∧
  (∀ (s : State) (g : Guard) (f : FmtSY), SRuns s g [f.gd.toNat] → NoReplay s →
    SGives s (exec (.semr g f) s) f.gd.toNat (BitVec.ofNat 64 ((here s).sem f.sem.toNat)))

/-- An increment of n to semaphore k adds it, saturating at 2^32 - 1, and, where it has changed the value and an engine waits
on k, notes the change with its setter for the unit. At the end of the cycle the unit serves k once, after all its changes:
with two waiters on k, in the order in which their waits began, each whose count does not exceed what is left, the first
before the second, and the value is what is left; a waiter that is not served stays; a served one stays marked until its word
retires; each served wait that began below its count is put in the wait log with the setter, the last change. (From R327,
R330, R332, R333.) -/
def Obligations.SemaphoreUnitServes : Prop :=
  (∀ (s : State) (t k n : Nat) (b : Setter), k < 256 →
    let x := s.tile t
    let y := (s.semAdd t k n b).1.tile t
    y.sem k = min (x.sem k + n) (2 ^ 32 - 1) ∧ SpOutside x y (4 * k) 4 ∧
      (s.semAdd t k n b).2 = decide (2 ^ 32 - 1 < x.sem k + n) ∧
      y.missed = (if y.sem k ≠ x.sem k ∧ x.waiters.any (fun w => w.sem == k && !w.served) = true then x.missed ++ [(k, b.kind, b.sid, b.seng)] else x.missed) ∧
      { y with sp := [], missed := [] } = { x with sp := [], missed := [] } ∧ OnlyTile t s (s.semAdd t k n b).1) ∧
  (∀ (s : State) (t k : Nat) (b : Setter) (ms : List (Nat × Nat × Nat × Nat)) (w1 w2 : Waiter),
    let x := s.tile t
    x.missed = ms ++ [(k, b.kind, b.sid, b.seng)] → (∀ m ∈ ms, m.1 = k) → x.waiters = [w1, w2] → w1.eng ≠ w2.eng →
    w1.sem = k → w2.sem = k → w1.served = false → w2.served = false → k < 256 →
    NoReplay { s with issue := { s.issue with tile := t } } →
    let v := x.sem k
    let go1 := decide (w1.n ≤ v)
    let v1 := if go1 then v - w1.n else v
    let go2 := decide (w2.n ≤ v1)
    let v2 := if go2 then v1 - w2.n else v1
    let y := (s.serveTile t).tile t
    y.sem k = v2 ∧ y.waiters = [{ w1 with served := go1 }, { w2 with served := go2 }] ∧ SpOutside x y (4 * k) 4 ∧ y.missed = [] ∧
      y.waitHead.toNat % 64 = (x.waitHead.toNat + ofBool (go1 && w1.below) + ofBool (go2 && w2.below)) % 64 ∧
      (go1 = true → w1.below = true → go2 = false ∨ w2.below = false →
        (Assoc.get 0 (x.waitHead.toNat % 64) y.waitLog) =
          BitVec.ofNat 128 (waitEntry w1.start.toNat s.scyc.toNat k w1.eng.code b)) ∧
      { y with sp := [], waiters := [], waitHead := 0, waitLog := [], missed := [], chunk := 0 } =
        { x with sp := [], waiters := [], waitHead := 0, waitLog := [], missed := [], chunk := 0 })

/-- An enabled FENCE or XFENCE retires and changes nothing where no ordinary access of a class in its mask that was forwarded
before it is open, and waits otherwise, FENCE making such writes to code rows performed; an engine form holds its own engine
the same way. Behind FENCE the tile's ordinary accesses of the mask's classes, and behind XFENCE its commands, find no content
that is older than its stores of those classes (log 4). IFENCE retires and no slot is decoded as it was before a performed
write any more, nor as it was before an earlier one. DRAIN retires where no section, result, command or row access forwarded
before it is left, no tile then reading what was there before the tile's writes, and waits otherwise. Nothing else differs. An
enabled WPOP with g8 to g15 full and no watchpoint enabled, in a point that is neither recorded nor replayed: in a frontier
launch it takes the launch fault of case 6; with items on the list, g8+k holds bytes 8k+7 to 8k of the slot at head, head goes
on by one mod cap, count falls by one, c1 is 1 and nothing else of the tile or its scratchpad differs; with none and done, c1
is 0 and nothing else differs; else it waits. CYC gives the counter as it stood before this cycle, zero-extended. (From R300,
R301, R302, R303, R304, R305, R313, R316, R318, R336, R337.) -/
def Obligations.WaitingScalarWords : Prop :=
  ((∀ (s : State) (g : Guard) (f : FmtFN), SRuns s g [] →
     let x := here s
     let open_ := (f.mask ≠ 0 ∧ x.rowEntry = true) ∨
       ∃ a ∈ x.openAccesses, a.1 ≤ 2048 * x.seqNext ∧ f.mask.toNat.testBit a.2 = true
     let settled := x.secs = [] ∧ x.inflight = [] ∧ x.late = [] ∧ x.chan = [] ∧ x.rowsOut = []
     (¬ open_ → (∃ t, exec (.xfence g f) s = .next t ∧ SNext s t (s.issue.addr + 1) ∧
         EndsAlso x (here t) (fun c e p => c.chan = true ∧ e = .X ∧ x.xq ≤ p ∧ ∃ m ∈ c.marks, m.party = 2 * s.issue.tile ∧
           f.mask.toNat.testBit m.cls = true) ∧
         { fixedS (here t) with copies := [] } = { fixedS x with copies := [] }) ∧
       ∃ t, exec (.fence g f) s = .next t ∧ SNext s t (s.issue.addr + 1) ∧ Fenced x (here t) s.issue.tile f.mask.toNat ∧
         (here t).codeOld = x.codeOld.map (fun w => { w with need := match w.need with
           | .fence c => if f.mask.toNat.testBit c then .none else .fence c
           | n => n }) ∧
         renewed (fixedS (here t)) = renewed (fixedS x)) ∧
     (open_ → Waits s (exec (.fence g f) s) 7 ∧ Waits s (exec (.xfence g f) s) 7) ∧
     (∃ t, exec (.ifence g f) s = .next t ∧ SNext s t (s.issue.addr + 1) ∧
       (∀ w ∈ (here t).codeOld, w.need ≠ .none ∧ ∀ p ∈ w.slots, ∃ i v, x.codeOld[i]? = some v ∧ v.need = w.need ∧ v.left = w.left ∧ p ∈ v.slots ∧
         ∀ u ∈ x.codeOld.drop (i + 1), u.need = .none → ∀ q ∈ u.slots, q.1 ≠ p.1) ∧
       (∀ i v p, x.codeOld[i]? = some v → v.need ≠ .none → p ∈ v.slots →
         (∃ w ∈ (here t).codeOld, w.need = v.need ∧ w.left = v.left ∧ p ∈ w.slots) ∨
           ∃ u ∈ x.codeOld.drop (i + 1), u.need = .none ∧ ∃ q ∈ u.slots, q.1 = p.1) ∧
       { fixedS (here t) with codeOld := [] } = { fixedS x with codeOld := [] }) ∧
     (settled → TablesOk s → ∃ t, exec (.drain g f) s = .next t ∧ OnlyTileOld s.issue.tile s t ∧ PerformedAll s.issue.tile s t ∧
       (here t).pc = BitVec.ofNat 20 (s.issue.addr + 1) ∧ (here t).pcs = (x.count 2 1).pcs ∧ (here t).waitWhy .S = 0 ∧
       { fixedS (here t) with copies := [] } = { fixedS x with copies := [] }) ∧
     (¬ settled → Waits s (exec (.drain g f) s) 7)) ∧
   (∀ (s : State) (e : Engine) (g : Guard) (f : FmtFN), ERuns s e g [] →
     let x := here s
     let open_ := (f.mask ≠ 0 ∧ x.rowEntry = true) ∨
       ∃ a ∈ x.openAccesses, a.1 < x.posOf s.issue.seq e ∧ f.mask.toNat.testBit a.2 = true
     (¬ open_ → ∃ t, exec (.fenceEngine e g f) s = .next t ∧ ENext s t ∧ Fenced x (here t) s.issue.tile f.mask.toNat ∧
       { fixedE (here t) with copies := [] } = { fixedE x with copies := [] }) ∧
     (open_ → Waits s (exec (.fenceEngine e g f) s) 7))) ∧
  ((∀ (s : State) (g : Guard) (f : FmtS), SRuns s g [8, 9, 10, 11, 12, 13, 14, 15] → NoReplay s →
     let x := here s
     let cap := 4 * x.nwl
     let at_ := 256 * (x.wlRow + x.wlHead / 4) + 64 * (x.wlHead % 4)
     (x.isList = false → Traps s (exec (.wpop g f) s) 0x10 6) ∧
     (x.isList = true → 0 < x.wlCount → Unwatched x → ∃ t, exec (.wpop g f) s = .next t ∧
       (∀ j, j ≠ s.issue.tile → t.tile j = s.tile j) ∧ SameMemory s t ∧
       { t with tiles := s.tiles, launches := s.launches } = s ∧
       (here t).pc = BitVec.ofNat 20 (s.issue.addr + 1) ∧ (here t).readC 1 = true ∧
       (∀ m, m < 64 → (here t).readG m = if 8 ≤ m ∧ m < 16 then
         BitVec.ofNat 64 (ofBytes (x.readBytes (at_ + 8 * (m - 8)) 8)) else x.readG m) ∧
       (here t).wlHead = (x.wlHead + 1) % cap ∧ (here t).wlCount = x.wlCount - 1 ∧
       (∀ m, m < 8 → m ≠ 1 → (here t).readC m = x.readC m) ∧ Acquired x (here t) 256 2 ∧
       renewed { fixedS (here t) with g := [], c := 0, wlHead := 0, wlCount := 0 } =
         renewed { fixedS x with g := [], c := 0, wlHead := 0, wlCount := 0 }) ∧
     (x.isList = true → x.wlCount = 0 → x.wlDone = true →
       SSetsC s (exec (.wpop g f) s) (fun m => if m = 1 then some false else none)) ∧
     (x.isList = true → x.wlCount = 0 → x.wlDone = false → Waits s (exec (.wpop g f) s) 6)) ∧
   (∀ (s : State) (g : Guard) (f : FmtS), SRuns s g [f.gd.toNat] → NoReplay s →
     SGives s (exec (.cyc g f) s) f.gd.toNat (BitVec.ofNat 64 (Assoc.get 0 (f.imm.toNat % 8) (here s).pcsPrev).toNat)))

/-- For every register and every legal modifier, lane l of the modified source is lane ModLane(l) of the register: l itself
for class 0, b + (i + d) mod s for class 1, l with bit d inverted for class 2, b + d for class 3, where s = 2^k, i = l mod s
and b = l - i; and that lane lies below 1,024. (From R62.) -/
def Obligations.SourceModifier : Prop :=
  ∀ (v : VReg) (m : BitVec 12) (l : Nat), WellFormed.modifier m = true → l < 1024 →
    let cls := m.toNat / 1024
    let sg := 2 ^ (m.toNat / 64 % 16)
    let d := m.toNat % 64
    let b := l / sg * sg
    let from_ := if cls = 0 then l else if cls = 1 then b + (l % sg + d) % sg else if cls = 2 then l ^^^ 2 ^ d else b + d
    from_ < 1024 ∧ elemNat 32 (modReg v m).toNat l = elemNat 32 v.toNat from_

/-- With some lane enabled and every named register full, each of VADD, VSUB, VMUL, VMULH, VMAD, VMIN, VMAX, VABS, VADDS,
VSUBS, VAND, VOR, VXOR, VANDN, VSHL, VSHR, VSAR, VCLZ, VPOPC and VADDI answers a next state in which the enabled elements of
vd hold the results of Table 07-1 and the others are as before; VADDS and VSUBS set sat for each enabled element they clamp;
no other flag, register, predicate, generator, scratchpad byte, tile or memory byte differs. (From R26, R45, R60, R129, R132,
R133.) -/
def Obligations.VectorIntegerResults : Prop :=
  ∀ (s : State) (g : Guard) (en : PMask) (f : FmtV3), f.ty.toNat < 8 →
    let x := here s
    let ty := f.ty.toNat
    let w := 8 * 2 ^ (ty % 4)
    let d := f.vd.toNat
    let a (j : Nat) : Nat := elemNat w (x.srcVA f).toNat j
    let b (j : Nat) : Nat := elemNat w (x.srcVB f).toNat j
    let c (j : Nat) : Nat := elem x w f.vc.toNat j
    let V := valueOf ty w
    (VRuns s g en [f.va.toNat, f.vb.toNat, d] →
      VMoves s (exec (.vadd g f) s) en w d (fun j => a j + b j) ∧
      VMoves s (exec (.vsub g f) s) en w d (fun j => a j + 2 ^ w - b j) ∧
      VGives s (exec (.vadds g f) s) en w d (fun j => clampTo ty w (V (a j) + V (b j))) ∧
      VGives s (exec (.vsubs g f) s) en w d (fun j => clampTo ty w (V (a j) - V (b j))) ∧
      VMoves s (exec (.vmul g f) s) en w d (fun j => a j * b j) ∧
      VMoves s (exec (.vmulh g f) s) en w d (fun j => (V (a j) * V (b j) / 2 ^ w % 2 ^ w).toNat) ∧
      VMoves s (exec (.vmin g f) s) en w d (fun j => if V (a j) ≤ V (b j) then a j else b j) ∧
      VMoves s (exec (.vmax g f) s) en w d (fun j => if V (a j) ≤ V (b j) then b j else a j) ∧
      VMoves s (exec (.vand g f) s) en w d (fun j => a j &&& b j) ∧
      VMoves s (exec (.vor g f) s) en w d (fun j => a j ||| b j) ∧
      VMoves s (exec (.vxor g f) s) en w d (fun j => a j ^^^ b j) ∧
      VMoves s (exec (.vandn g f) s) en w d (fun j => a j &&& (2 ^ w - 1 - b j)) ∧
      VMoves s (exec (.vshl g f) s) en w d (fun j => a j * 2 ^ (b j % w)) ∧
      VMoves s (exec (.vshr g f) s) en w d (fun j => a j / 2 ^ (b j % w)) ∧
      VMoves s (exec (.vsar g f) s) en w d (fun j => ((BitVec.ofNat w (a j)).toInt / 2 ^ (b j % w) % 2 ^ w).toNat)) ∧
    (VRuns s g en [f.va.toNat, f.vb.toNat, f.vc.toNat, d] →
      VMoves s (exec (.vmad g f) s) en w d (fun j => a j * b j + c j)) ∧
    (VRuns s g en [f.va.toNat, d] →
      VMoves s (exec (.vabs g f) s) en w d (fun j => (V (a j)).natAbs) ∧
      VMoves s (exec (.vclz g f) s) en w d (fun j => if a j = 0 then w else w - 1 - (a j).log2) ∧
      VMoves s (exec (.vpopc g f) s) en w d (fun j => ((List.range w).filter fun i => (a j).testBit i).length)) ∧
    (∀ h : FmtVI, h.ty = f.ty → VRuns s g en [h.va.toNat, h.vd.toNat] →
      VMoves s (exec (.vaddi g h) s) en w h.vd.toNat (fun j =>
        elemNat w (modReg (x.readV h.va.toNat) h.moda).toNat j +
          (if ty = 3 then (h.imm.signExtend 64).toNat else h.imm.toNat)))

/-- With some lane enabled and every named register full, VFADD, VFSUB, VFMUL, VFMA and VFNMA write each enabled element with
the sum, difference, product or fused sum of the exact values of its operands rounded once to the type under rnd, set its
flags, and under stochastic rounding draw once per enabled element; VFMIN, VFMAX, VFABS, VFNEG and VFEXPO write the value of
R136 or R137, set no flag and draw nothing. Nothing else differs. (From R43, R45, R60, R134, R136, R137.) -/
def Obligations.VectorFloatResults : Prop :=
  ∀ (s : State) (g : Guard) (en : PMask) (f : FmtV3) (t : Fmt), Fmt.ofType? f.ty.toNat = some t → 8 ≤ f.ty.toNat → f.ty.toNat ≤ 10 →
    let x := here s
    let w := t.wid
    let d := f.vd.toNat
    let rnd := f.rnd.toNat
    let n := numElems w
    let u := rand x rnd w
    let a (j : Nat) : Nat := elemNat w (x.srcVA f).toNat j
    let b (j : Nat) : Nat := elemNat w (x.srcVB f).toNat j
    let A (j : Nat) : Fp := t.decode (a j)
    let B (j : Nat) : Fp := t.decode (b j)
    let C (j : Nat) : Fp := t.decode (elem x w f.vc.toNat j)
    (VRuns s g en [f.va.toNat, f.vb.toNat, d] →
      VRounds s (exec (.vfadd g f) s) en rnd w n d (fun j => t.add rnd (u j) (A j) (B j)) ∧
      VRounds s (exec (.vfsub g f) s) en rnd w n d (fun j => t.add rnd (u j) (A j) (B j).neg) ∧
      VRounds s (exec (.vfmul g f) s) en rnd w n d (fun j => t.mul rnd (u j) (A j) (B j)) ∧
      VMoves s (exec (.vfmin g f) s) en w d (fun j =>
        if (A j).isNaN && (B j).isNaN then t.nanRes.1 else if (A j).isNaN then b j else if (B j).isNaN then a j
        else if (B j).ltTotal (A j) then b j else a j) ∧
      VMoves s (exec (.vfmax g f) s) en w d (fun j =>
        if (A j).isNaN && (B j).isNaN then t.nanRes.1 else if (A j).isNaN then b j else if (B j).isNaN then a j
        else if (A j).ltTotal (B j) then b j else a j)) ∧
    (VRuns s g en [f.va.toNat, f.vb.toNat, f.vc.toNat, d] →
      VRounds s (exec (.vfma g f) s) en rnd w n d (fun j => t.fma rnd (u j) (A j) (B j) (C j)) ∧
      VRounds s (exec (.vfnma g f) s) en rnd w n d (fun j => t.fma rnd (u j) (A j).neg (B j) (C j))) ∧
    (VRuns s g en [f.va.toNat, d] →
      VMoves s (exec (.vfabs g f) s) en w d (fun j => if (A j).isNaN then t.nanRes.1 else a j % 2 ^ (w - 1)) ∧
      VMoves s (exec (.vfneg g f) s) en w d (fun j => if (A j).isNaN then t.nanRes.1 else (a j + 2 ^ (w - 1)) % 2 ^ w) ∧
      VMoves s (exec (.vfexpo g f) s) en w d (fun j => ((A j).expo % 2 ^ w).toNat))

/-- For each of the eight formats: (1) under mode 0 every nonzero magnitude m * 2^e with a sign whose rounded result does not
overflow gives bits of a value of the same sign that differs from the exact one by at most half of the unit of its last place,
and equals it if and only if inx is not set; an overflow sets ovf and inx and gives the infinity, or the largest finite value
in a format without infinities. (2) Under every mode 0 to 4 and in the saturating form, a magnitude x is rounded once: down to
a multiple of the unit, and up by one as the mode says of what lies below (to nearest with ties to even, never, towards either
infinity, or by the first 16 bits of the fraction and the random word), with the overflow of its mode, inx where x is not such
a multiple, and unf where that is so and x rounds below the smallest normal value with an unbounded exponent; x is given as m
* 2^e, or as a number between that and the next with at least 64 bits in m. (3) The sum, product, fused sum, quotient,
reciprocal, square root and reciprocal root of finite values that are not 0 are the exact real rounded so, and zeros have the
signs of R134 and Table 07-3. (4) A K-block's update of R37: an element that is NaN, or a scale of 0xFF outside a zero block,
gives the canonical NaN without a flag, an infinity times 0 and infinities of both signs the NaN with inv, infinities of one
sign are added to the accumulator; else, of finite elements, the products truncated to 41 bits below the greatest one's
leading bit are summed exactly, the scales applied, the sum rounded to .f32, and the accumulator added to it with one more
rounding. (From R27, R37, R39, R40, R41, R42, R134, R135.) -/
def Obligations.RoundsToNearest : Prop :=
  (∀ (ty : Nat) (t : Fmt) (neg : Bool) (m : Nat) (e : Int), Fmt.ofType? ty = some t → 0 < m →
    let r := t.round 0 0 false neg m e false
    (r.2.testBit 2 = false → ∃ m' e', t.decode r.1 = .fin neg m' e' ∧
      (e' ≤ e → m' = m * 2 ^ (e - e').toNat ∧ r.2 = 0) ∧
      (e < e' → let x : Int := m; let y : Int := (m' * 2 ^ (e' - e).toNat : Nat)
        2 * (x - y).natAbs ≤ 2 ^ (e' - e).toNat ∧ (x = y ↔ r.2.testBit 0 = false))) ∧
    (r.2.testBit 2 = true → r.2 = 5 ∧ r.1 = if t.hasInf then t.infBits neg else t.maxBits neg)) ∧
  (∀ (ty : Nat) (t : Fmt) (rnd u : Nat) (sat neg more : Bool) (m : Nat) (e : Int) (x : ℝ), Fmt.ofType? ty = some t → rnd ≤ 4 → 0 < m →
    (more = true → 2 ^ 63 ≤ m) → (m : ℝ) * (2 : ℝ) ^ e ≤ x → x < ((m : ℝ) + 1) * (2 : ℝ) ^ e →
    (more = false ↔ x = (m : ℝ) * (2 : ℝ) ^ e) → RoundedTo t rnd u sat neg x (t.round rnd u sat neg m e more)) ∧
  (∀ (ty : Nat) (t : Fmt) (rnd u : Nat) (a b c : Fp) (s1 s2 : Bool) (m1 m2 : Nat) (e1 e2 : Int), Fmt.ofType? ty = some t → rnd ≤ 4 →
    a = .fin s1 m1 e1 → b = .fin s2 m2 e2 → (∃ s m e, c = .fin s m e) →
    let A := realOf a
    let B := realOf b
    RoundsReal t rnd u (A + B) (t.add rnd u a b) ∧
    (A + B = 0 → t.add rnd u a b = (t.zeroBits (if m1 = 0 ∧ s1 = s2 then s1 else rnd == 3), 0)) ∧
    RoundsReal t rnd u (A * B) (t.mul rnd u a b) ∧
    (A * B = 0 → t.mul rnd u a b = (t.zeroBits (s1 != s2), 0)) ∧
    RoundsReal t rnd u (A * B + realOf c) (t.fma rnd u a b c) ∧
    (B ≠ 0 → RoundsReal t rnd u (A / B) (t.div rnd u a b) ∧ RoundsReal t rnd u (1 / B) (t.rcp rnd u b) ∧
      (A = 0 → t.div rnd u a b = (t.zeroBits (s1 != s2), 0))) ∧
    (B = 0 → t.div rnd u a b = (if m1 = 0 then t.invRes else (t.infBits (s1 != s2), 8)) ∧ t.rcp rnd u b = (t.infBits s2, 8)) ∧
    (0 < A → RoundsReal t rnd u (Real.sqrt A) (t.sqrt rnd u a) ∧ RoundsReal t rnd u (1 / Real.sqrt A) (t.rsq rnd u a)) ∧
    (A = 0 → t.sqrt rnd u a = (t.zeroBits s1, 0) ∧ t.rsq rnd u a = (t.infBits s1, 8)) ∧
    (A < 0 → t.sqrt rnd u a = t.invRes ∧ t.rsq rnd u a = t.invRes)) ∧
  (∀ (acc : Nat) (a b : Blk), a.vals.length = 32 → b.vals.length = 32 →
    let p (k : Nat) : Fp × Fp := (a.vals.getD k .nan, b.vals.getD k .nan)
    let isNan := (a.zero = false ∧ a.scale = 255) ∨ (b.zero = false ∧ b.scale = 255) ∨
      ∃ k, k < 32 ∧ ((p k).1 = .nan ∨ (p k).2 = .nan)
    let clash := ∃ k, k < 32 ∧ (((p k).1.isInf = true ∧ (p k).2.isZero = true) ∨ ((p k).1.isZero = true ∧ (p k).2.isInf = true))
    let both := ∀ neg : Bool, ∃ k, k < 32 ∧ Fp.mul (p k).1 (p k).2 = some (.inf neg)
    (isNan → blockAcc acc a b = (0x7FC00000, 0)) ∧
    (¬ isNan → clash ∨ both → blockAcc acc a b = (0x7FC00000, 16)) ∧
    (¬ isNan → ¬ clash → ¬ both → ∀ neg, (∃ k, k < 32 ∧ Fp.mul (p k).1 (p k).2 = some (.inf neg)) →
      blockAcc acc a b = Fmt.f32.add 0 0 (Fmt.f32.decode acc) (.inf neg)) ∧
    ((¬ isNan ∧ ∀ k, k < 32 → (p k).1.isInf = false ∧ (p k).2.isInf = false) → ∃ r, BlockRounds a b r ∧
      let z := Fmt.f32.add 0 0 (Fmt.f32.decode acc) (Fmt.f32.decode r.1)
      blockAcc acc a b = (z.1, r.2 ||| z.2)))

/-- With some lane enabled and every named register full, VFRCP, VFRSQ, VFSQRT, VFDIV, VFEXP2, VFLOG2, VFTANH, VRED, VFRED,
VSCAN and VFSCAN mark vd empty, leave its value, and put one result in flight whose elements are those of the word (the
reduction of the element's segment, or the scan up to it, for the last four) and whose flags are those of its enabled
elements; under mode 4 the generators draw. Nothing else differs. (From R63, R131, R135, R156, R157.) -/
def Obligations.LongLatencyWords : Prop :=
  (∀ (s : State) (g : Guard) (en : PMask) (f : FmtV3) (t : Fmt), Fmt.ofType? f.ty.toNat = some t → 8 ≤ f.ty.toNat → f.ty.toNat ≤ 10 →
    let x := here s
    let w := t.wid
    let ty := f.ty.toNat
    let rnd := f.rnd.toNat
    let u := rand x rnd w
    let a (j : Nat) : Nat := elemNat w (x.srcVA f).toNat j
    let b (j : Nat) : Nat := elemNat w (x.srcVB f).toNat j
    let issues (i : Instr) (r : Nat → FRes) : Prop := VIssues s (exec i s) en rnd w f.vd.toNat (fun j => (r j).1)
      (fun k => ∃ j, j < numElems w ∧ enElem en w j = true ∧ (r j).2.testBit k = true)
    (VRuns s g en [f.va.toNat, f.vd.toNat] →
      issues (.vfrcp g f) (fun j => t.rcp rnd (u j) (t.decode (a j))) ∧
      issues (.vfrsq g f) (fun j => t.rsq rnd (u j) (t.decode (a j))) ∧
      issues (.vfsqrt g f) (fun j => t.sqrt rnd (u j) (t.decode (a j))) ∧
      issues (.vfexp2 g f) (fun j => t.exp2 ty rnd (u j) (a j)) ∧
      issues (.vflog2 g f) (fun j => t.log2 ty rnd (u j) (a j)) ∧
      issues (.vftanh g f) (fun j => t.tanh ty rnd (u j) (a j))) ∧
    (VRuns s g en [f.va.toNat, f.vb.toNat, f.vd.toNat] →
      issues (.vfdiv g f) (fun j => t.div rnd (u j) (t.decode (a j)) (t.decode (b j))))) ∧
  (∀ (s : State) (g : Guard) (en : PMask) (f : FmtV3), VRuns s g en [f.va.toNat, f.vd.toNat] → f.ty.toNat ≤ 10 →
    2 ^ (f.vc.toNat / 16) * tyWidth f.ty.toNat ≤ 32768 →
    let x := here s
    let w := tyWidth f.ty.toNat
    let n := numElems w
    let k := f.vc.toNat / 16
    let o := f.vc.toNat % 16
    let src : List (Option Nat) := (List.range n).map fun j =>
      if enElem en w j then some (elemNat w (x.srcVA f).toNat j) else none
    let issues (i : Instr) (r : List (Option Nat) × Nat) : Prop := VIssues s (exec i s) en 0 w f.vd.toNat
      (fun j => (r.1.getD j none).getD 0) (fun k => r.2.testBit k = true)
    (f.ty.toNat < 8 → issues (.vred g f) (reduceAll (redInt o f.ty.toNat) k src) ∧
      issues (.vscan g f) (scanAll (redInt o f.ty.toNat) k src)) ∧
    (8 ≤ f.ty.toNat → issues (.vfred g f) (reduceAll (redFloat o f.ty.toNat f.rnd.toNat) k src) ∧
      issues (.vfscan g f) (scanAll (redFloat o f.ty.toNat f.rnd.toNat) k src)))

/-- For every list of present and absent elements whose length is a multiple of 2^k: each element of the add reduction is the
sum mod 2^w of the present elements of its segment, and each present element of the add scan the sum mod 2^w of the present
elements of its segment up to it; no flag is set. (From R156, R157.) -/
def Obligations.ReductionsAdd : Prop :=
  ∀ (ty k q : Nat) (l : List (Option Nat)), ty < 8 → l.length = 2 ^ k * q →
    let w := 8 * 2 ^ (ty % 4)
    let n := 2 ^ k
    let val (i : Nat) : Nat := (l.getD i none).getD 0
    let red := reduceAll (redInt 0 ty) k l
    let scan := scanAll (redInt 0 ty) k l
    red.2 = 0 ∧ scan.2 = 0 ∧ red.1.length = l.length ∧ scan.1.length = l.length ∧
    ∀ j v, l[j]? = some (some v) →
      (∃ y, red.1[j]? = some (some y) ∧ y % 2 ^ w = ((List.range n).map fun i => val (j / n * n + i)).sum % 2 ^ w) ∧
      (∃ y, scan.1[j]? = some (some y) ∧ y % 2 ^ w = ((List.range (j % n + 1)).map fun i => val (j / n * n + i)).sum % 2 ^ w)

/-- VTOG enabled in lane 0 with its source full leaves its value in flight for gd and lets its section go on, not yet retired;
not enabled, it retires and marks gd full at once. LONG_LATENCY_COMPLETE and MDRAIN_REGISTER_FULL of a result of their kind
write the rows of its vector register that its word writes, set its flags, mark the register full and take it off the list;
VTOG_COMPLETE writes its general register and marks it full, the first of two on one register too (log 58), and the VTOG
retires. Each section that has nothing left leaves. Nothing else differs; for a result of another kind, in a quenched tile, or
where an earlier word of the same engine has still to write the vector register (log 4), nothing changes. A VTOG that is not
enabled in lane 0 does not wait for its source, whatever other lanes are enabled (log 67). (From R63, R98, R131, R154, R155,
R168.) -/
def Obligations.ResultsLand : Prop :=
  (∀ (s : State) (g : Guard) (f : FmtV3), s.issue.eng ≠ .S →
    let x := here s
    let en := x.lanes s.issue.cap g
    let gd := f.vd.toNat % 64
    let src := (x.srcVA f).toNat
    let ty := f.ty.toNat
    let w := tyWidth ty
    (en.getLsbD 0 = true → x.emptyV f.va.toNat = false → ty ≤ 10 →
      ∃ t i, exec (.vtog g f) s = .next t ∧ OnlyTile s.issue.tile s t ∧ (here t).inflight = x.inflight ++ [i] ∧
        i.kind = .vtog ∧ i.tgt = gd ∧ i.seq = s.issue.seq ∧ i.rem = 0 ∧
        BitVec.ofNat 64 i.payload.toNat =
          (if ty < 4 then (BitVec.ofNat w src).signExtend 64 else (BitVec.ofNat w src).zeroExtend 64) ∧
        (here t).secs = ({ here t with secs := x.secs }.setSec s.issue.seq fun c => { c with idx := c.idx + 1 }).sweep.secs ∧
        (here t).waitWhy s.issue.eng = 0 ∧
        { here t with inflight := [], secs := [], waits := [] } = { x with inflight := [], secs := [], waits := [] }) ∧
    (en.getLsbD 0 = false → ∃ t, exec (.vtog g f) s = .next t ∧ OnlyTile s.issue.tile s t ∧
      (here t).secs = ({ here t with secs := x.secs }.setSec s.issue.seq fun c => { c with idx := c.idx + 1 }).sweep.secs ∧
      (here t).waitWhy s.issue.eng = 0 ∧
      (here t).pcs = (if en = 0 then (x.count (retireEvent s.issue.eng) 1).count 0x11 1 else x.count (retireEvent s.issue.eng) 1).pcs ∧
      (∀ n, n < 64 → (here t).emptyG n = if n = gd then false else x.emptyG n) ∧
      { fixedE (here t) with gEmpty := 0 } = { fixedE x with gEmpty := 0 })) ∧
  (∀ (s : State) (tile k : Nat) (i : InFlight),
    let x := s.tile tile
    x.inflight[k]? = some i →
    (x.quenched = true → exec (.longLatencyComplete tile k) s = .next s ∧ exec (.mdrainRegisterFull tile k) s = .next s ∧
      exec (.vtogComplete tile k) s = .next s) ∧
    (i.rem = 0 → x.quenched = false →
    let swept (t : State) : Prop := (t.tile tile).secs = ({ x with inflight := x.inflight.eraseIdx k }).sweep.secs ∧
      (t.tile tile).inflight = x.inflight.eraseIdx k
    let writing := ∃ w ∈ x.late, w.eng = i.eng ∧ ∃ j v, RegOut.vrow i.tgt j v ∈ w.outs
    let lands (ins : Instr) : Prop :=
      ∃ t, exec ins s = .next t ∧ OnlyTile tile s t ∧ swept t ∧
        (∀ n, n ≠ i.tgt → (t.tile tile).readV n = x.readV n) ∧
        (∀ j, j < 16 → elemNat 2048 ((t.tile tile).readV i.tgt).toNat j =
          elemNat 2048 (if i.rows.getLsbD j then i.payload else x.readV i.tgt).toNat j) ∧
        (t.tile tile).fp = (x.fp ||| i.flags) ∧
        (∀ n, n < 192 → (t.tile tile).emptyV n = if n = i.tgt then false else x.emptyV n) ∧
        { t.tile tile with v := [], fp := 0, fpNow := 0, vEmpty := 0, inflight := [], secs := [] } =
          { x with v := [], fp := 0, fpNow := 0, vEmpty := 0, inflight := [], secs := [] }
    (¬ writing → (i.kind = .longLat → lands (.longLatencyComplete tile k)) ∧ (i.kind = .mdrain → lands (.mdrainRegisterFull tile k))) ∧
    (writing → (i.kind = .longLat → exec (.longLatencyComplete tile k) s = .next s) ∧
      (i.kind = .mdrain → exec (.mdrainRegisterFull tile k) s = .next s)) ∧
    (i.kind = .vtog →
      ∃ t, exec (.vtogComplete tile k) s = .next t ∧ OnlyTile tile s t ∧ swept t ∧
        (∀ n, (t.tile tile).readG n = if n = i.tgt ∧ n ≠ 0 then BitVec.ofNat 64 i.payload.toNat else x.readG n) ∧
        (∀ n, n < 64 → (t.tile tile).emptyG n = if n = i.tgt then false else x.emptyG n) ∧
        (t.tile tile).pcs = (x.count 4 1).pcs ∧
        { t.tile tile with g := [], gEmpty := 0, inflight := [], secs := [], pcs := [] } =
          { x with g := [], gEmpty := 0, inflight := [], secs := [], pcs := [] }) ∧
    (i.kind ≠ .longLat → exec (.longLatencyComplete tile k) s = .next s) ∧
    (i.kind ≠ .mdrain → exec (.mdrainRegisterFull tile k) s = .next s) ∧
    (i.kind ≠ .vtog → exec (.vtogComplete tile k) s = .next s)))

/-- With some lane enabled and every named register full, the four compares write pt with the outcome of the element a lane
lies in and pf with its negation on enabled lanes (both lanes of a 64-bit element follow its even lane), clear both elsewhere
in the .z form and leave them otherwise; integers compare by the signedness of the type, -0 equals +0, and with a NaN only ne
and unordered hold. A .z form with no lane enabled clears both predicates whatever registers are empty. Nothing else differs.
With some lane enabled and the named register full: VPLOG writes the truth table over three predicates, VPCNT the first n set
lanes of A with n lane 0 of the modified source, VPFIND the first or the last set lane of A, VPMOV one bit of each lane of the
modified source or whether the lane is nonzero. Nothing else differs. (From R51, R58, R61, R138, R139, R140, R161, R162.) -/
def Obligations.VectorComparesAndPredicates : Prop :=
  ((∀ (s : State) (g : Guard) (en : PMask) (f : FmtVP), f.ty.toNat ∈ [2, 3, 6, 7] → f.sel.toNat ≤ 5 →
     VRuns s g en [f.va.toNat, f.vb.toNat] →
     let w := 8 * 2 ^ (f.ty.toNat % 4)
     let src (n : Nat) (m : BitVec 12) (l : Nat) : Int := valueOf f.ty.toNat w (elemNat w (modReg ((here s).readV n) m).toNat (32 * l / w))
     VPair s (exec (.vcmp g f) s) f.pt.toNat f.pf.toNat (f.z == 1) (fun l => en.getLsbD (if w = 64 then l / 2 * 2 else l))
       (fun l => holdsInt f.sel.toNat (src f.va.toNat f.moda l) (src f.vb.toNat f.modb l))) ∧
   (∀ (s : State) (g : Guard) (en : PMask) (f : FmtVPI), f.ty.toNat ∈ [2, 3, 6, 7] → f.cond.toNat ≤ 5 →
     VRuns s g en [f.va.toNat] →
     let w := 8 * 2 ^ (f.ty.toNat % 4)
     let imm : Int := if f.ty.toNat < 4 then f.imm.toInt else f.imm.toNat
     VPair s (exec (.vcmpi g f) s) f.pt.toNat f.pf.toNat (f.z == 1) (fun l => en.getLsbD (if w = 64 then l / 2 * 2 else l))
       (fun l => holdsInt f.cond.toNat
         (valueOf f.ty.toNat w (elemNat w (modReg ((here s).readV f.va.toNat) f.moda).toNat (32 * l / w))) imm)) ∧
   (∀ (s : State) (g : Guard) (en : PMask) (f : FmtVP), f.sel.toNat ≤ 5 ∨ f.sel.toNat = 10 ∨ f.sel.toNat = 11 →
     VRuns s g en [f.va.toNat, f.vb.toNat] →
     let src (n : Nat) (m : BitVec 12) (l : Nat) : Fp := Fmt.f32.decode (elemNat 32 (modReg ((here s).readV n) m).toNat l)
     VPair s (exec (.vfcmp g f) s) f.pt.toNat f.pf.toNat (f.z == 1) (fun l => en.getLsbD l)
       (fun l =>
         let a := src f.va.toNat f.moda l
         let b := src f.vb.toNat f.modb l
         let nan := a.isNaN || b.isNaN
         let lt := (Fp.cmp a b).1
         let eq := (Fp.cmp a b).2
         if f.sel = 0 then !nan && eq else if f.sel = 1 then nan || !eq else if f.sel = 2 then !nan && lt
         else if f.sel = 3 then !nan && (lt || eq) else if f.sel = 4 then !nan && !(lt || eq)
         else if f.sel = 5 then !nan && !lt else if f.sel = 10 then nan else !nan)) ∧
   (∀ (s : State) (g : Guard) (en : PMask) (f : FmtVP), VRuns s g en [f.va.toNat] →
     VPair s (exec (.vfclass g f) s) f.pt.toNat f.pf.toNat (f.z == 1) (fun l => en.getLsbD l)
       (fun l => f.sel.getLsbD (match Fmt.f32.decode (elemNat 32 (modReg ((here s).readV f.va.toNat) f.moda).toNat l) with
         | .nan => 0
         | .inf n => if n then 1 else 7
         | .fin n m _ => if m = 0 then 4 else if m < 2 ^ 23 then (if n then 3 else 5) else (if n then 2 else 6)))) ∧
   (∀ (s : State) (g : Guard) (f : FmtVP) (i : Instr), i = .vcmp g f ∨ i = .vfcmp g f ∨ i = .vfclass g f → s.issue.eng ≠ .S →
     (here s).lanes s.issue.cap g = 0 → f.z = 1 → ∃ t, exec i s = .next t ∧ OnlyTile s.issue.tile s t ∧
       (∀ n, (here t).readP n = if n = 0 then BitVec.allOnes 1024 else if n = f.pt.toNat ∨ n = f.pf.toNat then 0 else (here s).readP n) ∧
       { fixedE (here t) with p := [] } = { fixedE (here s) with p := [] }) ∧
   (∀ (s : State) (g : Guard) (f : FmtVPI), s.issue.eng ≠ .S → (here s).lanes s.issue.cap g = 0 → f.z = 1 →
     ∃ t, exec (.vcmpi g f) s = .next t ∧ OnlyTile s.issue.tile s t ∧
       (∀ n, (here t).readP n = if n = 0 then BitVec.allOnes 1024 else if n = f.pt.toNat ∨ n = f.pf.toNat then 0 else (here s).readP n) ∧
       { fixedE (here t) with p := [] } = { fixedE (here s) with p := [] })) ∧
  (∀ (s : State) (g : Guard) (en : PMask) (f : FmtVP),
     let x := here s
     let name (k : Nat) (l : Nat) : Bool := (x.lanePred s.issue.cap (f.modb.toNat / 2 ^ k % 16)).getLsbD l
     let A := name 8
     let lane (l : Nat) : Nat := elemNat 32 (modReg (x.readV f.va.toNat) f.moda).toNat l
     let pair (i : Instr) (cond : Nat → Bool) : Prop :=
       VPair s (exec i s) f.pt.toNat f.pf.toNat (f.z == 1) (fun l => en.getLsbD l) cond
     (VRuns s g en [] →
       pair (.vplog g f) (fun l => f.sel.toNat.testBit (4 * ofBool (A l) + 2 * ofBool (name 4 l) + ofBool (name 0 l))) ∧
       (f.sel.getLsbD 0 = false → pair (.vpfind g f) (fun l => A l && !((List.range l).any fun m => A m))) ∧
       (f.sel.getLsbD 0 = true → pair (.vpfind g f) (fun l => A l && !((List.range 1024).any fun m => decide (l < m) && A m)))) ∧
     (VRuns s g en [f.va.toNat] →
       pair (.vpcnt g f) (fun l => A l && decide (((List.range l).filter fun m => A m).length < lane 0)) ∧
       (f.sel.toNat < 32 → pair (.vpmov g f) (fun l => (lane l).testBit f.sel.toNat)) ∧
       (f.sel.toNat = 64 → pair (.vpmov g f) (fun l => decide (lane l ≠ 0)))))

/-- With some lane enabled and every named register full, the conversions write the first N elements of vd and zero above
them, on enabled lanes: VCVT by R142, VFCVT by RoundTo of the value, VQNT the quantised elements with the heads in vb, VDQNT
the values of the elements under their heads; a head of a group with an enabled element whose code is neither 0 nor that of
the type takes the format fault with the lowest such group and changes nothing. Flags and generators as R45 and R43 say;
nothing else differs. (From R43, R44, R45, R141, R142, R143, R144, R145, R146.) -/
def Obligations.VectorConversions : Prop :=
  ∀ (s : State) (g : Guard) (en : PMask) (f : FmtVC), f.dt.toNat ≤ 22 → f.st.toNat ≤ 22 →
    let x := here s
    let st := f.st.toNat
    let dt := f.dt.toNat
    let ws := tyWidth st
    let wd := tyWidth dt
    let n := 32768 / max ws wd
    let rnd := f.rnd.toNat
    let u := rand x rnd wd
    let d := f.vd.toNat
    let a (j : Nat) : Nat := elemNat ws (modReg (x.readV f.va.toNat) f.moda).toNat j
    let upTo (r : Nat → FRes) (j : Nat) : FRes := if j < n then r j else (0, 0)
    (VRuns s g en [f.va.toNat, d] →
      (st < 8 → dt < 8 → f.sat = 0 → VRounds s (exec (.vcvt g f) s) en rnd wd n d (upTo fun j => ((valueOf st ws (a j) % 2 ^ wd).toNat, 0))) ∧
      (st < 8 → dt < 8 → f.sat = 1 → VRounds s (exec (.vcvt g f) s) en rnd wd n d (upTo fun j => clampTo dt wd (valueOf st ws (a j)))) ∧
      (∀ t, st < 8 → 8 ≤ dt → dt ≤ 10 → Fmt.ofType? dt = some t →
        VRounds s (exec (.vcvt g f) s) en rnd wd n d (upTo fun j =>
          t.ofFp rnd (u j) (f.sat == 1) (.fin (decide (valueOf st ws (a j) < 0)) (valueOf st ws (a j)).natAbs 0))) ∧
      (∀ t, 8 ≤ st → st ≤ 10 → dt < 8 → Fmt.ofType? st = some t →
        VRounds s (exec (.vcvt g f) s) en rnd wd n d (upTo fun j => toInteger dt rnd (u j) (t.decode (a j)))) ∧
      (∀ t t', 8 ≤ st → st ≤ 15 → 8 ≤ dt → dt ≤ 15 → Fmt.ofType? st = some t → Fmt.ofType? dt = some t' →
        VRounds s (exec (.vfcvt g f) s) en rnd wd n d (upTo fun j => t'.ofFp rnd (u j) (f.sat == 1) (t.decode (a j))))) ∧
    (∀ t, VRuns s g en [f.va.toNat, d, f.vb.toNat] → f.vb ≠ f.vd → 8 ≤ st → st ≤ 10 → 11 ≤ dt → Fmt.ofType? st = some t →
      let q (i : Nat) := quantGroup dt rnd ((List.range 32).map fun k => u (32 * i + k)) ((List.range 32).map fun k => t.decode (a (32 * i + k)))
      ∃ y, exec (.vqnt g f) s = .next y ∧ ENext s y ∧
        (∀ j, j < numElems wd → elem (here y) wd d j = if enElem en wd j then
          (if j < n then ((q (j / 32)).2.2.getD (j % 32) (0, 0)).1 % 2 ^ wd else 0) else elem x wd d j) ∧
        (∀ i, i < 2048 → elem (here y) 16 f.vb.toNat i = if enElem en 16 i then
          (if i < n / 32 then typeCode dt + 256 * (q i).1 else 0) else elem x 16 f.vb.toNat i) ∧
        (∀ m, m ≠ d → m ≠ f.vb.toNat → (here y).readV m = x.readV m) ∧
        (∀ k, k < 6 → ((here y).fp.getLsbD k = true ↔ x.fp.getLsbD k = true ∨
          (∃ j, j < n ∧ enElem en wd j = true ∧ ((q (j / 32)).2.2.getD (j % 32) (0, 0)).2.testBit k = true) ∨
          (∃ i, i < n / 32 ∧ enElem en 16 i = true ∧ (q i).2.1.testBit k = true))) ∧
        GensDrawn x (here y) en rnd wd n ∧
        { fixedE (here y) with v := [], fp := 0, fpNow := 0, lg := 0 } =
          { fixedE x with v := [], fp := 0, fpNow := 0, lg := 0 }) ∧
    (VRuns s g en [f.va.toNat, f.vb.toNat, d] → 11 ≤ st → 8 ≤ dt → dt ≤ 10 →
      let head (i : Nat) : Nat := elemNat 16 (modReg (x.readV f.vb.toNat) f.modb).toNat i
      let bad (i : Nat) : Prop := (∃ k, k < 32 ∧ enElem en wd (32 * i + k) = true) ∧ head i % 256 ≠ 0 ∧ head i % 256 ≠ typeCode st
      (∀ i, i < n / 32 → bad i → (∀ k, k < i → ¬ bad k) → Traps s (exec (.vdqnt g f) s) 6 (head i % 256 * 256 + i)) ∧
      ((∀ i, i < n / 32 → ¬ bad i) →
        VRounds s (exec (.vdqnt g f) s) en rnd wd n d (upTo fun j => vdqnt1 dt (f.sat == 1) rnd (u j) (head (j / 32)) (a j))))

/-- With some lane enabled and every named register full, each writes the enabled elements of vd with the element its rule
names, bit for bit: VMOV the same element of va, VBCST element idx of its segment, VIOTA its own number, VPERM the element
that vb's element indexes, VRMRG byte o + j of the two sources in a row, VSEL that of va where the predicate's bit is set and
that of vb elsewhere. No flag and nothing else differs. With some lane enabled and every named register full: VSPCMP keeps the
four elements of each group of eight with the greatest magnitudes, the lower index first among equals, puts them in order into
the low half of vd and the mask of each group into metadata byte g of vm, zero above, on enabled lanes; VSPEXP puts element 4g
+ r at the place of the r-th set bit of its mask and 0 elsewhere, and an invalid mask of a group with an enabled lane takes
the sparse-metadata fault with the lowest group and changes nothing. Nothing else differs. (From R148, R149, R150, R151, R152,
R153, R158, R159, R160.) -/
def Obligations.MovesAndSparsity : Prop :=
  (∀ (s : State) (g : Guard) (en : PMask) (f : FmtV3),
     let x := here s
     let ty := f.ty.toNat
     let w := tyWidth ty
     let d := f.vd.toNat
     let a (j : Nat) : Nat := elemNat w (x.srcVA f).toNat j
     let b (j : Nat) : Nat := elemNat w (x.srcVB f).toNat j
     (VRuns s g en [f.va.toNat, d] →
       VMoves s (exec (.vmov g f) s) en w d a ∧
       (2 ^ f.vb.toNat * w ≤ 32768 → f.modb.toNat < 2 ^ f.vb.toNat →
         VMoves s (exec (.vbcst g f) s) en w d (fun j => a (j / 2 ^ f.vb.toNat * 2 ^ f.vb.toNat + f.modb.toNat)))) ∧
     (VRuns s g en [d] → VMoves s (exec (.viota g f) s) en w d (fun j => j)) ∧
     (VRuns s g en [f.va.toNat, f.vb.toNat, d] →
       VMoves s (exec (.vsel g f) s) en w d (fun j => if (x.readP (f.vc.toNat % 8)).getLsbD (laneOf w j) then a j else b j) ∧
       VMoves s (exec (.vperm g f) s) en w d (fun j => a (b j % (32768 / w)))) ∧
     (VRuns s g en [f.va.toNat, f.vb.toNat, f.vc.toNat, d] → ty = 4 →
       VMoves s (exec (.vrmrg g f) s) en 8 d (fun j =>
         let o := elemNat 32 (x.readV f.vc.toNat).toNat 0 % 4096
         if o + j < 4096 then elemNat 8 (x.srcVA f).toNat (o + j) else elemNat 8 (x.srcVB f).toNat (o + j - 4096)))) ∧
  (∀ (s : State) (g : Guard) (en : PMask) (f : FmtV3), f.ty.toNat ∈ [0, 1, 2, 4, 5, 6, 8, 9, 10, 11, 12, 13, 14] →
     let x := here s
     let w := tyWidth f.ty.toNat
     let n := 32768 / w
     let d := f.vd.toNat
     let a (j : Nat) : Nat := elemNat w (x.srcVA f).toNat j
     (VRuns s g en [f.va.toNat, d, f.vb.toNat] → f.vb ≠ f.vd →
       let mag (i : Nat) : Nat := magOf f.ty.toNat (a i)
       let kept (k : Nat) : Bool := decide (((List.range 8).filter fun u =>
         decide (mag (k / 8 * 8 + u) > mag k) || (decide (mag (k / 8 * 8 + u) = mag k) && decide (u < k % 8))).length < 4)
       let rank (k : Nat) : Nat := ((List.range (k % 8)).filter fun u => kept (k / 8 * 8 + u)).length
       ∃ t, exec (.vspcmp g f) s = .next t ∧ ENext s t ∧
         (∀ k, k < n → kept k = true → enElem en w (k / 8 * 4 + rank k) = true → elem (here t) w d (k / 8 * 4 + rank k) = a k) ∧
         (∀ j, n / 2 ≤ j → j < n → enElem en w j = true → elem (here t) w d j = 0) ∧
         (∀ j, j < n → enElem en w j = false → elem (here t) w d j = elem x w d j) ∧
         (∀ i, i < 4096 → enElem en 8 i = true → ∀ k, k < 8 →
           (elem (here t) 8 f.vb.toNat i).testBit k = (decide (i < n / 8) && kept (8 * i + k))) ∧
         (∀ i, i < 4096 → enElem en 8 i = false → elem (here t) 8 f.vb.toNat i = elem x 8 f.vb.toNat i) ∧
         (∀ m, m ≠ d → m ≠ f.vb.toNat → (here t).readV m = x.readV m) ∧
         { fixedE (here t) with v := [] } = { fixedE x with v := [] }) ∧
     (VRuns s g en [f.va.toNat, f.vb.toNat, d] →
       let mask (i : Nat) : Nat := elemNat 8 (x.srcVB f).toNat i
       let set (i k : Nat) : Nat := ((List.range k).filter fun u => (mask i).testBit u).length
       let bad (i : Nat) : Prop := (∃ k, k < 8 ∧ enElem en w (8 * i + k) = true) ∧ set i 8 ≠ 4
       (∀ i, i < n / 8 → bad i → (∀ k, k < i → ¬ bad k) → Traps s (exec (.vspexp g f) s) 7 (mask i + i * 256)) ∧
       ((∀ i, i < n / 8 → ¬ bad i) → VMoves s (exec (.vspexp g f) s) en w d (fun j =>
         if (mask (j / 8)).testBit (j % 8) then a (j / 8 * 4 + set (j / 8) (j % 8)) else 0))))

/-- For a word of the L engine with some lane enabled, every named register full and no watchpoint enabled: an entry of
another space is layout case 2 and a described entry case 4 but for VLD; the lowest access index that is refused takes the
layout fault; with an open access of its class the word waits; else the enabled lanes of register rows below n get the words
of their rows (VLD, VLDB all from row 0; VLDX issues them as a long-latency result, row j at the signed index lane j), PLD the
bits of its row, and a described VLD the widened elements of its blocks, 0 of a zero block: where its accesses are made when
it executes (log 4). A refusal of a described VLD, which may rest on a head it has read, waits for the class as its accesses
do (R206). At a turn that leaves accesses to follow, a VLD reads the next of its rows and stands, with the lanes it began
with. Nothing else differs. (From R206, R207, R208, R209, R210, R211, R212, R213, R215.) -/
def Obligations.VectorLoads : Prop :=
  ∀ (s : State) (g : Guard) (en : PMask) (f : FmtVM),
    let x := here s
    let e := x.readLay f.lay.toNat
    let n := vmCount f
    let v := f.v.toNat
    let below := lanesBelow en n
    let at_ (k : Int) := vmAddr x s.issue.cap f k
    let ix (j : Nat) : Int := (BitVec.ofNat 32 (elem x 32 f.aux.toNat j)).toInt
    Unwatched x → s.issue.eng = .L → x.loadFix = none →
    (VRuns s g en [v] →
      (laySpace e ≠ 0 → VmTraps s (exec (.vld g f) s) f 0 (2, 0) ∧ VmTraps s (exec (.vldb g f) s) f 0 (2, 0)) ∧
      (laySpace e = 0 → layDesc e = true → VmTraps s (exec (.vldb g f) s) f 0 (4, 0)) ∧
      (laySpace e = 0 → layDesc e = false →
        VmAccess s (exec (.vld g f) s) f (RowOn en n) (fun j => at_ j)
          (VMoves s (exec (.vld g f) s) below 32 v (fun l => rowWord x (at_ (l / 64 : Nat)) (l % 64))) ∧
        VmAccess s (exec (.vldb g f) s) f (fun j => j = 0 ∧ below ≠ 0) (fun _ => at_ 0)
          (VMoves s (exec (.vldb g f) s) below 32 v (fun l => rowWord x (at_ 0) (l % 64)))) ∧
      (laySpace e = 0 → layDesc e = false → ¬ ClassOpen s f → s.issue.late = true → x.rowsIn = [] →
        ∀ j a, (∀ i, RowOn en n i → ∃ b, at_ i = .ok b) → RowOn en n j → (∀ i, i < j → ¬ RowOn en n i) → at_ j = .ok a →
          ∃ t, exec (.vld g f) s = .next t ∧
            here t = { x with rowsIn := [(a / 256, x.readBytes (a / 256 * 256) 256)], loadFix := some (en, 0) }.setWait .L 0) ∧
      (laySpace e = 0 → layDesc e = true → x.rowsIn = [] →
        let w := codeRegWidth (layFmt e)
        let c := codeWidth (layFmt e)
        (ClassOpen s f → Waits s (exec (.vld g f) s) 8) ∧
        (¬ ClassOpen s f → ∀ d, x.blockPlan s.issue.cap e f false en = .error d → Traps s (exec (.vld g f) s) d.1 d.2) ∧
        (¬ ClassOpen s f → ∀ rs, x.blockPlan s.issue.cap e f false en = .ok rs →
          (AtOnce s → VMoves s (exec (.vld g f) s) below w v (fun j =>
            match rs.find? (fun r => r.j == j / (2048 / w) && r.b == j % (2048 / w) / 32) with
            | some r => if Memory.read x.sp r.head = 0 then 0
                else widenElem (layFmt e) (Memory.readLE x.sp r.slot 64 / 2 ^ (c * (j % 32)) % 2 ^ c)
            | none => 0))))) ∧
    (VRuns s g en [v, f.aux.toNat] →
      (laySpace e ≠ 0 → VmTraps s (exec (.vldx g f) s) f 0 (2, 0)) ∧
      (laySpace e = 0 → layDesc e = true → VmTraps s (exec (.vldx g f) s) f 0 (4, 0)) ∧
      (laySpace e = 0 → layDesc e = false →
        VmAccess s (exec (.vldx g f) s) f (RowOn en n) (fun j => at_ (ix j))
          (VIssues s (exec (.vldx g f) s) below 0 32 v (fun l => rowWord x (at_ (ix (l / 64))) (l % 64)) (fun _ => False)))) ∧
    (VRuns s g en [] →
      (laySpace e ≠ 0 → VmTraps s (exec (.pld g f) s) f 0 (2, 0)) ∧
      (laySpace e = 0 → layDesc e = true → VmTraps s (exec (.pld g f) s) f 0 (4, 0)) ∧
      (laySpace e = 0 → layDesc e = false →
        VmAccess s (exec (.pld g f) s) f (fun j => j = 0) (fun _ => at_ 0)
          (∃ t, exec (.pld g f) s = .next t ∧ ENext s t ∧
            (∀ m, m < 8 → ∀ l, l < 1024 → ((here t).readP m).getLsbD l =
              if m = 0 then true
              else if m = v % 8 ∧ en.getLsbD l = true then (rowWord x (at_ 0) (l / 32)).testBit (l % 32)
              else (x.readP m).getLsbD l) ∧
            { fixedE (here t) with p := [] } = { fixedE x with p := [] })))

/-- The accessed blocks are those of register rows below n with some lane enabled (VLD) or every lane enabled (VST); the body
of block b of register row j is slot b mod 4 of row Row(uj + b div 4), its head lies two bytes on from hbase for each body
slot from base on, within the scratchpad; a store names no row below 4, and a loaded head carries code 0 or the entry's. (From
R209, R211.) -/
def Obligations.DescribedBlocks : Prop :=
  ∀ (x : Tile) (cap : Capture) (f : FmtVM) (store : Bool) (en : PMask) (rs : List BlockRef),
    let e := x.readLay f.lay.toNat
    let w := codeRegWidth (layFmt e)
    let lane (j b k : Nat) : Bool := en.getLsbD (64 * j + w * b + k)
    x.blockPlan cap e f store en = .ok rs →
    codeWidth (layFmt e) ≠ 0 ∧
    (∀ j b, (∃ r ∈ rs, r.j = j ∧ r.b = b) ↔ j < vmCount f ∧ b < 64 / w ∧
      (if store then ∀ k, k < w → lane j b k = true else ∃ k, k < w ∧ lane j b k = true)) ∧
    (∀ r ∈ rs, ∃ a, vmAddr x cap f (16 / w * r.j + r.b / 4 : Nat) = .ok a ∧ (store = true → 1024 ≤ a) ∧
      r.slot = a / 256 * 256 + 64 * (r.b % 4) ∧ e % 2 ^ 22 ≤ r.slot ∧
      r.head = e / 2 ^ 64 % 2 ^ 22 + 2 * ((r.slot - e % 2 ^ 22) / 64) ∧ r.head + 1 < 2 ^ 22 ∧
      (store = false → Memory.read x.sp r.head = 0 ∨ (Memory.read x.sp r.head).toNat = layFmt e))

/-- With some lane enabled, every named register full and no watchpoint enabled: an entry of another space is layout case 2
and a described entry case 4 but for VST; the lowest access index refused, rows 0 to 3 among them as case 3, takes the layout
fault; with an open access of its class the word waits; else the bytes of enabled lanes of register rows below n are stored to
their rows (VSTX at the index lane's row, the highest register row last), VSTC the enabled lanes packed in ascending order,
PST the bits of enabled lanes, a described VST the packed bodies of its blocks: where the accesses are made when the word is
executed (log 4). Every other byte of the scratchpad and everything else is as before. (From R203, R207, R208, R209, R210,
R211, R213, R214, R215.) -/
def Obligations.VectorStores : Prop :=
  ∀ (s : State) (g : Guard) (en : PMask) (f : FmtVM),
    let x := here s
    let e := x.readLay f.lay.toNat
    let n := vmCount f
    let v := f.v.toNat
    let at_ (k : Int) := vmStoreAddr x s.issue.cap f k
    let ix (j : Nat) : Int := (BitVec.ofNat 32 (elem x 32 f.aux.toNat j)).toInt
    Unwatched x →
    (VRuns s g en [v] →
      let rank (l : Nat) : Nat := ((List.range l).filter fun m => en.getLsbD m).length
      let hits (l b : Nat) : Prop := l < 64 * n ∧ en.getLsbD l = true ∧
        (∃ a, at_ (rank l / 64 : Nat) = .ok a ∧ b / 256 = a / 256) ∧ b % 256 / 4 = rank l % 64
      (laySpace e ≠ 0 → VmTraps s (exec (.vst g f) s) f 0 (2, 0) ∧ VmTraps s (exec (.vstc g f) s) f 0 (2, 0)) ∧
      (laySpace e = 0 → layDesc e = true → VmTraps s (exec (.vstc g f) s) f 0 (4, 0)) ∧
      (laySpace e = 0 → layDesc e = false →
        VmAccess s (exec (.vst g f) s) f (RowOn en n) (fun j => at_ j)
          (VStores s (exec (.vst g f) s) fun y => RowsStored x y en n v fun j => at_ j) ∧
        VmAccess s (exec (.vstc g f) s) f (fun j => 64 * j < rank (64 * n)) (fun j => at_ j)
          (VStores s (exec (.vstc g f) s) fun y =>
            (∀ b, (∀ l, ¬ hits l b) → Memory.read y.sp b = Memory.read x.sp b) ∧
            (∀ b l, hits l b → (∀ m, l < m → ¬ hits m b) →
              Memory.read y.sp b = (x.readV v).extractLsb' (32 * l + 8 * (b % 4)) 8))) ∧
      (laySpace e = 0 → layDesc e = true →
        let w := codeRegWidth (layFmt e)
        let c := codeWidth (layFmt e)
        (∀ d, x.blockPlan s.issue.cap e f true en = .error d → Traps s (exec (.vst g f) s) d.1 d.2) ∧
        (∀ rs, x.blockPlan s.issue.cap e f true en = .ok rs →
          (ClassOpen s f → Waits s (exec (.vst g f) s) 8) ∧
          (¬ ClassOpen s f → AtOnce s → VStores s (exec (.vst g f) s) fun y =>
            (∀ b, (∀ r ∈ rs, b < r.slot ∨ r.slot + 64 ≤ b) → Memory.read y.sp b = Memory.read x.sp b) ∧
            (∀ p r q, rs = p ++ r :: q → (∀ r' ∈ q, r'.slot ≠ r.slot) → ∀ k, k < 512 →
              (Memory.readLE y.sp r.slot 64).testBit k =
                (decide (k < 32 * c) && (elem x w v (2048 / w * r.j + 32 * r.b + k / c)).testBit (k % c))))))) ∧
    (VRuns s g en [v, f.aux.toNat] →
      (laySpace e ≠ 0 → VmTraps s (exec (.vstx g f) s) f 0 (2, 0)) ∧
      (laySpace e = 0 → layDesc e = true → VmTraps s (exec (.vstx g f) s) f 0 (4, 0)) ∧
      (laySpace e = 0 → layDesc e = false →
        VmAccess s (exec (.vstx g f) s) f (RowOn en n) (fun j => at_ (ix j))
          (VStores s (exec (.vstx g f) s) fun y => RowsStored x y en n v fun j => at_ (ix j)))) ∧
    (VRuns s g en [] →
      (laySpace e ≠ 0 → VmTraps s (exec (.pst g f) s) f 0 (2, 0)) ∧
      (laySpace e = 0 → layDesc e = true → VmTraps s (exec (.pst g f) s) f 0 (4, 0)) ∧
      (laySpace e = 0 → layDesc e = false →
        VmAccess s (exec (.pst g f) s) f (fun j => j = 0) (fun _ => at_ 0)
          (∀ a, at_ 0 = .ok a → VStores s (exec (.pst g f) s) fun y =>
            SpOutside x y (a / 256 * 256) 128 ∧
            ∀ l, l < 1024 → (Memory.read y.sp (a / 256 * 256 + l / 8)).getLsbD (l % 8) =
              if en.getLsbD l then (x.readP (v % 8)).getLsbD l
              else (Memory.read x.sp (a / 256 * 256 + l / 8)).getLsbD (l % 8))))

/-- With its guard true, no watchpoint enabled and no push of its engine waiting: VFEED pushes n blocks of payload
(undescribed the first 4nw bytes of its rows, described the first 4w bytes of each block that is not a zero block) into FIFO A
or B, SCLD n heads into SQA or SQB; a refused row, body, head, format or a push that can never fit takes its fault, an open
access of the class makes it wait, and a refusal of it too (R206). The push appends whole and the word retires, or waits for
room and holds the engine; QUEUE_PUSH tries it again, with the bytes that the word read when it was executed (the model's
choice, log 49). Nothing else differs. (From R171, R206, R207, R208, R209, R216, R217, R309.) -/
def Obligations.FeedWords : Prop :=
  (∀ (s : State) (g : Guard) (f : FmtVM), ERuns s .L g [] → (here s).lPush = none → Unwatched (here s) →
    let x := here s
    let e := x.readLay f.lay.toNat
    let n := if f.aux.toNat % 128 = 0 then 128 else f.aux.toNat % 128
    let side := f.aux.toNat / 128
    let at_ (k : Nat) := vmAddr x s.issue.cap f k
    let slot (a b : Nat) : Nat := a / 256 * 256 + 64 * (b % 4)
    let head (p : Nat) : Nat := e / 2 ^ 64 % 2 ^ 22 + 2 * ((p - e % 2 ^ 22) / 64)
    let feed := exec (.vfeed g f) s
    let scale := exec (.scld g f) s
    (ClassOpen s f → Waits s feed 8 ∧ Waits s scale 8) ∧ (¬ ClassOpen s f →
    (laySpace e ≠ 0 → VmTraps s feed f 0 (2, 0) ∧ VmTraps s scale f 0 (2, 0)) ∧
    (laySpace e = 0 → layDesc e = false →
      let len := n * 4 * streamWidth (layFmt e)
      let on (t : Nat) : Prop := 256 * t < len
      (22 < layFmt e → VmTraps s feed f 0 (4, 0)) ∧
      (layFmt e ≤ 22 → 16384 < len → (∀ t, on t → ∃ a, at_ t = .ok a) → VmTraps s feed f 0 (4, 0)) ∧
      (layFmt e ≤ 22 → len ≤ 16384 → VmAccess s feed f on at_
        (∃ bs, bs.length = len ∧ Pushes s feed (2 + side) bs ∧
          ∀ i a, i < len → at_ (i / 256) = .ok a → bs.getD i 0 = Memory.read x.sp (a / 256 * 256 + i % 256))) ∧
      VmAccess s scale f (fun t => t = 0) at_
        (∀ a, at_ 0 = .ok a → Pushes s scale side (x.readBytes (a / 256 * 256) (2 * n)))) ∧
    (laySpace e = 0 → layDesc e = true →
      let c := codeWidth (layFmt e)
      let outside (a b : Nat) : Prop := slot a b < e % 2 ^ 22 ∨ 2 ^ 22 ≤ head (slot a b) + 1
      (c = 0 → VmTraps s feed f 0 (4, 0)) ∧
      (x.rowsIn = [] → ∀ d, x.feedPlan s.issue.cap e f = .error d → Traps s feed d.1 d.2) ∧
      (x.rowsIn = [] → ∀ rows bs, x.feedPlan s.issue.cap e f = .ok (rows, bs) →
        (∀ b, b < n → ∃ a, at_ (b / 4) = .ok a ∧ ¬ outside a b ∧
          (Memory.read x.sp (head (slot a b)) = 0 ∨ (Memory.read x.sp (head (slot a b))).toNat = layFmt e)) ∧
        bs = ((List.range n).flatMap fun b => match at_ (b / 4) with
          | .ok a => if Memory.read x.sp (head (slot a b)) = 0 then [] else x.readBytes (slot a b) (4 * c)
          | .error _ => []) ∧
        (AtOnce s → Pushes s feed (2 + side) bs)) ∧
      (∀ d, at_ 0 = .error d → VmTraps s scale f 0 d) ∧
      (∀ a, at_ 0 = .ok a →
        let over_ := slot a 0 < e % 2 ^ 22 ∨ 2 ^ 22 ≤ head (slot a 0) + 2 * n - 1
        (over_ → VmTraps s scale f 0 (5, 0)) ∧
        (¬ over_ → AtOnce s → Pushes s scale side (x.readBytes (head (slot a 0)) (2 * n))))))) ∧
  (∀ (s : State) (k q : Nat) (bs : List Byte) (i : Issue) (w : FwdWord),
    (s.tile k).lPush = some (q, bs) → (s.tile k).nextWord k .L = some (i, w) → (s.tile k).quenched = false →
    (s.tile k).stop = none → q < 4 → (q < 2 → bs.length % 2 = 0) →
    Pushes { s with issue := i } (exec (.queuePush k none) s) q bs)

/-- With guard true and its registers full: MZERO clears the accumulator; MLOAD copies four registers into it, 16 rows each;
MDRAIN empties the four registers and puts into flight the bits each will hold, leaving the accumulator; MMA and MMAS stand at
step 0. No other accumulator, and nothing else, differs. (From R164, R167, R168, R172.) -/
def Obligations.MatrixWords : Prop :=
  ∀ (s : State) (g : Guard) (f : FmtMX),
    let x := here s
    let a := f.acc.toNat
    (ERuns s .M g [] →
      (∃ t, exec (.mzero g f) s = .next t ∧ ENext s t ∧ (∀ n, (here t).readM n = if n = a then 0 else x.readM n) ∧
        { fixedE (here t) with m := [] } = { fixedE x with m := [] }) ∧
      (x.mStep = none → ∀ i, i = .mma g f ∨ i = .mmas g f →
        exec i s = .next (s.setTile s.issue.tile ({ x with mStep := some 0 }.setWait .M 0)))) ∧
    (∀ r0 r1 r2 r3, s.issue.cap.regs = [r0, r1, r2, r3] → ERuns s .M g [r0, r1, r2, r3] →
      let r (q : Nat) : Nat := if q = 0 then r0 else if q = 1 then r1 else if q = 2 then r2 else r3
      (∃ t, exec (.mload g f) s = .next t ∧ ENext s t ∧ (∀ n, n ≠ a → (here t).readM n = x.readM n) ∧
        (∀ q, q < 4 → ((here t).readM a).extractLsb' (32768 * q) 32768 = x.readV (r q)) ∧
        { fixedE (here t) with m := [] } = { fixedE x with m := [] }) ∧
      (∃ t i0 i1 i2 i3, exec (.mdrain g f) s = .next t ∧ ENext s t ∧ (here t).inflight = x.inflight ++ [i0, i1, i2, i3] ∧
        (let i (q : Nat) : InFlight := if q = 0 then i0 else if q = 1 then i1 else if q = 2 then i2 else i3
         ∀ q, q < 4 → (i q).kind = .mdrain ∧ (i q).tgt = r q ∧ (i q).flags = 0 ∧ (i q).seq = s.issue.seq ∧ (i q).rem = 0 ∧
          (i q).rows = 0xFFFF ∧ (i q).payload = (x.readM a).extractLsb' (32768 * q) 32768) ∧
        (∀ n, n < 192 → (here t).emptyV n = (x.emptyV n || n == r0 || n == r1 || n == r2 || n == r3)) ∧
        { fixedE (here t) with inflight := [], vEmpty := 0 } = { fixedE x with inflight := [], vEmpty := 0 }))

/-- With the M engine at step k of its word, its earlier words having written all they write, those that a dump put back into
flight too: an empty metadata register waits; an invalid metadata byte of the container row is the sparse-metadata fault of
the lowest; short scale queues, and then (the codes of both operands checked, A first, as the format fault) short FIFOs, wait,
or where the S engine is stopped on the M engine and no push can come are the queue-imbalance fault of the lowest such queue;
else the step pops 64 heads and the payloads they need from each side, updates all 4,096 elements by BlockAcc or its integer
form, ORs in their flags, and goes on to step k + 1 or retires the word with its last. A fault changes nothing; nothing else
differs. (From R36, R37, R38, R169, R170, R171, R172, R173, R174, R175, R176.) -/
def Obligations.MatrixStep : Prop :=
  ∀ (s : State) (tile k : Nat) (i : Issue) (w : FwdWord) (mw : MWord),
    let x := s.tile tile
    x.mStep = some k → x.nextWord tile .M = some (i, w) → mWordOf? w.slot = some mw → x.mayRun .M = true →
    (∀ l ∈ x.late, l.eng ≠ .M) → (∀ i ∈ x.inflight, x.owes .M i = false) →
    let r := exec (.mmaStep tile) s
    let trap (cause data : Nat) : Prop := r = .next (s.takeTrap i false cause (k * 2 ^ 32 + data))
    let wait (why : Nat) : Prop := r = .next (s.setTile tile (x.setWait .M why))
    let short (q : Nat) : Prop :=
      if x.stuckOnM = true ∧ x.pushMayCome q = false then trap 5 q else wait 2
    let either (p q : Nat) : Prop :=
      if x.stuckOnM = true ∧ x.pushMayCome p = false then trap 5 p else short q
    let meta_ (rg row n : Nat) : Nat := elemNat 8 (x.readV rg).toNat (256 * row + n)
    let sound (n : Nat) : Prop := ((List.range 8).filter fun b => n.testBit b).length = 4
    (∀ rg mkb, mw.sparse = some (rg, mkb) → x.emptyV rg = true → wait 3) ∧
    (∀ rg mkb n, mw.sparse = some (rg, mkb) → x.emptyV rg = false → n < 256 → ¬ sound (meta_ rg (mkb + k) n) →
      (∀ m, m < n → sound (meta_ rg (mkb + k) m)) → trap 7 ((256 * (mkb + k) + n) * 256 + meta_ rg (mkb + k) n)) ∧
    ((∀ rg mkb, mw.sparse = some (rg, mkb) → x.emptyV rg = false ∧ ∀ n, n < 256 → sound (meta_ rg (mkb + k) n)) →
      let half := mw.sparse.isSome
      let code (hs : List (BitVec 16)) (n : Nat) : Nat := (hs.getD n 0).toNat % 256
      let size (hs : List (BitVec 16)) (h : Bool) (n : Nat) : Nat := (if h then 2 else 4) * codeWidth (code hs n)
      let upTo (hs : List (BitVec 16)) (h : Bool) (n : Nat) : Nat := ((List.range n).map (size hs h)).foldl (· + ·) 0
      let nA := upTo x.sqa half 64
      let nB := upTo x.sqb false 64
      let codes (hs : List (BitVec 16)) : List Nat := (hs.take 64).map fun h => h.toNat % 256
      (x.sqa.length < 64 → 64 ≤ x.sqb.length → short 0) ∧ (64 ≤ x.sqa.length → x.sqb.length < 64 → short 1) ∧
      (x.sqa.length < 64 → x.sqb.length < 64 → either 0 1) ∧
      (64 ≤ x.sqa.length → 64 ≤ x.sqb.length →
        (∀ d, checkCodes 0 mw.int (codes x.sqa) = some d → trap 6 d) ∧
        (checkCodes 0 mw.int (codes x.sqa) = none → ∀ d, checkCodes 1 mw.int (codes x.sqb) = some d → trap 6 d) ∧
        (checkCodes 0 mw.int (codes x.sqa) = none → checkCodes 1 mw.int (codes x.sqb) = none →
          (x.fifoA.length < nA → nB ≤ x.fifoB.length → short 2) ∧ (nA ≤ x.fifoA.length → x.fifoB.length < nB → short 3) ∧
          (x.fifoA.length < nA → x.fifoB.length < nB → either 2 3) ∧
          (nA ≤ x.fifoA.length → nB ≤ x.fifoB.length → (∀ l, s.launchOf tile = some l → l.replay = 0) →
            let blockA (n : Nat) : Blk := blockOf (x.sqa.getD n 0) ((x.fifoA.drop (upTo x.sqa half n)).take (size x.sqa half n))
              (mw.sparse.map fun p => metaOf (x.readV p.1) (p.2 + k) n)
            let blockB (n : Nat) : Blk := blockOf (x.sqb.getD n 0) ((x.fifoB.drop (upTo x.sqb false n)).take (size x.sqb false n)) none
            let cell (a b : Nat) : FRes :=
              let old := elemNat 32 (x.readM mw.acc).toNat (64 * a + b)
              if mw.int = 1 then blockAccInt old (blockA a) (blockB b) else blockAcc old (blockA a) (blockB b)
            ∃ t, r = .next t ∧ OnlyTile tile s t ∧
              (let y := t.tile tile
               y.sqa = x.sqa.drop 64 ∧ y.sqb = x.sqb.drop 64 ∧ y.fifoA = x.fifoA.drop nA ∧ y.fifoB = x.fifoB.drop nB ∧
               (∀ n, n ≠ mw.acc → y.readM n = x.readM n) ∧
               (∀ a b, a < 64 → b < 64 → elemNat 32 (y.readM mw.acc).toNat (64 * a + b) = (cell a b).1 % 2 ^ 32) ∧
               (∀ n, n < 6 → (y.fp.getLsbD n = true ↔ x.fp.getLsbD n = true ∨
                 ∃ a b, a < 64 ∧ b < 64 ∧ (cell a b).2.testBit n = true)) ∧
               y.mStep = (if k + 1 < mw.kb then some (k + 1) else none) ∧
               y.secs = (if k + 1 < mw.kb then x.secs
                 else ({ y with secs := x.secs }.setSec i.seq fun c => { c with idx := c.idx + 1 }).sweep.secs) ∧
               y.pcs = (x.count 6 1).pcs ∧ y.waitWhy .M = 0 ∧
               (let noQueue (z : Tile) : Tile := { z with sqa := [], sqb := [], fifoA := [], fifoB := [], runs := [], mStep := none }
                let blank (z : Tile) : Tile := { noQueue z with m := [], fp := 0, fpNow := 0, secs := [], pcs := [], waits := [], chunk := 0, ran := false }
                blank y = blank x))))))

/-- At a header of engine 1 to 5: a gfence with the point not drained, a stopping point, the slip rule, a full section queue
or an empty captured register makes the S engine wait; the lowest word of another class or that decodes to nothing traps at
forwarding with its cause; else the section joins its queue with the words after the header, their vector register numbers
physical and their general registers, predicates, entries and random seed captured, tagged with the loop count, VTOG targets
empty, and fetch goes on behind it. At an S header the section begins once its dependences have retired; another engine its
next section once that section's have. What an acquire in a section has ordered is no longer read older by a section whose
header names it (R294, log 4). Nothing else differs. The order in which gfence, the slip rule, room in the queue, the words
and their captured registers are looked at is the model's choice (log 40), and so is that a word of another class that is also
illegal is reported as of another class (log 56). (From R22, R46, R66, R67, R68, R69, R71, R72, R87, R113, R308.) -/
def Obligations.SectionFlow : Prop :=
  (∀ (s : State) (k : Nat) (h : Header), StandsAtHeader s k h → 1 ≤ h.eng.toNat → h.eng.toNat ≤ 5 →
    let x := s.tile k
    let e := engOf h.eng.toNat
    let pc := x.pc.toNat
    let n := h.len.toNat
    let w (i : Nat) : Slot := x.slotAt (pc + 1 + i)
    let good (i : Nat) : Prop := slotClass (w i) = h.eng.toNat ∧ ∃ j, decode (w i) = .ok j
    let r := exec (.sectionForward k) s
    let wait (why : Nat) : Prop := r = .next (s.setTile k (x.setWait .S why))
    let fence := h.gfence = 1 ∧ x.drained = false
    let pass := x.stop = none ∧ ¬ fence ∧ x.slipHold = false ∧ x.queueFull e n = false
    let empty (i : Nat) : Prop := (∃ g ∈ captured (w i), x.emptyG g = true) ∨ (∃ g, vtogTarget (w i) = some g ∧ x.emptyG g = true)
    (x.stop ≠ none → wait 7) ∧ (x.stop = none → fence → wait 8) ∧
    (x.stop = none → ¬ fence → x.slipHold = true → wait 5) ∧
    (x.stop = none → ¬ fence → x.slipHold = false → x.queueFull e n = true → wait 4) ∧
    (pass → ∀ i, i < n → ¬ good i → (∀ j, j < i → good j) →
      (slotClass (w i) ≤ 5 → slotClass (w i) ≠ h.eng.toNat →
        r = .next (s.takeTrap (s.issueS k (pc + 1 + i) h.num.toNat) true 2 (slotClass (w i) + 16 * h.eng.toNat))) ∧
      ((slotClass (w i) = h.eng.toNat ∨ 6 ≤ slotClass (w i)) →
        r = .next (s.takeTrap (s.issueS k (pc + 1 + i) h.num.toNat) true 1 0))) ∧
    (pass → (∀ i, i < n → good i) → (∃ i, i < n ∧ empty i) → wait 3) ∧
    (pass → (∀ i, i < n → good i) → (∀ i, i < n → ¬ empty i) →
      ∃ t c, r = .next t ∧ OnlyTile k s t ∧
        (let y := t.tile k
         y.secs = x.secs ++ [c] ∧ y.seqNext = x.seqNext + 1 ∧ y.pc.toNat = (pc + 1 + n) % 2 ^ 20 ∧ y.waitWhy .S = 0 ∧
         c.eng = e ∧ c.hdr = h ∧ c.seq = x.seqNext ∧ c.tag = x.tagNow ∧ c.gens = x.records ∧ c.started = false ∧ c.idx = 0 ∧
         c.deps = (x.depsOf h e).filter x.live ∧ c.words.length = n ∧
         (∀ i (hi : i < c.words.length), let u := c.words[i]
           u.addr = pc + 1 + i ∧ u.slot = rotateSlot x.rb (w i) ∧ u.cap.vals = (captured (w i)).map x.readG ∧
           u.cap.rb = x.rb ∧
           (e = .X → u.cap.seed = x.seed ∧ u.cap.q = (x.xq + i) % 2 ^ 32 ∧
             u.cap.sl.toNat = x.readLay ((w i).toNat / 2 ^ 58 % 256) ∧ u.cap.dl.toNat = x.readLay ((w i).toNat / 2 ^ 50 % 256)) ∧
           (∀ p ∈ namedPreds (w i), 8 ≤ p ∨ 4 ≤ h.eng.toNat → u.cap.preds.getLsbD p = x.readCS p)) ∧
         (∀ g, g < 64 → y.emptyG g = (x.emptyG g || (g != 0 && decide (∃ i, i < n ∧ vtogTarget (w i) = some g)))) ∧
         EndsAlso x y (fun o f p => (∃ r ∈ o.ended, ∃ q ∈ x.depsOf h e, r.sec = some q) ∧ OfSection c f p) ∧
         (e = .X → y.xq = (x.xq + n) % 2 ^ 32) ∧ (e ≠ .X → y.xq = x.xq) ∧
         (let blank (z : Tile) : Tile := { fixedS z with secs := [], seqNext := 0, lastSec := [], xq := 0, gEmpty := 0, sIn := false, copies := [] }
          blank y = blank x)))) ∧
  (∀ (s : State) (k : Nat) (h : Header), StandsAtHeader s k h → h.eng = 0 →
    let x := s.tile k
    let pc := x.pc.toNat
    let r := exec (.sectionStart k .S) s
    let ready := (h.gfence = 1 → x.drained = true) ∧ ∀ q ∈ x.depsOf h .S, x.live q = false
    (¬ ready → r = .next (s.setTile k (x.setWait .S 8))) ∧
    (ready → ∃ t, r = .next t ∧ OnlyTile k s t ∧
      (let y := t.tile k
       y.sIn = true ∧ y.sHdr = x.pc ∧ y.sNum = h.num.toNat ∧ y.sEnd = pc + 1 + h.len.toNat ∧
       y.pc.toNat = (pc + 1) % 2 ^ 20 ∧ y.waitWhy .S = 0 ∧
       ((∃ l ks, x.ks = l :: ks ∧ kRec l = true ∧ kIdx l = kLim l) → y.ks = x.ks.tail) ∧
       (¬ (∃ l ks, x.ks = l :: ks ∧ kRec l = true ∧ kIdx l = kLim l) → y.ks = x.ks) ∧
       (y.copies.map bareCopy = x.copies.map bareCopy ∧
         ∀ (i : Nat) (o o' : OldCopy), x.copies[i]? = some o → y.copies[i]? = some o' →
           let kept (r : Ended) : Prop := ¬ (r.eng = .S ∧ r.lo = 0)
           ∀ f p, o'.endedFor f p = true ↔
             (∃ r ∈ o.ended, kept r ∧ r.eng = f ∧ r.lo ≤ p ∧ ∀ m, r.hi = some m → p < m) ∨
             (f = .S ∧ ∃ r ∈ o.ended, kept r ∧ ∃ q ∈ x.depsOf h .S, r.sec = some q)) ∧
       (let noLoop (z : Tile) : Tile := { z with ks := [], kIds := [], kLive := [], sw := 0, rb := 0 }
        let blank (z : Tile) : Tile := { noLoop (fixedS z) with sHdr := 0, sNum := 0, sEnd := 0, copies := [] }
        blank y = blank x)))) ∧
  (∀ (s : State) (k : Nat) (e : Engine) (c : Section), e ≠ .S →
    let x := s.tile k
    let r := exec (.sectionStart k e) s
    x.quenched = false → x.stop = none → x.headSec e = some c → c.started = false →
    ((∃ q ∈ c.deps, x.live q = true) → r = .next s) ∧
    ((∀ q ∈ c.deps, x.live q = false) → r = .next (s.setTile k (x.setSec c.seq fun d => { d with started := true }))))

/-- Every X word, its guard true or false, answers a next state: with fewer than 256 commands in the channel it becomes the
youngest of them with the word and its captures, neither accepted nor with an element performed, and void where its guard is
false; the q-th X word of the point takes command slot q mod 256, or the next in turn that no command holds (the model's
reading of Table 22-4, log 64); its section goes on. A channel of 256 commands makes it wait. Nothing else differs. Once
accepted, the elements of XHDR, XTLD, XFST, XCOMP, XMRG, XSNAP and of an XCOPY from a compressed buffer do what TableElements,
CompressElements, MergeElements and ExpandElements say, each access where it translates, and change no other byte. (From R59,
R200, R201, R240, R242, R246, R251, R270, R272, R275, R276, R280 to R285.) -/
def Obligations.TransferIntake : Prop :=
  (∀ (s : State) (g : Guard) (f : FmtXC) (i : Instr),
    i ∈ [.xcopy g f, .xgath g f, .xscat g f, .xtran g f, .xconv g f, .xmcst g f, .xred g f, .xatom g f, .xapnd g f, .xsig g f,
      .xwait g f, .xpref g f, .xcomp g f, .xmrg g f, .xsnap g f, .xhdr g f, .xtld g f, .xfst g f] → s.issue.eng = .X →
    let x := here s
    (256 ≤ x.chan.length → Waits s (exec i s) 8) ∧
    (x.chan.length < 256 → ∃ t c, exec i s = .next t ∧ ENext s t ∧ (here t).chan = x.chan ++ [c] ∧
      decodeRaw c.word.slot = some i ∧ c.word.addr = s.issue.addr ∧ c.word.cap = s.issue.cap ∧
      c.num = s.issue.num ∧ c.tag = s.issue.tag ∧ c.seq = s.issue.seq ∧ c.void = !guardCap s.issue.cap g ∧
      c.accepted = false ∧ c.e = 0 ∧ c.done = false ∧ c.susp = none ∧ c.trap = none ∧ c.held = none ∧ c.opsOut = 0 ∧
      (∃ m, m < 256 ∧ c.cslot = (s.issue.cap.q + m) % 256 ∧ (∀ d ∈ x.chan, d.cslot ≠ c.cslot) ∧
        ∀ n, n < m → ∃ d ∈ x.chan, d.cslot = (s.issue.cap.q + n) % 256) ∧
      { fixedE (here t) with chan := [] } = { fixedE x with chan := [] })) ∧
  TableElements ∧ CompressElements ∧ MergeElements ∧ ExpandElements

/-- Acceptance of the first command that is neither accepted nor void, once no older command has still to touch what
acceptance reads, marks it to trap with the first check that fails (log 48: it then traps as the oldest of its channel), or
accepts it with its count, the tile that accepted it and its mask. The elements of XCOPY, XGATH, XSCAT, XTRAN, XCONV, XMCST,
XRED and XATOM on rows of any tile, on module memory and to the streams write and push what PlainElements and AtomicElements
say, those of XAPND, XPREF and XWAIT do what ListElements says (those of the transforming commands: TransferIntake), where no
older contents are kept (log 4). What a command still has to push goes in as far as there is room, a head and a payload each
for itself, and with nothing left the command goes on. The oldest command retires void, or done with everything performed:
without a signal at once, with one, XSIG's among them, after adding its amount to the semaphore of its destination, an XMCST's
to that of each tile of its mask, and where that saturates it then traps; a signal for a tile that holds no point of the
context is launch case 5. One marked to trap takes its trap once its atomics are performed, and leaves where it had ended, and
stays unaccepted where acceptance turned it away; a saturating signal in a point that has trapped before leaves everything as
it was and waits, and one that traps keeps what it takes to be unretired by a trap of a lower class of that cycle (log 39).
Nothing else differs. (From R171, R229, R231, R243, R244, R245, R247, R249 to R262, R264, R265, R309, R315, R361.) -/
def Obligations.ChannelEvents : Prop :=
  (∀ (s : State) (k : Nat) (c : Command),
    let x := s.tile k
    x.mayAccept = true → x.chan.find? (fun d => !d.accepted && !d.void) = some c →
    (s.acceptHold k c = true → exec (.commandAccept k) s = .next s) ∧
    (s.acceptHold k c = false →
      (∀ f, c.acceptCheck s k = some f →
        exec (.commandAccept k) s = .next (s.setTile k (x.setCmd { c with trap := some (f.1, BitVec.ofNat 64 f.2) }))) ∧
      (c.acceptCheck s k = none → Unwatched x →
        ∃ d, exec (.commandAccept k) s = .next ((s.setTile k (x.setCmd d)).note (s.acceptTrail k c)) ∧
          d.accepted = true ∧ d.vtile = some k ∧ d.count = c.countOf ∧ (c.countOf ≠ 0 → d.done = false) ∧
          d.outPos = (if c.fn = 0x10 then c.dataStart else 0) ∧
          (c.countOf = 0 → c.fn ≠ 11 → c.fn ≠ 0x10 → c.fn ≠ 0x12 → c.fn ≠ 0x19 → d.done = true) ∧
          (c.fn = 6 → d.mask = c.maskTiles (s.chanTile k c.word.cap.q)) ∧
          { d with accepted := false, vtile := none, count := 0, mask := [], lane := {}, done := false, outPos := 0 } =
            { c with accepted := false, vtile := none, count := 0, mask := [], lane := {}, done := false, outPos := 0 }))) ∧
  PlainElements ∧ AtomicElements ∧ ListElements ∧
  (∀ (s : State) (k n : Nat) (c : Command) (h : HeldPush),
    let x := s.tile k
    x.cmd? n = some c → x.quenched = false → x.xTrapped = false → h.side < 2 → c.held = some h →
      ∃ t, exec (.queuePush k (some n)) s = .next t ∧ OnlyTile k s t ∧ QueuesAfter x (t.tile k) c (some h) ∧
        { t.tile k with sqa := [], sqb := [], fifoA := [], fifoB := [], chan := [], runs := [] } =
          { x with sqa := [], sqb := [], fifoA := [], fifoB := [], chan := [], runs := [] }) ∧
  (∀ (s : State) (k : Nat) (c : Command) (cs : List Command),
    let x := s.tile k
    let left (u v : Tile) : Prop := v.chan = u.chan.filter (fun d => d.cslot != c.cslot) ∧
      v.secs = { u with chan := u.chan.filter fun d => d.cslot != c.cslot }.sweep.secs ∧
      { v with chan := [], secs := [], pcs := [] } = { u with chan := [], secs := [], pcs := [] }
    x.chan = c :: cs → x.quenched = false → x.xTrapped = false →
    let quiet := c.trap = none ∧ c.done = true ∧ c.held = none ∧ c.opsOut = 0
    (c.void = true ∨ (quiet ∧ c.fn ≠ 10 ∧ c.xc.sig = 0) →
      ∃ t, exec (.commandRetire k) s = .next t ∧ OnlyTile k s t ∧ left x (t.tile k)) ∧
    (c.void = false → quiet → (c.xc.sig = 1 ∨ c.fn = 10) → c.fn ≠ 6 → ∀ v,
      v = (if c.fn ∈ [11, 12, 0x18] then k else if laySpace c.dl = 1 then layPeer c.dl else k) ∧ c.fn ≠ 9 ∨
        c.fn = 9 ∧ s.appendTo k c.word = .tile v →
      s.sameCtx k v = true →
      let n := c.xc.sem.toNat
      let m := if c.fn = 10 then c.val 4 % 2 ^ 32 else 1
      let u := ((s.releaseTo v n c.xc.scope.toNat (c.releases k)).semAdd v n m { kind := 1, sid := k, seng := s.dieOf k }).1
      ∃ t, left (u.tile k) (t.tile k) ∧ { t with tiles := u.tiles } = u ∧ (∀ j, j ≠ k → t.tile j = u.tile j) ∧
        ((s.tile v).sem n + m < 2 ^ 32 → exec (.commandRetire k) s = .next t) ∧
        (2 ^ 32 ≤ (s.tile v).sem n + m →
          (x.trapAgain s.scyc .X = true → exec (.commandRetire k) s = .next (s.setTile k (x.setWait .X 7))) ∧
          (x.trapAgain s.scyc .X = false → exec (.commandRetire k) s =
            .next ((t.trapWith (c.issue k) false 0x0A (n + v * 256) (x.trapGen .X c.seq c.tag)).keepBack k
              { cmd := some c, event := 7, sems := semsAdded s u n 1 k (s.dieOf k) [v] })))) ∧
    (c.void = false → quiet → c.xc.sig = 1 → c.fn = 6 → c.mask.Nodup →
      let n := c.xc.sem.toNat
      (∀ v ∈ c.mask, s.sameCtx k v = true ∧ (s.tile v).sem n + 1 < 2 ^ 32) →
      ∃ t, exec (.commandRetire k) s = .next t ∧ (t.tile k).chan = x.chan.filter (fun d => d.cslot != c.cslot) ∧
        ∀ v, (t.tile v).sem n = (s.tile v).sem n + (if v ∈ c.mask then 1 else 0) ∧ SpOutside (s.tile v) (t.tile v) (4 * n) 4) ∧
    (c.void = false → quiet → (c.xc.sig = 1 ∨ c.fn = 10) → c.fn ∉ [6, 9, 11, 12, 0x18] → laySpace c.dl = 1 →
      s.sameCtx k (layPeer c.dl) = false →
      exec (.commandRetire k) s =
        .next (s.setTile k (x.setCmd { c with trap := some (0x10, BitVec.ofNat 64 (5 + c.e % 2 ^ 48 * 2 ^ 12)) }))) ∧
    (c.void = false → ∀ cause data, c.trap = some (cause, data) →
      (c.opsOut ≠ 0 → exec (.commandRetire k) s = .next s) ∧
      (c.opsOut = 0 → (∀ st, x.stop = some st → st.trapped = false ∧ st.back = none) →
        (∃ l, s.launchOf k = some l ∧ l.ctxVA ≠ 0) →
        ∃ t, exec (.commandRetire k) s = .next t ∧ OnlyTile k s t ∧
          (t.tile k).trapCause.toNat = cause % 256 ∧ (t.tile k).trapData = data ∧ (t.tile k).trapEngine = 5 ∧
          (t.tile k).trapWord.toNat = c.word.addr % 2 ^ 20 ∧
          (∃ st, (t.tile k).stop = some st ∧ st.trapped = true ∧ st.eng = some .X ∧
            st.back = (if c.done then some { cmd := some c, event := 7 } else none)) ∧
          (t.tile k).chan = (if c.done then x.chan.filter (fun d => d.cslot != c.cslot)
            else (x.setCmd { c with trap := none }).chan) ∧
          (let blank (z : Tile) : Tile := { z with
             trapCause := 0, trapEngine := 0, trapSection := 0, trapWord := 0, trapData := 0, stop := none, waits := []
             chan := [], secs := [], pcs := [] }
           blank (t.tile k) = blank x))))

/-- A waiting fault record that arrived before every other enters the ring with room; a re-walk performs the stalled element;
an operation that is next for its line changes exactly the bytes it names to the result of its operation on what they held,
and is recorded with its link where its die has taken a cut before it; draining an entry changes no byte read; a corrected
error is counted and changes nothing else; an uncorrectable one rolls back a checkpointed launch, kills one for unowned data,
or else traps at the word that the named engine stands at (the model's choice, log 50); a rollback does what RollbackEffect
says: the points stop unsaved, every line of the undo logs holds again what its first entry has, and the launches are restored
from their last mark; a shootdown's acknowledgement drops the entries it covers and clears busy with the last die; a timeout
suspends a host read with kind 5; a remote write below 768 GiB stores its bytes and a read returns them, and an access past it
is aborted (the model's choice, log 47). Nothing else differs. (From R220, R226, R227, R234, R236, R237, R258, R311, R382,
R406.) -/
def Obligations.MemoryEvents : Prop :=
  (∀ (s : State) (d n : Nat) (w : List W64) (ws : List (Nat × List W64)), TablesOk s → (s.die d).faultWait = (n, w) :: ws →
    let first := ∀ j, ∀ r ∈ (s.die j).faultWait, n ≤ r.1
    (s.fq.room = false ∨ ¬ first → exec (.faultRecordEnter d) s = .next s) ∧
    (s.fq.room = true → first → exec (.faultRecordEnter d) s =
      .next ((s.setDie d { s.die d with faultWait := ws }).pushRing .fq (w.map BitVec.toNat)))) ∧
  (∀ (s : State) (k n : Nat) (c : Command), (s.tile k).cmd? n = some c →
    let c1 := { c with stalled := none, rewalk := false }
    let s1 := s.setTile k ((s.tile k).setCmd c1)
    (c.rewalk = false → exec (.migrationRewalk (.command k n)) s = .next s) ∧
    (c.stalled ≠ none → c.rewalk = true → s1.mayElement k c1 = true → s1.orderHold k c1 = false →
      exec (.migrationRewalk (.command k n)) s = .next (s1.element k c1 false))) ∧
  (∀ (s : State) (d k : Nat) (o : WqOp), d < 8 → (s.die d).wqIn[k]? = some o → o.pas.Nodup → o.pas ≠ [] →
    (∀ p ∈ (s.die d).wqIn.take k, p.tile = o.tile → ∀ a ∈ p.pas, ∀ b ∈ o.pas, a / 64 ≠ b / 64) →
    (o.cut = true → s.cut? (16 + d) ≠ none) → (∀ l, s.launch? o.slot = some l → l.replay = 0 ∧ l.dying = none) →
    let r := exec (.writeQueueOperation d k) s
    (s.logOf o.slot = none → ∃ t, r = .next t ∧ OperationDone s t d k o ∧ (∀ a, a ∉ o.pas → t.readPA1 a = s.readPA1 a) ∧
      (∀ j, logsOf t j = logsOf s j) ∧ t.markAsked = s.markAsked) ∧
    (∀ slot line, s.logOf o.slot = some slot → (∀ a ∈ o.pas, a / 64 = line) →
      let e := dieOfLine line
      let at_ := (s.die e).undoBase.toNat + (s.die e).undoUsed
      (line ∈ (s.die e).undoLines → ∃ t, r = .next t ∧ OperationDone s t d k o ∧ (∀ a, a ∉ o.pas → t.readPA1 a = s.readPA1 a) ∧
        (∀ j, logsOf t j = logsOf s j) ∧ t.markAsked = s.markAsked) ∧
      (line ∉ (s.die e).undoLines → 2 ^ 30 < (s.die e).undoUsed + 72 → r = .next s) ∧
      (line ∉ (s.die e).undoLines → (s.die e).undoUsed + 72 ≤ 2 ^ 30 → at_ + 72 ≤ 768 * 2 ^ 30 →
        (64 * line + 64 ≤ at_ ∨ at_ + 72 ≤ 64 * line) → ∃ t, r = .next t ∧ OperationDone s t d k o ∧
        (∀ a, a ∉ o.pas → (a < at_ ∨ at_ + 72 ≤ a) → t.readPA1 a = s.readPA1 a) ∧
        t.readPA at_ 8 = toBytes 8 (64 * line % 2 ^ 40 + slot % 64 * 2 ^ 40) ∧ t.readPA (at_ + 8) 64 = s.readPA (64 * line) 64 ∧
        (∀ j, j ≠ e → logsOf t j = logsOf s j) ∧ (t.die e).undoUsed = (s.die e).undoUsed + 72 ∧
        (t.die e).undoLines = line :: (s.die e).undoLines ∧
        (t.markAsked = true ↔ s.markAsked = true ∨ 0x30000000 ≤ (t.die e).undoUsed)))) ∧
  (∀ (s : State) (k : Nat) (p : Posted), s.posted[k]? = some p →
    let s0 := { s with posted := s.posted.eraseIdx k }
    let u := s0.hostXlate p.ctx p.va .write
    let r := exec (.migrationRewalk (.host k)) s
    let before := ∃ q ∈ s.posted.take k, q.m = p.m ∧ sameLine q.va q.data.length p.va p.data.length = true
    (p.rewalk = false ∨ before → r = .next s) ∧
    (p.rewalk = true → ¬ before →
      (∀ f, u.2 = .error f → ∃ t, r = .next t ∧ CountsAbort u.1 t) ∧
      (∀ l, u.2 = .ok l → pteMig l.pte = true → p.ctx ≠ 0 → ∃ t, r = .next t ∧ t.posted = s.posted.set k { p with rewalk := false } ∧
        { t with posted := s.posted, dies := s.dies } = { u.1 with posted := s.posted, dies := s.dies } ∧ SameMemory s t) ∧
      (∀ l n pa, u.2 = .ok l → pteMig l.pte = false → l.place p.va = .far n pa → s.linkTo n = false →
        ∃ t, r = .next t ∧ t.posted = s.posted.set k p ∧ { t with posted := s.posted } = { u.1 with posted := s.posted }) ∧
      (∀ l pa, u.2 = .ok l → pteMig l.pte = false → l.place p.va = .mem pa → pa + p.data.length ≤ 768 * 2 ^ 30 →
        ∃ t, r = .next t ∧ BytesPut s t pa p.data ∧
          { t with mem := s.mem, dies := s.dies, trail := s.trail } = { u.1 with dies := s.dies }))) ∧
  (∀ (s : State) (line : Nat), 64 * line + 64 ≤ 768 * 2 ^ 30 → ∃ t, exec (.writeQueueDrain (dieOfLine line) line) s = .next t ∧
    SameMemory s t ∧ Tab.get? line (t.die (dieOfLine line)).wq = none ∧ { t with dies := s.dies, mem := s.mem } = s) ∧
  (∀ (s : State) (line : Nat),
    (768 * 2 ^ 30 ≤ 64 * line → exec (.eccCorrected line) s = .next s) ∧
    (64 * line < 768 * 2 ^ 30 → let d := dieOfLine line
      exec (.eccCorrected line) s = .next (s.setDie d { s.die d with eccCount := (s.die d).eccCount + 1 }))) ∧
  (∀ (s : State) (slot : Nat) (l : Launch), s.launch? slot = some l → exec (.uncorrectableSoftError (.unowned slot)) s =
    .next (if l.checkpointed then s.rollback else s.kill slot 4)) ∧
  (∀ (s : State) (k : Nat) (e : Engine) (l : Launch) (site : ErrSite) (data : Nat), s.launchOf k = some l →
    (∃ pa, site = .line k e pa ∧ data = 1 + pa / 64 * 256) ∨ (∃ r, site = .row k e r ∧ data = 2 + r * 256) ∨
      (site = .register k e ∧ data = 3) ∨ (site = .queue k e ∧ data = 4) →
    (l.checkpointed = true → exec (.uncorrectableSoftError site) s = .next s.rollback) ∧
    (l.checkpointed = false → e = .S → (s.tile k).sIn = true → (s.tile k).halted = false → exec (.uncorrectableSoftError site) s =
      .next (s.takeTrap (s.issueS k (s.tile k).pc.toNat (s.tile k).sNum) false 0x11 data)) ∧
    (∀ h, l.checkpointed = false → e = .S → (s.tile k).sIn = false → (s.tile k).halted = false → (s.tile k).headerAtPC = some h →
      exec (.uncorrectableSoftError site) s =
        .next (s.takeTrap (s.issueS k (s.tile k).pc.toNat h.num.toNat) false 0x11 data)) ∧
    (l.checkpointed = false → e ∈ [Engine.L, .A, .W, .M] → ∀ i w, (s.tile k).nextWord k e = some (i, w) →
      exec (.uncorrectableSoftError site) s = .next (s.takeTrap i false 0x11 data))) ∧
  (∀ (s : State) (d : Nat), s.ctl.shootBusy = true → (s.die d).shootPend = true → d < 8 → TablesOk s →
    (s.opsFrom d = true → exec (.shootdownAck d) s = .next s) ∧
    (s.opsFrom d = false → ∃ t, exec (.shootdownAck d) s = .next t ∧
      (t.die d).tlb = (s.die d).tlb.filter (fun e => !s.shootCovers e.ctx e.va e.lg) ∧ (t.die d).shootPend = false ∧
      (∀ j, j ≠ d → t.die j = s.die j) ∧
      (t.ctl.shootBusy = true ↔ ∃ j, j < 8 ∧ j ≠ d ∧ (s.die j).shootPend = true) ∧
      (∀ j, { t.tile j with chan := [] } = { s.tile j with chan := [] }) ∧ SameMemory s t)) ∧
  (∀ (s : State) (k n : Nat) (c c1 : Command) (q : Suspension), (s.tile k).cmd? n = some c → s.mayElement k c = true →
    s.orderHold k c = false → ((s.element k c true).tile k).cmd? n = some c1 → c1.susp = some q →
    exec (.completionTimeout k n) s = .next (if q.kind = 5 then s.element k c true else s)) ∧
  (∀ (s : State) (link pa len : Nat) (bs : List Byte), (Assoc.get 0 link s.ctl.links).getLsbD 16 = true →
    (pa + bs.length ≤ 768 * 2 ^ 30 → ∃ t, exec (.remotePageAccess link pa (some bs) len) s = .next t ∧
      BytesPut s t pa bs ∧ t.cpl = s.cpl ++ [.data (16 + link) []] ∧ { t with mem := s.mem, dies := s.dies, cpl := s.cpl } = s) ∧
    (pa + len ≤ 768 * 2 ^ 30 → exec (.remotePageAccess link pa none len) s =
      .next { s with cpl := s.cpl ++ [.data (16 + link) (s.readPA pa len)] }) ∧
    (768 * 2 ^ 30 < pa + len → exec (.remotePageAccess link pa none len) s = .next { s with cpl := s.cpl ++ [.abort (16 + link)] })) ∧
  RollbackEffect

/-- A BAR2 access is translated on one transfer die, which may keep the descriptor and the entry it used; with neither held
there, what it gives is what the page tables give (log 41). Outside replay: a BAR2 write that translates stores its bytes in
module memory and nothing else, is counted where it faults, stalls where its page migrates, waits where no link that is up
reaches its page, and does nothing while the wipe runs (the model's choice, log 50); a BAR2 read returns the bytes as the
hosts may still find them, which are those that stand where no older contents are kept (log 4), Completer Abort at a fault,
Unsupported Request while the wipe runs, and waits behind earlier writes of its requester. A BAR4 write of one aligned word
adds to the semaphore it names, saturating and then counted, and releases what its host has written; it is held behind
unacknowledged writes. A BAR4 read returns the bytes of rows 0 to 3. A read of a semaphore, or of a completion word as it
stands, ends for the hosts what its releases have ordered. A held write is released only when no earlier write of its
requester is held (the model's reading, log 42), a doorbell or a BAR4 write once that requester's posted writes are
acknowledged, and then takes effect. Nothing else differs. (From R234, R238, R297, R298, R330, R401, R402, R405, R406.) -/
def Obligations.HostAccess : Prop :=
  (∀ (s : State) (ctx va : Nat) (k : Access), va < 2 ^ 57 →
    let d := hostDie va
    let u := s.hostXlate ctx va k
    { u.1 with dies := s.dies, fresh := s.fresh } = s ∧ SameMemory s u.1 ∧ (∀ j, j ≠ d → u.1.die j = s.die j) ∧
      { u.1.die d with tlb := [], descs := [] } = { s.die d with tlb := [], descs := [] } ∧
      (Tab.get? ctx (s.die d).descs = none → (s.die d).tlbAt ctx va = none → u.2 = s.translate ctx va k)) ∧
  (∀ (s : State) (m off : Nat) (data : List Byte), m ≤ 1 → data ≠ [] → off + data.length ≤ 2 ^ 36 →
    off / 4096 = (off + data.length - 1) / 4096 → s.ctl.replayMode = 0 →
    let va := ((Assoc.get 0 m s.ctl.bar2Va).toNat / 65536 * 65536 + off) % 2 ^ 57
    let ctx := (Assoc.get 0 m s.ctl.bar2Ctx).toNat
    let u := { s with hostNum := s.hostNum + 1 }.hostXlate ctx va .write
    (s.wiping = true → exec (.bar2Write m off data) s = .next s) ∧
    (s.wiping = false → s.posted = [] →
      (∀ k, u.2 = .error k → ∃ t, exec (.bar2Write m off data) s = .next t ∧ CountsAbort u.1 t) ∧
      (∀ l, u.2 = .ok l → pteMig l.pte = true → ctx ≠ 0 →
        ∃ t p, exec (.bar2Write m off data) s = .next t ∧ t.posted = [p] ∧ p.m = m ∧ p.data = data ∧ p.va = va ∧ p.ctx = ctx ∧
          p.rewalk = false ∧ { t with posted := s.posted, dies := s.dies } = { u.1 with dies := s.dies } ∧ SameMemory s t) ∧
      (∀ l n pa, u.2 = .ok l → pteMig l.pte = false → l.place va = .far n pa → s.linkTo n = false →
        ∃ t p, exec (.bar2Write m off data) s = .next t ∧ t.posted = [p] ∧ p.m = m ∧ p.data = data ∧ p.va = va ∧ p.ctx = ctx ∧
          p.rewalk = true ∧ { t with posted := s.posted } = u.1) ∧
      (∀ l pa, u.2 = .ok l → pteMig l.pte = false → l.place va = .mem pa → pa + data.length ≤ 768 * 2 ^ 30 →
        ∃ t, exec (.bar2Write m off data) s = .next t ∧ BytesPut s t pa data ∧
          { t with mem := s.mem, dies := s.dies, trail := s.trail } = { u.1 with dies := s.dies }))) ∧
  (∀ (s : State) (m off len : Nat), m ≤ 1 → 1 ≤ len → off + len ≤ 2 ^ 36 → off / 4096 = (off + len - 1) / 4096 →
    let va := ((Assoc.get 0 m s.ctl.bar2Va).toNat / 65536 * 65536 + off) % 2 ^ 57
    let ctx := (Assoc.get 0 m s.ctl.bar2Ctx).toNat
    let u := s.hostXlate ctx va .read
    (s.wiping = true → exec (.bar2Read m off len) s = .next { s with cpl := s.cpl ++ [.unsupported m] }) ∧
    (s.wiping = false → s.mustHold m = true → exec (.bar2Read m off len) s = .next s) ∧
    (s.wiping = false → s.mustHold m = false →
      (∀ k, u.2 = .error k → exec (.bar2Read m off len) s = .next { u.1.countAbort with cpl := s.cpl ++ [.abort m] }) ∧
      (∀ l, u.2 = .ok l → u.1.hostView.readPlace (l.place va) len = none →
        exec (.bar2Read m off len) s = .next { u.1.countAbort with cpl := s.cpl ++ [.abort m] }) ∧
      (∀ l bs, u.2 = .ok l → u.1.hostView.readPlace (l.place va) len = some bs → ∃ t, exec (.bar2Read m off len) s = .next t ∧
        { t with hostOld := s.hostOld, trail := s.trail } = { u.1 with cpl := s.cpl ++ [.data m bs] } ∧
        let p := (l.place va).spaceAt
        (u.1.readPlace (l.place va) len ≠ some bs → t.hostOld = s.hostOld) ∧
        (u.1.readPlace (l.place va) len = some bs → HostsAcquire s t fun n => ∃ w ∈ s.doneAt, n = 2 ^ 21 + w.2.2 ∧ w.1 = p.1 ∧
          p.2 ≤ w.2.1 ∧ w.2.1 + 8 ≤ p.2 + len)))) ∧
  (∀ (s : State), s.hostOld = [] → s.hostView = s) ∧
  (∀ (s : State) (m off : Nat) (b0 b1 b2 b3 : Byte), m ≤ 2 → off % 4 = 0 → off < 0xE0000 → s.ctl.replayMode = 0 →
    let be := [true, true, true, true]
    let i := Instr.bar4Write m off [b0, b1, b2, b3] be
    let k := off / 1024
    let n := off % 1024 / 4
    let v := (s.tile k).sem n + ofBytes [b0, b1, b2, b3]
    (s.mustHold m = true → exec i s = .next { s with heldQ := s.heldQ ++ [(s.hostNum, i)], hostNum := s.hostNum + 1 }) ∧
    (s.mustHold m = false → (s.tile k).waiters = [] → (s.tile k).quenched = false → ∃ t, exec i s = .next t ∧ t.hostNum = s.hostNum + 1 ∧
      t.hostOld.map noRel = s.hostOld.map noRel ∧
      (t.tile k).sem n = min v (2 ^ 32 - 1) ∧ SpOutside (s.tile k) (t.tile k) (4 * n) 4 ∧
      (t.tile k).pcs = (if v < 2 ^ 32 then s.tile k else (s.tile k).count 0x12 1).pcs ∧
      SameOld (s.tile k) (t.tile k) ∧
      renewed { t.tile k with sp := [], pcs := [] } = renewed { s.tile k with sp := [], pcs := [] } ∧
      (∀ j, j ≠ k → t.tile j = s.tile j) ∧ { t with tiles := s.tiles, hostNum := s.hostNum, hostOld := s.hostOld } = s)) ∧
  (∀ (s : State) (m off len : Nat), m ≤ 2 → 1 ≤ len → off + len ≤ 2 ^ 20 →
    (s.mustHold m = true → exec (.bar4Read m off len) s = .next s) ∧
    (s.mustHold m = false → ∃ bs t, bs.length = len ∧ exec (.bar4Read m off len) s = .next t ∧
      { t with hostOld := s.hostOld } = { s with cpl := s.cpl ++ [.data m bs] } ∧
      (HostsAcquire s t fun n => ∃ i, off / 4 ≤ i ∧ i < (off + len + 3) / 4 ∧ 4 * i < 0xE0000 ∧ n = 1024 * (i / 256 + 1) + i % 256) ∧
      ∀ i, i < len → bs.getD i 0 = if off + i < 0xE0000 then Memory.read (s.tile ((off + i) / 1024)).sp ((off + i) % 1024) else 0)) ∧
  (∀ (s : State) (k n : Nat) (i : Instr), s.heldQ[k]? = some (n, i) →
    let m := writerOf i
    let earlier := ∃ p ∈ s.heldQ.take k, writerOf p.2 = m
    let r := exec (.orderingPointRelease k) s
    (earlier ∨ (isDoorbell i = true ∧ s.unacked m n = true) → r = .next s) ∧
    (¬ earlier → (isDoorbell i = true → s.unacked m n = false) → s.noRoom i = false → (∀ p off d be, i ≠ .bar4Write p off d be) →
      r = .next (ctlEffect i { s with heldQ := s.heldQ.eraseIdx k })) ∧
    (¬ earlier → s.unacked m n = false → ∀ p off d be, i = .bar4Write p off d be →
      r = .next (({ s with heldQ := s.heldQ.eraseIdx k }.performBar4 p off d be).getD s)))

/-- A write of a master that passes the ordering point: CLAIM takes an owner only where there is none (of one cycle, the
lowest number); a write by another than the owner and Yelsutor is discarded and counted, in recovery ignored, behind a held
write of its master held (log 42, as are the claims of one cycle told by SCYC and the SUBMIT that a full queue holds; log 28
for Yelsutor's number 256), that of a plain register too. The owner's: HANDOVER gives ownership to a master or to none; SUBMIT
queues its node, held with the queue full, and GANG_SUBMIT its descriptor; SHOOT_CTL starts a shootdown, is lost while one
runs, or clears lost; RESUME retries or fails the suspended command it names, or is stray; SLOT_CTL resumes a trapped point,
kills, as KillEffect says (every point stops unsaved, and once what its commands sent is performed the completion word has
status 0, no successor is decremented and the slot is free), parks (its running points, and those a mark has stopped, once the
parked-point queue has room for them, log 31) or unparks; LC_REQ resets, or advances the state where its signature passes,
with the identity key made at PROVISIONED and destroyed at RETURNED. Nothing else differs. (From R226, R231, R297, R308, R341,
R356, R366, R367, R404, R405, R407, R408.) -/
def Obligations.ControlCommands : Prop :=
  (∀ (s : State) (m : Nat), Passes s m →
    let win := s.ctl.owner = 255 ∨ (s.ctl.claimCyc = some s.scyc ∧ m < s.ctl.owner.toNat)
    (m = 256 ∨ ¬ win → exec (.claim m) s = .next s) ∧
    (m ≠ 256 → win → exec (.claim m) s =
      .next { s with ctl := { s.ctl with owner := BitVec.ofNat 8 m, claimCyc := some s.scyc } })) ∧
  (∀ (s : State) (m : Nat) (i : Instr), OwnedWrite m i →
    (s.reaches m = true → s.heldBy m = true →
      exec i s = .next { s with heldQ := s.heldQ ++ [(s.hostNum, i)], hostNum := s.hostNum + 1 }) ∧
    (Passes s m → s.subQ.length < 256 →
      (s.ctl.recovery = true → (∀ v, i ≠ .lcStateTripClear m v) → exec i s = .next s) ∧
      (s.ctl.recovery = false → m ≠ 256 → s.ctl.owner.toNat ≠ m → ∃ t, exec i s = .next t ∧
        t.ctl.denied.toNat = min (s.ctl.denied.toNat + 1) (2 ^ 32 - 1) ∧
        { t with ctl := { t.ctl with denied := s.ctl.denied } } = s))) ∧
  (∀ (s : State) (m off : Nat) (bs : List Byte), bs.length = 8 → off ≠ 0x18 → (∀ v, rowAt m off v = none) →
    let r := exec (.controlWrite m off bs) s
    (s.reaches m = true → s.heldBy m = true →
      r = .next { s with heldQ := s.heldQ ++ [(s.hostNum, .controlWrite m off bs)], hostNum := s.hostNum + 1 }) ∧
    (Passes s m → (s.ctl.recovery = true → r = .next s) ∧
      (s.ctl.recovery = false → m ≠ 256 → s.ctl.owner.toNat ≠ m → ∃ t, r = .next t ∧
        t.ctl.denied.toNat = min (s.ctl.denied.toNat + 1) (2 ^ 32 - 1) ∧ { t with ctl := { t.ctl with denied := s.ctl.denied } } = s))) ∧
  KillEffect ∧
  (∀ (s : State) (m : Nat) (v : W64), Owns s m →
    (let n := v.toNat % 256
     (n = 255 ∨ validMaster n = true → exec (.handover m v) s =
       .next { s with ctl := { s.ctl with owner := BitVec.ofNat 8 n, claimCyc := none } }) ∧
     (n ≠ 255 → validMaster n = false → exec (.handover m v) s = .next s)) ∧
    (let ctx := (Assoc.get 0 m s.ctl.submitCtx).toNat
     let va := v.toNat % 2 ^ 57
     (s.subQ.length < 256 → exec (.submit m v) s = .next ({ s with subQ := s.subQ ++ [(va, ctx)] }.runGraph 64)) ∧
     (256 ≤ s.subQ.length → exec (.submit m v) s =
       .next { s with heldQ := s.heldQ ++ [(s.hostNum, .submit m v)], hostNum := s.hostNum + 1 }) ∧
     (s.runsLaunches = true → exec (.gangSubmit m v) s = .next (s.gangSubmit ctx va)) ∧
     (s.runsLaunches = false → exec (.gangSubmit m v) s = .next s)) ∧
    (∀ i, i = .shootCtlStart m v ∨ i = .shootCtlClearLost m v →
      (v.getLsbD 62 = true → exec i s = .next { s with ctl := { s.ctl with shootLost := false } }) ∧
      (v.getLsbD 62 = false → s.ctl.shootBusy = true → exec i s = .next { s with ctl := { s.ctl with shootLost := true } }) ∧
      (v.getLsbD 62 = false → s.ctl.shootBusy = false → ∃ t, exec i s = .next t ∧ { t with ctl := s.ctl, dies := s.dies } = s ∧
        t.ctl = { s.ctl with
          shootBusy := true, shootFor := s.ctl.shootVa, shootScope := v.extractLsb' 16 2, shootCtx := v.extractLsb' 0 16 } ∧
        ∀ d, d < 8 → t.die d = { s.die d with shootPend := true })) ∧
    (∀ i, i = .resumeRetry m v ∨ i = .resumeFail m v ∨ i = .resumeClearStray m v →
      let act := v.toNat / 2 ^ 18 % 4
      let n := v.toNat / 2 ^ 10 % 256
      let k := v.toNat % 1024
      (v.getLsbD 63 = true → exec i s = .next { s with ctl := { s.ctl with resumeStray := false } }) ∧
      (v.getLsbD 63 = false → (2 ≤ act ∨ ((s.tile k).suspended n = none ∧ s.savedCmd k n = none)) →
        exec i s = .next { s with ctl := { s.ctl with resumeStray := true } }) ∧
      (v.getLsbD 63 = false → ∀ c q, (s.tile k).suspended n = some (c, q) →
        (act = 0 → exec i s = .next (s.setTile k ((s.tile k).setCmd { c with susp := none, unanswered := false }))) ∧
        (act = 1 → exec i s = .next (s.setTile k ((s.tile k).setCmd { c with
          susp := none, unanswered := false, done := true, held := none
          trap := some (0x10, BitVec.ofNat 64 (q.kind * 2 ^ 60 + c.e % 2 ^ 48 * 2 ^ 12 + 4)) })))) ∧
      (v.getLsbD 63 = false → act < 2 → (s.tile k).suspended n = none → ∀ slot j, s.savedCmd k n = some (slot, j) →
        exec i s = .next (if act = 1 ∧ (slot, j, n) ∉ s.heldFail then { s with heldFail := (slot, j, n) :: s.heldFail } else s))) ∧
    (∀ slot i, i = .slotCtlResume m slot v ∨ i = .slotCtlKill m slot v ∨ i = .slotCtlPark m slot v →
      (s.launch? slot = none ∨ v.toNat % 4 = 0 → exec i s = .next s) ∧
      (∀ l, s.launch? slot = some l →
        (v.toNat % 4 = 2 → exec i s = .next (s.kill slot 1)) ∧
        (v.toNat % 4 = 3 → (l.ctxVA = 0 ∨ l.state = 2 ∨ l.state = 4 → exec i s = .next s) ∧
          (l.ctxVA ≠ 0 → l.state = 1 → let u := s.setLaunch slot { l with state := 2 }
            exec i s = .next (u.askPark slot)) ∧
          (l.ctxVA ≠ 0 → l.state = 3 → exec i s = .next (s.setLaunch slot { l with state := 1 }))) ∧
        (v.toNat % 4 = 1 → let n := v.toNat / 4 % 1024
          ((∀ p ∈ l.pts, p.place ≠ .trapped n) ∨ s.recTrapped l n = false → exec i s = .next s) ∧
          ((∃ p ∈ l.pts, p.place = .trapped n) → ∀ b, s.readVA l.tctx (l.recVA n + 8) 1 = some [b] → b.getLsbD 0 = true →
            let w := s.writeVA (s.logOf slot) l.tctx (l.recVA n + 8) [b &&& 0xFE#8]
            (w = none → exec i s = .next { s with resumeWait := s.resumeWait ++ [(slot, n)] }) ∧
            (∀ u, w = some u → ∃ t, exec i s = .next t ∧ t.parkedQ = u.parkedQ ++ [(slot, n)] ∧
              t.launch? slot = some { l with
                ntrap := l.ntrap - 1
                pts := l.pts.map fun p => if p.place = .trapped n then { p with place := .parked n, resumed := true } else p } ∧
              { t with launches := u.launches, parkedQ := u.parkedQ } = u))))) ∧
    (∀ i, i = .lcReqReset m v ∨ i = .lcReqAdvance m v →
      let act := v.toNat / 2 ^ 62
      (act = 0 → exec i s = .next s.moduleReset) ∧ (2 ≤ act ∨ (act = 1 ∧ s.ctl.lcState = 3) → exec i s = .next s) ∧
      (act = 1 → s.ctl.lcState ≠ 3 →
        let key := if s.ctl.lcState = 2 then 1 else 0
        let s1 := { s with fresh := s.fresh + 1 }
        (Config.signatureOk key s.fresh = false → exec i s = .next s1) ∧
        (Config.signatureOk key s.fresh = true → exec i s =
          .next { s1 with ctl := { s1.ctl with
            lcState := s1.ctl.lcState + 1
            idKey := if s.ctl.lcState = 0 then some s.fresh else if s.ctl.lcState = 2 then none else s.ctl.idKey } }.wipe))))

/-- The owner's write of xQ_CFG sets vec and lg of a disabled ring, with en enabling it, and changes only en of an enabled
one; a driver's clear of access-counter entries sets the counts it names to 0 (which entries a write names is free, log 54);
xQ_HEAD sets the ring's head, LC_STATE.trip and its record, ATTEST its address unless one is pending, PWR_CAP within its
limits, THRESH unless 0, PERF_CTL, REPLAY_CTL with a fresh log unless mode 3 (that mode 3 is ignored and that every other
write begins a log is the model's choice, log 35), QUENCH_CTL the tiles of its mask told to quench, TEMPER its cycle,
BLAZE_CTL its register and the I/O die's cut where the module takes part, which BLAZE_EN 1 alone means (log 43), the cut
replacing those of an earlier snapshot (log 14); a CONTROL_WRITE of 8 bytes at such a register's offset is that row, and at a
plain one's makes it read the defined bits written, every other register reading as before; one of another width or at an
offset that is not a multiple of 8 is ignored, and such a read gives 0. Nothing else differs. (From R233, R310, R336, R385,
R389, R392, R393, R395, R403, R409, R411, R412.) -/
def Obligations.ControlRegisters : Prop :=
  (∀ (s : State) (m : Nat) (v : W64), Owns s m →
    let w := toBytes 8 v.toNat
    (∀ n, let r := s.ring n
      let lg := v.toNat % 32
      let on := v.getLsbD 63 = true ∧ 6 ≤ lg ∧ lg ≤ 16
      (r.en = true → exec (.ringCfgWrite m n v) s = .next (s.setRing n { r with en := v.getLsbD 63 })) ∧
      (r.en = false → ∃ t, exec (.ringCfgWrite m n v) s = .next t ∧
        { t with rlNext := s.rlNext } = s.setRing n { r with
          vec := v.extractLsb' 8 11, lg := BitVec.ofNat 5 lg, en := decide on
          tail := if on then 0 else r.tail, head := if on then 0 else r.head } ∧
        t.rlNext = if n = .rl ∧ on then 0 else s.rlNext) ∧
      exec (.ringHeadWrite m n v) s = .next (s.setRing n { r with head := v.setWidth 32 })) ∧
    exec (.lcStateTripClear m v) s = .next (if v.getLsbD 8 then { s with flashTrip := none } else s) ∧
    exec (.attest m v) s = .next (if s.ctl.attestPA = none
      then { s with ctl := { s.ctl with attestPA := some v, attestDone := false } } else s) ∧
    exec (.pwrCap m v) s = .next (if 1000 ≤ v.toNat % 65536 ∧ v.toNat % 65536 ≤ 5000
      then { s with ctl := { s.ctl with pwrCap := v.setWidth 16 } } else s) ∧
    (∀ d, d < 8 → (v.toNat % 65536 = 0 → exec (.thresh m d v) s = .next s) ∧
      (v.toNat % 65536 ≠ 0 → (∀ p ∈ (s.die d).acnt, p.2.toNat / 2 ^ 48 < v.toNat % 65536) →
        exec (.thresh m d v) s = .next (s.setDie d { s.die d with thresh := v.setWidth 16 })) ∧
      (v.toNat % 65536 ≠ 0 → ∃ t, exec (.thresh m d v) s = .next t ∧ (t.die d).thresh = v.setWidth 16 ∧ t.tiles = s.tiles)) ∧
    exec (.perfCtl m v) s = .next { s with ctl := { s.ctl with perfCtl := v } } ∧
    exec (.replayCtl m v) s = .next (if v.toNat % 4 = 3 then s else
      { s with rlFirst := none, rlNext := 0, ctl := { s.ctl with replayMode := v.setWidth 2, replayDiv := false, replayIdx := 0 } }) ∧
    (v.getLsbD 63 = false ∨ s.ctl.quenchBusy = true → exec (.quenchCtl m v) s = .next s) ∧
    (v.getLsbD 63 = true → s.ctl.quenchBusy = false →
      ∃ t c, exec (.quenchCtl m v) s = .next t ∧ c.toNat = max s.ctl.quenchCyc.toNat s.scyc.toNat ∧
        t.quenchAt = s.quenchAt ++ s.maskTiles.map (fun k => (k, c)) ∧ t.ctl.quenchBusy = !s.maskTiles.isEmpty ∧
        { t with quenchAt := s.quenchAt, ctl := { t.ctl with quenchBusy := s.ctl.quenchBusy } } = s) ∧
    exec (.temper m v) s = .next (if v.getLsbD 63
      then { s with ctl := { s.ctl with temperAt := some (v &&& 0x7FFFFFFFFFFFFFFF#64) } } else s) ∧
    (v.getLsbD 63 = false ∨ s.ctl.blazeEn ≠ 1 → exec (.blazeCtl m v) s =
      .next { s with ctl := { s.ctl with blazeCtl := v &&& 0x400000000000FFFF#64 } }) ∧
    (v.getLsbD 63 = true → s.ctl.blazeEn = 1 → ∃ t c, exec (.blazeCtl m v) s = .next t ∧ t.cuts = [c] ∧ c.die = 24 ∧
      c.num = v.toNat % 65536 ∧ c.out = v.getLsbD 62 ∧ c.scyc = s.scyc ∧ c.launches = s.launches ∧ c.subQ = s.subQ ∧
      c.parkedQ = s.parkedQ ∧ t.tiles = s.tiles ∧ t.markersOut = s.markersOut ++ s.upLinks ∧
      t.ctl = { s.ctl with blazeCtl := v &&& 0x400000000000FFFF#64 }) ∧
    (∀ off mask, (off, mask) ∈ ([(0x1000, -1), (0x1008, 0xFFFF), (0x1010, 0xFFFF), (0x1018, -1), (0x1020, -1),
        (0x1028, 0x01FFFFFFFFFF0000), (0x2000, 0xFFFF), (0x4008, 0x7FF), (0x5048, -1), (0x5050, -1), (0x5058, -1), (0x5078, -1),
        (0x5080, -1)] : List (Nat × W64)) ∨ (∃ i, i < 9 ∧ off = 0x5000 + 8 * i ∧ mask = dbgMask i) →
      ∃ t, exec (.controlWrite m off w) s = .next t ∧ OnlyCtl s t ∧ t.readReg m off = v &&& mask ∧
        ∀ o, o ≠ off → t.readReg m o = s.readReg m o) ∧
    (∀ n, n < 4 → let r := s.ring (ringAt n)
      exec (.controlWrite m (0x3000 + 64 * n) w) s =
        .next (if r.en then s else s.setRing (ringAt n) { r with base := v &&& ~~~0xFFF#64 }) ∧
      exec (.controlWrite m (0x3020 + 64 * n) w) s =
        .next (if v.getLsbD 63 then s.setRing (ringAt n) { r with ovf := false } else s)) ∧
    (∀ d, d < 8 → exec (.controlWrite m (0x10008 + 256 * d) w) s = .next (s.setDie d { s.die d with undoBase := v })) ∧
    (∀ d o, d < 8 → 24 ≤ o → o < 256 → o % 8 = 0 → ∃ t, exec (.controlWrite m (0x10000 + 256 * d + o) w) s = .next t ∧
      (∀ i, i < 16384 → Assoc.get 0 i (t.die d).acnt =
        if i ∈ Config.countClear o v then BitVec.ofNat 64 ((Assoc.get 0 i (s.die d).acnt).toNat % 2 ^ 48)
        else Assoc.get 0 i (s.die d).acnt) ∧
      { t.die d with acnt := [] } = { s.die d with acnt := [] } ∧ (∀ j, j ≠ d → t.die j = s.die j) ∧
      { t with dies := s.dies } = s) ∧
    (∀ off, off % 8 ≠ 0 → exec (.controlWrite m off w) s = .next s)) ∧
  (∀ (s : State) (m off : Nat) (v : W64) (i : Instr), rowAt m off v = some i → exec (.controlWrite m off (toBytes 8 v.toNat)) s = exec i s) ∧
  (∀ (s : State) (m : Nat) (v : W64), Passes s m → s.ctl.recovery = false → exec (.controlWrite m 0x18 (toBytes 8 v.toNat)) s =
    .next { s with ctl := { s.ctl with
      denied := s.ctl.denied &&& ~~~(v.setWidth 32), abortCnt := s.ctl.abortCnt &&& ~~~(v.extractLsb' 32 32) } }) ∧
  (∀ (s : State) (m off : Nat) (bs : List Byte), bs.length ≠ 8 → exec (.controlWrite m off bs) s = .next s) ∧
  (∀ (s : State) (m off n : Nat), (off % 8 ≠ 0 ∨ n ≠ 8 → s.readControl m off n = List.replicate n 0) ∧
    (n = 8 → s.readControl m off n = toBytes 8 (s.readReg m off).toNat))

/-- With guard true and its register full, LAUNCH waits until the point is drained with every row access performed; takes the
launch fault of case 1 where the node cannot be reached, 2 where its kind is reserved, 3 where its count is 0; in a
checkpointed launch asks for a mark and waits for it; else it makes the decrement and retires. A decrement of a count above 1
writes the count less 1 and acts no further; one of a count of 1 writes the reload count and runs the node by kind: a kernel
submits its launch, a branch decrements successor 0 or 1 as its word is nonzero, a loop 0 with its word one less or 1, a
switch the one its word names, the last above it; kinds 4 and 5 every successor, kind 5 raising its vector; what a decrement
of a checkpointed launch writes is in its undo log. A free slot takes the ready launch of highest priority, the oldest first.
A completion word and a submitted header do what CompletionWords and SubmitEffect say: the word LAUNCH_ID and the status, a
kind 11 record where it does not translate; a launch with status 1 and a kind 9 record where its header fails a check, else
live in the lowest free slot or ready behind the others. (From R24, R191, R192, R194, R308, R342, R343, R344, R345, R379,
R381.) -/
def Obligations.LaunchWord : Prop :=
  (∀ (s : State) (g : Guard) (f : FmtT), SRuns s g [f.ga.toNat] →
    let x := here s
    let k := s.issue.tile
    let v := x.readG f.ga.toNat
    let d : Dec := ⟨v.toNat, x.tctx, x.priv, 1, x.launchId, s.logOf (x.launchId.toNat % 64)⟩
    let r := exec (.launch g f) s
    let fault (case : Nat) : Prop := Traps s r 0x10 (v.toNat / 64 * 64 + case)
    (x.settled = false → Waits s r 7) ∧
    (x.settled = true → (s.nodeAt x.tctx v.toNat = none → fault 1) ∧
      (∀ w, s.nodeAt x.tctx v.toNat = some w →
        (5 < w.toNat % 16 → fault 2) ∧
        (w.toNat % 16 ≤ 5 → w.toNat / 2 ^ 16 % 2 ^ 16 = 0 → fault 3) ∧
        (w.toNat % 16 ≤ 5 → w.toNat / 2 ^ 16 % 2 ^ 16 ≠ 0 →
          (∀ l, s.launchOf k = some l → l.checkpointed = true → x.markWait ≠ 2 → ∃ t, r = .next t ∧ t.markAsked = true ∧
            (here t).markWait = 1 ∧ (here t).waitWhy .S = 7 ∧ (here t).pc = x.pc ∧
            { t with markAsked := s.markAsked, tiles := s.tiles } = s) ∧
          (s.launch? 64 = none → (∀ l, s.launchOf k = some l → l.checkpointed = false ∧ l.replay = 0) →
            ((s.applyDec d) = none → Waits s r 7) ∧
            ((s.applyDec d) ≠ none →
              let u := (((s.setTile k { x with markWait := 0 }).moduleDone k).launchDec d).retire false
              r = .next (u.setTile k { u.tile k with chunk := 0 })))))) ) ∧
  (∀ (s t : State) (d : Dec) (w : BitVec 512), s.nodeAt d.ctx d.node = some w → w.toNat % 16 ≤ 5 →
    let n := w.toNat / 2 ^ 16 % 2 ^ 16
    (2 ≤ n → s.writeVA d.log d.ctx (d.node + 2) (toBytes 2 (n - 1)) = some t → s.applyDec d = some (t, [])) ∧
    (n = 1 → 1 ≤ w.toNat % 16 ∨ (s.readyQ = [] ∧ ∃ m, m < 64 ∧ s.launch? m = none) →
      s.writeVA d.log d.ctx (d.node + 2) (toBytes 2 (w.toNat / 2 ^ 32 % 2 ^ 16)) = some t → s.applyDec d = t.runNode d.log d.node w d) ∧
    (n = 0 → ∃ u, s.applyDec d = some (u, []) ∧ SameMemory s u ∧ u.launches = s.launches)) ∧
  (∀ (s : State) (log : Option Nat) (va : Nat) (w : BitVec 512) (d : Dec),
    let kind := w.toNat % 16
    let n := w.toNat / 2 ^ 8 % 2 ^ 8
    let arg := w.toNat / 2 ^ 64 % 2 ^ 64
    let succ (i : Nat) : Dec := ⟨w.toNat / 2 ^ (64 * (2 + i)) % 2 ^ 64, d.ctx, d.priv, 2, d.lid, log⟩
    let r := s.runNode log va w d
    n ≤ 6 →
    (kind = 0 → r = some (s.submitLaunch va w d.ctx d.priv d.lid, [])) ∧
    (kind = 1 → ∀ v, s.wordVA d.ctx arg = some v →
      (v ≠ 0 → 1 ≤ n → r = some (s, [succ 0])) ∧ (v = 0 → 2 ≤ n → r = some (s, [succ 1]))) ∧
    (kind = 2 → ∀ v, s.wordVA d.ctx arg = some v → 2 ≤ n → (v = 0 → r = some (s, [succ 1])) ∧
      (v ≠ 0 → s.mapped d.ctx arg 8 .write = true →
        r = (s.writeVA log d.ctx arg (toBytes 8 (v - 1))).map fun u => (u, [succ 0]))) ∧
    (kind = 3 → ∀ v, s.wordVA d.ctx arg = some v → 1 ≤ n → r = some (s, [succ (min v (n - 1))])) ∧
    (kind = 4 → r = some (s, (List.range n).map succ)) ∧
    (kind = 5 → r = some ({ s with msix := s.msix ++ [arg % 2048] }, (List.range n).map succ))) ∧
  (∀ (s : State) (slot : Nat) (l : Launch) (p q : List Launch), slot < 64 → s.wiping = false → s.launch? slot = none →
    s.readyQ = p ++ l :: q → (∀ m ∈ p, m.prio < l.prio) → (∀ m ∈ q, m.prio ≤ l.prio) →
    exec (.launchSlotFree slot) s =
      .next (({ s with readyQ := s.readyQ.filter fun m => m.seq != l.seq }.startInSlot slot l).runGraph 64)) ∧
  CompletionWords ∧ SubmitEffect

/-- The search finds a ready point where there is one, the first of its column, and with at most 64 columns the one of least
advance coordinate and then least column. Outside replay: a fire takes the point found, marks it fired in its column, and puts
it on the free tile; a list launch puts a point of home number t on each tile t it takes, its list empty and its rows set up;
a start sets the tile up from the header, its images and its code-row segment in memory (where that lies is log 5), everything
else 0, keeping the rows of a tile whose last point had the same context, or that has run none (log 65), and the work list of
a list launch's tile; a completion vacates the tile and records the point in its column, which then counts as done what was
done and this point; the clearing sets done in every list of a launch; a deadlock records and traps each point that is left. A
launch whose points are all complete does what FinishEffect says: its completion word gets status 2, its slot is free, and its
successors are decremented in ascending order; its word may have to wait, and then so does the rest. Nothing else differs.
(From R19, R21, R23, R24, R342, R343, R85, R92, R314, R317, R318, R321, R347, R348, R349.) -/
def Obligations.PointEvents : Prop :=
  (∀ (l : Launch) (start : Nat),
    (∀ c z, l.nextPoint start = some (c, z) → l.ready c z = true ∧ l.candidate c = some z ∧ c < l.ncol ∧
      (l.ncol ≤ 64 →
        ∀ c' z', c' < l.ncol → l.candidate c' = some z' → l.ready c' z' = true → z < z' ∨ (z = z' ∧ c ≤ c'))) ∧
    (l.nextPoint start = none → ∀ c z, c < l.ncol → l.candidate c = some z → l.ready c z = false)) ∧
  (∀ (s : State) (slot k : Nat) (l : Launch), s.launch? slot = some l → s.wiping = false → l.isList = false → l.live = true →
    ∀ c z, s.firePoint l (Config.freeWord s.fresh).toNat = some (c, z) → l.replay = 0 →
    ((s.freeTiles slot).length < l.needTiles → exec (.pointFire slot k) s = .next (s.makeRoom slot l l.needTiles)) ∧
    (l.needTiles ≤ (s.freeTiles slot).length → s.nextSlot = some slot → s.isFree slot k = true → z - colH (l.col c) ≤ 7 →
      ∃ t m, exec (.pointFire slot k) s = .next t ∧
        t.tile k = { s.tile k with
          point := some { slot := slot, hdr := l.hdr, col := c, z := z, home := 0, started := false } } ∧
        (∀ j, j ≠ k → t.tile j = s.tile j) ∧ t.launch? slot = some m ∧ colF (m.col c) (z - colH (l.col c)) = true ∧
        (∀ j, j ≠ c → m.col j = l.col j) ∧
        { t with tiles := s.tiles, launches := s.launches, placed := s.placed, lastServed := s.lastServed, fresh := s.fresh } = s)) ∧
  (∀ (s : State) (slot : Nat) (ks : List Nat) (l : Launch), s.launch? slot = some l → s.wiping = false → l.isList = true →
    l.started = false → l.live = true → l.replay = 0 →
    ((s.freeTiles slot).length < l.mint → exec (.listLaunchStart slot ks) s = .next (s.makeRoom slot l l.needTiles)) ∧
    (l.mint ≤ (s.freeTiles slot).length → s.nextSlot = some slot → ks.length = min l.maxt (s.freeTiles slot).length →
      (∀ k ∈ ks, s.isFree slot k = true) → ks.Nodup → ∃ t m, exec (.listLaunchStart slot ks) s = .next t ∧
        (∀ j, j ∉ ks → t.tile j = s.tile j) ∧
        (∀ j ∈ ks, let x := s.tile j
          let y := t.tile j
          y.point = some { slot := slot, hdr := l.hdr, col := 0, z := 0, home := j, started := false } ∧
          y.wlCount = 0 ∧ y.wlHead = 0 ∧ y.wlDone = false ∧ y.wlGone = false ∧ RowsReady s l x y ∧
          (let blank (z : Tile) : Tile := { z with
             point := none, wlCount := 0, wlHead := 0, wlDone := false, wlGone := false, sp := [], codeOf := none, lastCtx := none }
           blank y = blank x)) ∧
        t.launch? slot = some m ∧ m.started = true ∧
        { t with tiles := s.tiles, launches := s.launches, placed := s.placed, lastServed := s.lastServed, fresh := s.fresh } = s)) ∧
  (∀ (s : State) (k : Nat) (p : Point) (l : Launch), (s.tile k).point = some p → p.started = false → s.mayStart p = true →
    (s.tile k).quenched = false → (s.tile k).stop = none ∨ (s.tile k).isList = true → s.launch? p.slot = some l →
    ∃ t, exec (.pointStart k) s = .next t ∧ OnlyTile k s { t with fresh := s.fresh } ∧
      (let x := s.tile k
       let y := t.tile k
       y.point = some { p with started := true } ∧ y.pc.toNat = hdrField l.hdr 4 0 20 ∧
       (∀ n, y.readG n = 0 ∧ y.emptyG n = false ∧ y.readV n = 0 ∧ y.emptyV n = false ∧ y.readM n = 0) ∧
       (∀ n, n < 8 → y.readC n = (n == 0 || (decide (4 ≤ n) && (boundOf l p.col p.z).getLsbD (n - 4)))) ∧
       y.bound = boundOf l p.col p.z ∧ y.priv = l.priv ∧ y.pointId = widOf l p.col p.z ∧
       y.launchId.toNat = (l.seq * 256 + p.slot) % 2 ^ 64 ∧ y.seed.toNat = hdrField l.hdr 11 0 32 ∧
       (∀ n, n < 1024 → elemNat 32 y.lg.toNat n = genSeed (hdrField l.hdr 11 0 32) n) ∧ y.perfSel = s.ctl.perfCtl ∧
       y.layout = layTable l.layImg ∧ y.rings = ringTable l.ringImg ∧
       RowsReady s l x y ∧ y.wlCount = (if l.isList then x.wlCount else 0) ∧ y.wlHead = (if l.isList then x.wlHead else 0) ∧
       y.secs = [] ∧ y.chan = [] ∧ y.inflight = [] ∧ y.ks = [] ∧ y.fp = 0 ∧ y.rb = 0 ∧ y.halted = false ∧
       y.stop = (if l.isList then x.stop else none))) ∧
  (∀ (s : State) (k : Nat) (p : Point), (s.tile k).point = some p → p.started = true → (s.tile k).halted = true →
    (s.tile k).settled = true → (s.tile k).stop = none → (s.tile k).quenched = false → NoReplay { s with issue := { s.issue with tile := k } } →
    exec (.pointComplete k) s = .next (((s.haltDone k p).donePoint k p).runGraph 64) ∧
    (∀ l, s.launch? p.slot = some l → l.isList = false →
      let m := (l.dropTile k).setCol p.col (recordDone (l.col p.col) p.z)
      let u := (s.setTile k (s.tile k).vacate).setLaunch p.slot m
      (m.allDone = false ∨ m.pts ≠ [] → s.donePoint k p = u) ∧
      (m.allDone = true → m.pts = [] → m.checkpointed = true → s.donePoint k p = u.setLaunch p.slot { m with held := true }) ∧
      (m.allDone = true → m.pts = [] → m.checkpointed = false → s.donePoint k p = u.finishLaunch p.slot)) ∧
    (∀ l, s.launch? p.slot = some l → l.isList = true → (l.dropTile k).pts ≠ [] → s.donePoint k p =
      (s.setTile k { (s.tile k).vacate with wlCount := 0, wlGone := true }).setLaunch p.slot
        { l.dropTile k with cntC := l.cntC + (s.tile k).wlCount })) ∧
  (∀ (e : BitVec 64) (z i : Nat), colH e + 8 < 2 ^ 24 → colH e ≤ z → z ≤ colH e + 7 →
    let done (c : BitVec 64) (j : Nat) : Prop := j < colH c ∨ (colH c < j ∧ j ≤ colH c + 7 ∧ colD c (j - colH c) = true)
    done (recordDone e z) i ↔ done e i ∨ i = z) ∧
  (∀ (s : State) (slot : Nat) (l : Launch), s.launch? slot = some l → l.isList = true → l.started = true → l.cleared = false →
    l.cntA = l.cntC → s.inFlight slot = 0 → (∀ p ∈ l.pts, s.quiet p = true) → ∃ t, exec (.clearing slot) s = .next t ∧
      (∀ j, t.tile j = if j ∈ s.tilesOf slot then { s.tile j with wlDone := true } else s.tile j) ∧
      t.launch? slot = some { l with cleared := true } ∧ { t with tiles := s.tiles, launches := s.launches } = s) ∧
  (∀ (s : State) (slot : Nat) (l : Launch), s.launch? slot = some l →
    (l.idle < 2 ^ 20 ∨ s.deadlocked l = false → exec (.workListDeadlock slot) s = .next s) ∧
    (2 ^ 20 ≤ l.idle → s.deadlocked l = true →
      let ts := s.tilesOf slot
      let a := s.traceSnapshot (s.snapshot ts)
      exec (.workListDeadlock slot) s = .next (ts.foldl (fun u k => let x := u.tile k
        if x.point = none then u else u.takeTrap (x.issueS k) false 0x0F (x.wlCount + ofBool (s.heldByAppend k) * 2 ^ 17))
        (a.1.faultRecord 10 ts.length (a.2 % 2 ^ 57) (l.seq * 256 + slot))))) ∧
  FinishEffect

/-- A save of a launch whose stopping points stand at boundaries writes their records and then the frontier and leaves their
tiles free, no other tile changed, a launch being parked then parked, its points asked to stop where the parked-point queue
has room for all of them; a point that has executed no word is put back to be fired again; another is parked behind the
others, or, where it trapped, is counted, its record's address kept for SLOT_TRAP and the trap vector raised; a write that
faults kills the launch, one that finds the undo log full waits. The oldest parked point of the priority whose turn it is is
restored onto the free tile, started, with its launch's identity and everything else as RestoredFrom has it from its record:
registers, tables and queues, sections, commands, work list and rows. A record holds its tile as RecordEffect says, and a
launch that is short of tiles stops what RoomEffect says (which point of the least priority is the model's reading, log 38). A
mark asks every started point of the checkpointed launches to stop, and once they may be saved saves them and goes on, in
replay where the log has the mark next, a member of another's gang once its MARK has come; with no such launch nothing is left
asked. (From R353, R354, R364, R365, R366, R368, R369, R371 to R380.) -/
def Obligations.PreemptionEvents : Prop :=
  (∀ (s : State) (slot : Nat) (l : Launch), s.launch? slot = some l →
    let r := exec (.contextSave slot) s
    (l.dying ≠ none ∨ l.ending = true → r = .next (s.settleSlot slot)) ∧
    (l.dying = none → l.ending = false →
      let s0 := if l.state = 2 then s.askPark slot else s
      (s0.saveSet slot l = none → r = .next s0) ∧
      (∀ ks, s0.saveSet slot l = some ks →
        (s0.savePoints slot ks = .fault → r = .next (s0.kill slot 3)) ∧ (s0.savePoints slot ks = .wait → r = .next s0) ∧
        (∀ u, s0.savePoints slot ks = .ok u →
          (u.saveFront slot = .fault → r = .next (u.kill slot 3)) ∧ (u.saveFront slot = .wait → r = .next s0) ∧
          (∀ v, u.saveFront slot = .ok v → ∃ t m, r = .next t ∧ { t with launches := v.launches } = v ∧
            (∀ k ∈ ks, (t.tile k).point = none ∧ (t.tile k).stop = none ∧ (t.tile k).secs = [] ∧ (t.tile k).chan = []) ∧
            (∀ k, k ∉ ks → t.tile k = s0.tile k) ∧ t.launch? slot = some m ∧
            m.state = (if l.state = 2 then 3 else l.state)))))) ∧
  (∀ (s : State) (slot : Nat), TablesOk s →
    let marked := (s.tilesOf slot).filter fun k => (s.tile k).stopsFor .mark
    let t := s.askPark slot
    { t with tiles := s.tiles } = s ∧
    (16384 < s.parkedQ.length + s.stopping.length + (s.runningOf slot).length + marked.length → t = s) ∧
    (s.parkedQ.length + s.stopping.length + (s.runningOf slot).length + marked.length ≤ 16384 → ∀ k, let x := s.tile k
      t.tile k = if k ∈ s.runningOf slot
        then { x with stop := some { why := .park, trapped := false, eng := none, gen := x.preemptGen, inst := x.inner } }
        else if k ∈ marked then { x with stop := x.stop.map fun st => { st with why := .park } } else x)) ∧
  (∀ (s : State) (slot k : Nat) (l : Launch), s.launch? slot = some l → (s.tile k).unstarted = true → ∃ t m,
    s.savePoint slot k = .ok t ∧ (t.tile k).point = none ∧ t.launch? slot = some m ∧
    m.pts.map (fun p => p.place) = l.pts.map (fun p => if p.place = .onTile k then .refire else p.place) ∧
    { t with tiles := s.tiles, launches := s.launches } = s) ∧
  (∀ (s u : State) (slot k : Nat) (l : Launch), s.launch? slot = some l → (s.tile k).unstarted = false →
    let i := l.freeIdx []
    s.putRecord k l (s.logOf slot) i = .ok u → ∃ t m, s.savePoint slot k = .ok t ∧ (t.tile k).point = none ∧ (t.tile k).stop = none ∧
      t.launch? slot = some m ∧
      ((∃ st, (s.tile k).stop = some st ∧ st.trapped = true) →
        m.ntrap = l.ntrap + 1 ∧ Tab.get? slot t.ctl.slotTrap = some (l.recVA i % 2 ^ 57) ∧
        t.msix = u.msix ++ [s.ctl.trapVec.toNat] ∧ t.parkedQ = u.parkedQ) ∧
      ((∀ st, (s.tile k).stop = some st → st.trapped = false) →
        m.ntrap = l.ntrap ∧ t.parkedQ = s.parkedQ ++ [(slot, i)] ∧ t.msix = u.msix ∧ t.ctl = u.ctl)) ∧
  (∀ (s : State) (n k slot idx live : Nat) (l : Launch) (q : LPoint), s.parkedQ[n]? = some (slot, idx) →
    s.launch? slot = some l → s.wiping = false →
    let may (m : Launch) : Prop := ¬ (s.markPhase = 2 ∧ m.checkpointed = true) ∧ m.live = true ∧ m.refirePoint = none
    (¬ may l ∨ (∃ p ∈ s.parkedQ.take n, ∃ m, s.launch? p.1 = some m ∧ may m ∧ m.prio = l.prio) → exec (.contextRestore n k) s = .next s) ∧
    (may l → (∀ p ∈ s.parkedQ.take n, ∀ m, s.launch? p.1 = some m → may m → m.prio ≠ l.prio) →
    ((s.freeTiles slot) = [] → exec (.contextRestore n k) s = .next (s.makeRoom slot l l.needTiles)) ∧
    (s.freeTiles slot ≠ [] → (∃ v m, s.nextSlot = some v ∧ s.launch? v = some m ∧ m.prio = l.prio ∧ m.hasParked = true) →
      s.isFree slot k = true →
      l.pts.find? (fun p => p.place == .parked idx) = some q → s.liveMap l = some live →
      s.mapped l.tctx (l.recVA idx) recBody .read = true →
      (∀ r ∈ l.savedRows live, s.mapped l.tctx (l.recVA idx + recRow r) 256 .read = true) →
      let rd := s.recRead l.tctx (l.recVA idx)
      ∃ t, exec (.contextRestore n k) s = .next t ∧ t.parkedQ = s.parkedQ.eraseIdx n ∧ (∀ j, j ≠ k → t.tile j = s.tile j) ∧
        SameMemory s t ∧ (t.tile k).point = some { slot := slot, hdr := l.hdr, col := q.col, z := q.z, home := q.home, started := true } ∧
        (t.tile k).priv = l.priv ∧ (t.tile k).bound = boundOf l q.col q.z ∧
        (t.tile k).launchId.toNat = (l.seq * 256 + slot) % 2 ^ 64 ∧ (t.tile k).pc.toNat = rd 0x100 8 % 2 ^ 20 ∧
        RestoredFrom s l live rd (t.tile k) ∧
        (∃ m, t.launch? slot = some m ∧
          m.pts = l.pts.filter (fun r => r != q) ++
            [{ q with place := .onTile k, ord := s.placed, wpop := false, apps := [], resumed := false, bpPassed := false }] ∧
          { m with pts := [] } = { l with pts := [] }) ∧
        ∀ j, j ≠ slot → t.launch? j = s.launch? j))) ∧
  (∀ (s : State),
    (s.wiping = true → exec .checkpointMark s = .next s) ∧
    (s.wiping = false → s.ckptSlots = [] → (∀ p ∈ s.launches, p.2.dying = none) →
      exec .checkpointMark s = .next { s with markPhase := 0, markAsked := false }) ∧
    (s.wiping = false → s.ckptSlots ≠ [] → s.markPhase = 0 →
      let waits := (∃ g ∈ s.ckptGangs, g.rank ≠ 0) ∧ ∀ g ∈ s.ckptGangs, g.asked = false
      (waits ∨ s.markDue = false → exec .checkpointMark s = .next s) ∧
      (¬ waits → s.markDue = true → exec .checkpointMark s = .next s.markStart.markStep)) ∧
    (s.wiping = false → s.ckptSlots ≠ [] → s.markPhase = 2 → exec .checkpointMark s = .next (s.markSaved.getD s)) ∧
    (s.wiping = false → s.ckptSlots ≠ [] → s.markPhase = 1 →
      let a := s.askAll .mark (s.ckptTiles.filter fun k => (s.tile k).runsPoint)
      (a.markReady = false → exec .checkpointMark s = .next a) ∧
      (a.markReady = true →
        exec .checkpointMark s = .next (((a.markSave a.ckptSlots).bind State.markSaved).getD a)))) ∧
  RoomEffect ∧ RecordEffect

/-- A descriptor names its gang, its members' modules by rank, its header and its word; one out of range or unreadable is
none. PREPARE is held until its descriptor has arrived; then, as GangEffect says, a member that cannot take the launch answers
REFUSE, one short of a slot or of tiles waits, and another reserves and answers READY, rank 0 sending PREPARE on; READY of the
last member makes rank 0 send COMMIT and start, of another is noted; REFUSE and the timeout make rank 0 abort before it has
committed, and an abort sends ABORT to every other member's module, gives the completion word status 3, and forgets the gang;
COMMIT starts a member that has reserved; a lost member aborts a gang that has not committed and rolls a committed one back;
MARK stops and saves as MarkEffect says, MARKED of the last member ends the mark, RESUME opens fresh logs; the completion of
the last member writes gdone with status 2. The model's own (log 33): that a descriptor out of range or unreadable is ignored,
that a member whose header is unchecked gives its word the LAUNCH_ID that its launch would have had, and that a committed
member without a mark is killed. (From R356, R357, R358, R383.) -/
def Obligations.GangEvents : Prop :=
  (∀ (s : State) (n : Nat), s.gang? n = none →
    exec (.prepare n) s = .next (if n ∈ s.prepHeld then s else { s with prepHeld := s.prepHeld ++ [n] }) ∧
    exec (.gangPrepareTimeout n) s = .next { s with prepHeld := s.prepHeld.filter fun k => k != n }) ∧
  (∀ (s : State) (g : Gang),
    let t := s.gangAbortAll g
    t.gang? g.gang = none ∧ g.gang ∉ t.prepHeld ∧
    t.outbox = s.outbox ++ ((List.range g.nmem).filter fun r => r != g.rank).map fun r => (GangMsg.abort, g.gang, g.modOf r)) ∧
  (∀ (s : State) (g : Gang) (tctx done : Nat), g.slot = none → g.rank ≠ 0 →
    let word (lid seq : Nat) : Prop := (s.gangAbort g).launchSeq = seq ∧
      ({ s.gangAbort g with gangs := s.gangs, prepHeld := s.prepHeld, launchSeq := s.launchSeq } = s.sendCompletion none tctx done lid 3)
    (g.done = some (tctx, done) → word g.lid s.launchSeq) ∧
    (g.done = none → s.readVA g.ctx g.hdrVA 128 = none → s.gangAbort g =
      { s with gangs := (s.gangAbort g).gangs, prepHeld := s.prepHeld.filter fun n => n != g.gang }) ∧
    (∀ b, g.done = none → s.readVA g.ctx g.hdrVA 128 = some b →
      let h : BitVec 1024 := BitVec.ofNat 1024 (ofBytes b)
      tctx = hdrField h 13 0 16 → done = hdrField h 10 0 64 → word ((s.launchSeq + 1) * 256) (s.launchSeq + 1))) ∧
  (∀ (s : State) (ctx va : Nat) (b ms : List Byte), s.readVA ctx va 64 = some b →
    let w (i : Nat) : Nat := ofBytes b / 2 ^ (64 * i) % 2 ^ 64
    let n := w 0 / 2 ^ 16 % 2 ^ 16
    let rank := w 0 / 2 ^ 32 % 2 ^ 16
    (n < 2 ∨ 4096 < n ∨ n ≤ rank → s.gangAt ctx va = none) ∧
    (2 ≤ n → n ≤ 4096 → rank < n →
      (s.readVA ctx (w 2) (2 * n) = none → s.gangAt ctx va = none) ∧
      (s.readVA ctx (w 2) (2 * n) = some ms → ∃ g, s.gangAt ctx va = some g ∧ g.gang = w 0 % 2 ^ 16 ∧ g.nmem = n ∧ g.rank = rank ∧
        g.hdrVA = w 1 ∧ g.gdone = w 3 ∧ g.ctx = ctx ∧ ∀ r, r < n → g.modOf r = ofBytes ((ms.drop (2 * r)).take 2)))) ∧
  (∀ (s : State) (n m : Nat) (g : Gang), s.gang? n = some g → g.gang = n →
    (1 ≤ g.phase → exec (.prepare n) s = .next s) ∧
    (g.phase = 0 → g.rank = 0 ∨ n ∈ s.prepHeld → exec (.prepare n) s = .next (s.gangPrepare g)) ∧
    (g.phase = 0 → g.rank ≠ 0 → n ∉ s.prepHeld →
      exec (.prepare n) s = .next ({ s with prepHeld := s.prepHeld ++ [n] }.gangPrepare g)) ∧
    (g.rank = 0 → g.phase = 1 → 1 ≤ m → m < g.nmem →
      let h := { g with readies := if m ∈ g.readies then g.readies else g.readies ++ [m] }
      let u := s.setGang h
      let all_ := ∀ r, 1 ≤ r → r < g.nmem → r ∈ h.readies
      (¬ all_ → exec (.ready n m) s = .next u) ∧
      (all_ → exec (.ready n m) s = .next ({ u with
        outbox := s.outbox ++ ((List.range g.nmem).filter fun r => r != 0).map fun r => (GangMsg.commit, n, g.modOf r) }.gangStart h))) ∧
    (g.rank = 0 → g.phase ≤ 1 → 1 ≤ m → m < g.nmem → exec (.refuse n m) s = .next (s.gangAbortAll g)) ∧
    (g.rank = 0 → g.phase = 1 → exec (.gangPrepareTimeout n) s = .next (s.gangAbortAll g)) ∧
    (g.rank ≠ 0 → g.phase = 1 → exec (.commit n) s = .next (s.gangStart g)) ∧
    (g.rank ≠ 0 → g.phase ≤ 1 → exec (.abort n) s = .next (s.gangAbort g)) ∧
    (m < g.nmem → m ≠ g.rank →
      (g.phase ≤ 1 → exec (.gangMemberLost n m) s = .next (if g.rank = 0 then s.gangAbortAll g else s.gangAbort g)) ∧
      (2 ≤ g.phase → ∀ slot l, g.slot = some slot → s.launch? slot = some l →
        (l.checkpointed = false → exec (.gangMemberLost n m) s = .next (s.kill slot 3)) ∧
        (l.checkpointed = true → ∃ t, exec (.gangMemberLost n m) s = .next t ∧ t.markPhase = 0 ∧
          { t with markPhase := s.rollback.markPhase, gangs := s.rollback.gangs } = s.rollback ∧
          ∀ j, t.gang? j = (s.gang? j).map fun h =>
            { h with marked := [], told := false, resumed := false, marking := false, asked := false }))) ∧
    (g.rank ≠ 0 → (∃ h ∈ s.ckptGangs, h.gang = n) →
      let u := s.setGang { g with asked := true }
      (s.markPhase = 0 → s.markDue = true → exec (.mark n) s = .next u.markStart.markStep) ∧
      (s.markPhase = 0 → s.markDue = false → exec (.mark n) s = .next u) ∧
      (s.markPhase ≠ 0 → exec (.mark n) s = .next u.markStep)) ∧
    (g.rank = 0 → g.marking = true → 1 ≤ m → m < g.nmem →
      let u := s.setGang { g with marked := if m ∈ g.marked then g.marked else g.marked ++ [m] }
      exec (.marked n m) s = .next (if s.markPhase = 2 then u.markStep else u)) ∧
    (g.rank ≠ 0 → s.markPhase ≠ 2 ∨ g.told = false → exec (.gangResume n) s = .next s) ∧
    (g.rank ≠ 0 → s.markPhase = 2 → g.told = true → exec (.gangResume n) s = .next (s.setGang { g with resumed := true }).markStep) ∧
    (g.rank = 0 → g.phase = 2 → 1 ≤ m → m < g.nmem →
      let h := { g with completed := if m ∈ g.completed then g.completed else g.completed ++ [m] }
      ((∃ r, r < g.nmem ∧ r ∉ h.completed) → exec (.gangCompletion n m) s = .next (s.setGang h)) ∧
      ((∀ r, r < g.nmem → r ∈ h.completed) → ∃ t, exec (.gangCompletion n m) s = .next t ∧ t.gang? n = none ∧
        { t with gangs := s.gangs } = s.sendCompletion none g.ctx g.gdone g.lid 2))) ∧
  CompletionWords ∧ GangEffect ∧ MarkEffect

/-- At the edge every tile told to quench by then whose semaphore unit has nothing to serve freezes: the cycle is counted,
every result issued and not written, register writes and row accesses among them, is in the in-flight list with the cycles
left to it, and nothing else of it differs; no other tile differs, busy clears with the last, and a compute die that a marker
has reached takes its cut; an edge with a result due waits for it. A temper whose cycle has come restarts the quenched tiles
of its mask, each with everything but its rows as its dump then gives it, as ReloadedFrom says. A result of a tempered tile is
written in its cycle, a register result as ever and an entry by its kind, and not before. The first marker makes a die take
its cut with the number and choice of the sender's, a compute die at the edge; a later one on another link ends that link's
recording, and one behind operations sent before it over its link of the ring waits; a module that takes no part ignores
markers. The model's own: the cycles left to a result of no stated latency and what is an entry of unfinished words (log 34),
a compute die's cut at the edge that ends the cycle (log 45), and that BLAZE_EN 1 alone takes part (log 43). (From R389, R390,
R391, R392, R393, R394.) -/
def Obligations.DebugEvents : Prop :=
  (∀ (s : State),
    let due (k : Nat) : Prop := ∃ c : W64, (k, c) ∈ s.quenchAt ∧ c.toNat ≤ s.scyc.toNat
    (((∀ k, ¬ due k) ∧ s.cutsDue = []) ∨ (∃ k, due k ∧ s.resultDue k = true) ∨ (∃ c ∈ s.cutsDue, s.dieDue c.1 = true) →
      exec .quenchEdge s = .next s) ∧
    (∀ d num out ls, (∀ k, ¬ due k) → s.cutsDue = [(d, num, out, ls)] → d < 16 → s.dieDue d = false →
      ∃ t c, exec .quenchEdge s = .next t ∧ t.cutsDue = [] ∧ t.cuts = s.cuts ++ [c] ∧ c.die = d ∧ c.num = num ∧ c.out = out ∧
        c.scyc = s.scyc ∧ c.seen = ls ∧ (∀ k, s.cdOf k ≠ d → t.tile k = s.tile k) ∧
        (∀ k, k < 896 → s.cdOf k = d → (t.tile k).quenched = true ∧ (k, t.tile k) ∈ c.tiles ∧
          (out = true → ∃ segs, (k, segs) ∈ t.streamed))) ∧
    (s.cutsDue = [] → (∃ k, due k) → (∀ k, due k → s.resultDue k = false) →
      (∀ k, due k → (s.tile k).quenched = false → (s.tile k).toServe = []) → ∃ t, exec .quenchEdge s = .next t ∧
      (∀ k, (¬ due k ∨ (s.tile k).quenched = true) → t.tile k = s.tile k) ∧
      (∀ k, due k → (s.tile k).quenched = false →
        let x := s.tile k
        let y := t.tile k
        y.quenched = true ∧ y.late = [] ∧ y.rowsOut = [] ∧
        (∀ (n : Nat) (i : InFlight), x.inflight[n]? = some i → ∃ j : InFlight, y.inflight[n]? = some j ∧ { j with rem := i.rem } = i ∧
          (i.rem ≠ 0 → j.rem = i.rem - 1 - s.scyc.toNat) ∧
          (i.rem = 0 → i.due ≠ 0 → j.rem = min 65535 (max 1 (i.due - s.scyc.toNat))) ∧
          (i.rem = 0 → 1 ≤ j.rem ∧ j.rem ≤ 65535)) ∧
        (∀ w ∈ x.late, ∀ n b v, RegOut.vrow n b v ∈ w.outs → ∃ j ∈ y.inflight, j.kind = .longLat ∧ j.tgt = n ∧ j.eng = w.eng ∧
          j.addr = w.addr ∧ j.seq = w.seq) ∧
        (∀ r ∈ x.rowsOut, ∃ j ∈ y.inflight, j.kind = .entry 5 ∧ j.tgt = r.at_ / 256 ∧ j.eng = r.eng ∧ j.addr = r.addr) ∧
        (x.late = [] → x.rowsOut = [] → y.inflight.length = x.inflight.length ∧ ∃ b, y.pcs = (x.tickCounts b).pcs) ∧
        y.pcsPrev = y.pcs ∧ y.wlFrozen = (x.wlCount, x.wlDone, x.wlGone) ∧
        (let blank (z : Tile) : Tile := { z with
           quenched := false, inflight := [], late := [], rowsOut := [], rowsIn := [], bpHold := false, pcs := [], pcsPrev := [], fpNow := 0
           wlFrozen := (0, false, false), genFrozen := 0, loadFix := none }
         blank y = blank x)) ∧
      t.quenchAt = s.quenchAt.filter (fun p => !decide (p.2.toNat ≤ s.scyc.toNat)) ∧
      t.ctl.quenchBusy = (s.ctl.quenchBusy && !t.quenchAt.isEmpty))) ∧
  (∀ (s : State),
    ((s.ctl.temperAt = none ∨ ∃ T, s.ctl.temperAt = some T ∧ s.scyc.toNat < T.toNat) → exec .temperRestart s = .next s) ∧
    (∀ T, s.ctl.temperAt = some T → T.toNat ≤ s.scyc.toNat → ∃ t, exec .temperRestart s = .next t ∧ t.ctl.temperAt = none ∧
      (∀ k, (k ∉ s.maskTiles ∨ (s.tile k).quenched = false ∨ k ∈ s.blazeThaw) → t.tile k = s.tile k) ∧
      (∀ k, k ∈ s.maskTiles → k ∉ s.blazeThaw → (t.tile k).quenched = false) ∧
      (∀ k, k ∈ s.maskTiles → k ∉ s.blazeThaw → (s.tile k).quenched = true →
        ReloadedFrom (recAt s (s.ctl.quenchDump.toNat + 20 * 2 ^ 20 * k)) s.scyc.toNat (s.tile k) (t.tile k)) ∧
      { t with tiles := s.tiles, ctl := { t.ctl with temperAt := s.ctl.temperAt } } = s)) ∧
  (∀ (s : State) (k n : Nat) (i : InFlight), (s.tile k).inflight[n]? = some i →
    let x := s.tile k
    let rest := x.inflight.eraseIdx n
    (x.quenched = true ∨ i.rem = 0 ∨ s.scyc.toNat + 1 < i.rem → exec (.inflightWrite k n) s = .next s) ∧
    (x.quenched = false → i.rem ≠ 0 → i.rem ≤ s.scyc.toNat + 1 →
      ∃ t, exec (.inflightWrite k n) s = .next t ∧ OnlyTile k s t ∧ (t.tile k).inflight = rest ∧
        (t.tile k).secs = { x with inflight := rest }.sweep.secs ∧
        (let y := t.tile k
         let same (a b : Tile) : Prop := { a with inflight := [], secs := [] } = { b with inflight := [], secs := [] }
         (i.kind = .longLat ∨ i.kind = .mdrain → (∀ j, j < 16 → elemNat 2048 (y.readV i.tgt).toNat j =
             elemNat 2048 (if i.rows.getLsbD j then i.payload else x.readV i.tgt).toNat j) ∧ (i.tgt < 192 → y.emptyV i.tgt = false) ∧
           y.fp = x.fp ||| i.flags ∧ (∀ m, m ≠ i.tgt → y.readV m = x.readV m) ∧
           same { y with v := [], vEmpty := 0, fp := 0, fpNow := 0 } { x with v := [], vEmpty := 0, fp := 0, fpNow := 0 }) ∧
         (i.kind = .vtog → (i.tgt ≠ 0 → y.readG i.tgt = BitVec.ofNat 64 i.payload.toNat) ∧
           y.pcs = (x.count (retireEvent .A) 1).pcs ∧
           same { y with g := [], gEmpty := 0, pcs := [] } { x with g := [], gEmpty := 0, pcs := [] }) ∧
         (i.kind = .entry 4 → (∀ m, 1 ≤ m → m < 8 → y.readP m =
             if m = i.tgt / 8 % 8 then BitVec.ofNat 1024 (ofBytes ((i.bytes.drop 128).take 128))
             else if m = i.tgt % 8 then BitVec.ofNat 1024 (ofBytes (i.bytes.take 128)) else x.readP m) ∧
           same { y with p := [] } { x with p := [] }) ∧
         (i.kind = .entry 5 → i.bytes.length = 288 → SpOutside x y (256 * i.tgt) 256 ∧
           (∀ b, b < 256 → Memory.read y.sp (256 * i.tgt + b) =
             if (i.bytes.getD (256 + b / 8) 0).getLsbD (b % 8) then i.bytes.getD b 0 else Memory.read x.sp (256 * i.tgt + b)) ∧
           same (renewed { y with sp := [] }) (renewed { x with sp := [] })) ∧
         (i.kind = .entry 3 → y.readM i.tgt = BitVec.ofNat 131072 (ofBytes (i.bytes.take 16384)) ∧ same { y with m := [] } { x with m := [] }) ∧
         (i.kind = .entry 6 → y.fp = x.fp ||| BitVec.ofNat 6 (ofBytes i.bytes) ∧
           same { y with fp := 0, fpNow := 0 } { x with fp := 0, fpNow := 0 })))) ∧
  (∀ (s : State) (d link : Nat),
    (s.ctl.blazeEn ≠ 1 → exec (.blazeMarker d link) s = .next s) ∧
    (s.opsAhead d link = true → d ≤ 24 → (∃ e, linkEnd d link = some (some e)) → exec (.blazeMarker d link) s = .next s) ∧
    (∀ from_ b, s.ctl.blazeEn = 1 → s.opsAhead d link = false → linkEnd d link = some (some from_) →
      (s.cut? from_ = none → exec (.blazeMarker d link) s = .next s) ∧
      (s.cut? from_ = some b → s.cut? d = none → 16 ≤ d → ∃ t c, exec (.blazeMarker d link) s = .next t ∧
        t.cuts = s.cuts ++ [c] ∧ c.die = d ∧ c.num = b.num ∧ c.out = b.out ∧ c.scyc = s.scyc ∧ c.seen = [link] ∧
        (d < 24 → c.wq = (s.die (d - 16)).wq) ∧ (d = 24 → c.launches = s.launches) ∧ t.tiles = s.tiles) ∧
      (s.cut? from_ = some b → s.cut? d = none → d < 16 → exec (.blazeMarker d link) s = .next (
        if ∃ c ∈ s.cutsDue, c.1 = d then s else { s with cutsDue := s.cutsDue ++ [(d, b.num, b.out, [link])] })) ∧
      (s.cut? from_ = some b → ∀ c, s.cut? d = some c → link ∉ c.seen → ∃ t, exec (.blazeMarker d link) s = .next t ∧
        (∀ e, (t.cut? e).map (fun c => c.seen) = (s.cut? e).map fun c => if e = d then c.seen ++ [link] else c.seen) ∧
        { t with cuts := s.cuts, fresh := s.fresh } = s)))

/-- A reset (power-on, PERST# or a Function Level Reset on the owner's port) empties every memory, table and queue, sets SCYC
0 and OWNER 0xFF, starts the wipe, and keeps the fuses, the flash and what lies outside; an image of the kind that the
life-cycle state accepts and not below the fused version runs and may raise that version, any other leaves recovery. Power off
keeps fuses and flash alone, and a trip first writes its record. WIPE_END leaves memory zero. The clock moves at most 25 MHz a
step towards its target, not while a die holds it at 500. Links come up and go down one at a time; the report is written and
done set; a tick with nothing due lets the semaphore units serve, adds 1 to SCYC and counts its events on the tiles that run a
point, and one with something due does nothing. A wipe empties memories, tables and queues. (From R17, R238, R335, R336, R406,
R407, R409, R410, R411, R412, R413. The model's own choices: what a firmware check, a key and a power estimate give is free,
log 12; 500 MHz where no clock meets the limit, log 13; what else a reset keeps, and that a wipe keeps the control registers
and the undo logs' counters, log 32; what else the end of a wipe empties, log 50.) -/
def Obligations.LifeCycle : Prop :=
  (∀ (s : State), let t := s.moduleReset
    t.on = true ∧ t.wiping = true ∧ t.scyc = 0 ∧ t.tiles = [] ∧ t.dies = [] ∧ t.mem = [] ∧ t.launches = [] ∧ t.subQ = [] ∧ t.readyQ = [] ∧
    t.parkedQ = [] ∧ t.graphQ = [] ∧ t.gangs = [] ∧ t.posted = [] ∧ t.heldQ = [] ∧ t.ctl.owner = 255 ∧
    t.ctl.lcState = s.ctl.lcState ∧ t.flashTrip = s.flashTrip ∧ t.hostMem = s.hostMem ∧ t.farMem = s.farMem ∧ t.cpl = s.cpl ∧ t.msix = s.msix ∧
    t.ctl.idKey = s.ctl.idKey ∧
    (let v := Config.firmwareVersion s.fresh
     let ok := Config.firmwareOk s.fresh = true ∧ s.ctl.fwFused.toNat ≤ v.toNat ∧
       Config.firmwareKind s.fresh = (if s.ctl.lcState = 0 then 0 else if s.ctl.lcState = 3 then 2 else 1)
     (ok → t.ctl.recovery = false ∧ t.ctl.fwVersion = v ∧
       t.ctl.fwFused.toNat = max s.ctl.fwFused.toNat (Config.firmwareRaise s.fresh).toNat) ∧
     (¬ ok → t.ctl.recovery = true ∧ t.ctl.fwFused = s.ctl.fwFused))) ∧
  (∀ (s : State), let t := s.wipe
    t.wiping = true ∧ t.mem = [] ∧ t.tiles = [] ∧ t.images = [] ∧ t.launches = [] ∧ t.subQ = [] ∧ t.readyQ = [] ∧ t.parkedQ = [] ∧
    t.graphQ = [] ∧ t.gangs = [] ∧ t.ctl = { s.ctl with shootBusy := false } ∧ t.hostMem = s.hostMem ∧
    ∀ d, let x := s.die d
      let y := t.die d
      y.tlb = [] ∧ y.descs = [] ∧ y.acnt = [] ∧ y.wq = [] ∧ y.wqIn = [] ∧ y.faultWait = [] ∧ y.shootPend = false ∧ y.thresh = x.thresh ∧
      y.undoBase = x.undoBase ∧ y.undoUsed = x.undoUsed ∧ y.undoIval = x.undoIval ∧ y.undoEarly = x.undoEarly) ∧
  (∀ (s : State),
    (s.on = true → exec .powerOn s = .next s) ∧ (s.on = false → exec .powerOn s = .next { s with on := true }.moduleReset) ∧
    (∀ port, exec (.perst port) s = .next (if port ≤ 1 ∧ s.ctl.owner.toNat = port then s.moduleReset else s) ∧
      exec (.functionLevelReset port) s = .next (if port ≤ 1 ∧ s.ctl.owner.toNat = port then s.moduleReset else s)) ∧
    (s.wiping = false → exec .wipeEnd s = .next s) ∧
    (s.wiping = true → ∃ t, exec .wipeEnd s = .next t ∧ t.wiping = false ∧ t.mem = [] ∧ t.images = [] ∧ (∀ d, (t.die d).wq = []) ∧
      (∀ d, { t.die d with wq := [] } = { s.die d with wq := [] }) ∧
      { t with wiping := s.wiping, mem := s.mem, images := s.images, dies := s.dies } = s) ∧
    (∃ t, exec .powerOff s = .next t ∧ t.on = false ∧ t.ctl.lcState = s.ctl.lcState ∧ t.ctl.fwFused = s.ctl.fwFused ∧
      t.ctl.idKey = s.ctl.idKey ∧ t.flashTrip = s.flashTrip ∧ t.mem = [] ∧
      t.tiles = [] ∧ t.dies = [] ∧ t.launches = [] ∧ t.hostMem = s.hostMem ∧ t.cpl = s.cpl) ∧
    (∀ d, (24 < d → exec (.thermalTrip d) s = .next s ∧ exec (.thermalThrottle d) s = .next s) ∧
      (d ≤ 24 → (∃ t, exec (.thermalTrip d) s = .next t ∧ t.on = false ∧ t.flashTrip = some (s.scyc, d) ∧ t.mem = [] ∧ t.tiles = [] ∧
          t.ctl.lcState = s.ctl.lcState) ∧
        (∃ t, exec (.thermalThrottle d) s = .next t ∧ t.ctl.hot = true ∧ t.ctl.clkMHz = 500 ∧ d ∈ t.hotDies ∧
          { t with hotDies := s.hotDies, ctl := { t.ctl with hot := s.ctl.hot, clkMHz := s.ctl.clkMHz } } = s))) ∧
    exec .thermalRelease s = .next { s with hotDies := [], ctl := { s.ctl with hot := false } } ∧
    (s.ctl.hot = true → exec .clockStep s = .next s) ∧
    (s.ctl.hot = false → s.ctl.clkMHz.toNat ≤ 1250 → ∃ t, exec .clockStep s = .next t ∧
      (let f := s.ctl.clkMHz.toNat
       (f < s.clockTarget → t.ctl.clkMHz.toNat = f + 25) ∧ (s.clockTarget < f → t.ctl.clkMHz.toNat = f - 25) ∧
       (f = s.clockTarget → t.ctl.clkMHz.toNat = f)) ∧
      { t with fresh := s.fresh, ctl := { t.ctl with clkMHz := s.ctl.clkMHz } } = s) ∧
    (∃ k, k ≤ 30 ∧ s.clockTarget = 1250 - 25 * k ∧ (k < 30 → Config.predictedPower s.clockTarget s.fresh ≤ s.ctl.pwrCap.toNat) ∧
      ∀ j, j < k → s.ctl.pwrCap.toNat < Config.predictedPower (1250 - 25 * j) s.fresh) ∧
    (∀ n peer, n ≤ 17 → ∃ t u, exec (.linkUp n peer) s = .next t ∧ exec (.linkDown n) s = .next u ∧ OnlyLinks s t ∧ OnlyLinks s u ∧
      (∀ j, (Assoc.get 0 j t.ctl.links).toNat = if j = n then 2 ^ 16 + peer % 2 ^ 16 else (Assoc.get 0 j s.ctl.links).toNat) ∧
      (∀ j, (Assoc.get 0 j u.ctl.links).toNat =
        if j = n then (Assoc.get 0 j s.ctl.links).toNat % 2 ^ 16 else (Assoc.get 0 j s.ctl.links).toNat)) ∧
    (s.ctl.attestPA = none → exec .attestationReport s = .next s) ∧
    (∀ pa, s.ctl.attestPA = some pa → pa.toNat + 512 ≤ 768 * 2 ^ 30 → ∃ t, exec .attestationReport s = .next t ∧
      t.ctl = { s.ctl with attestPA := none, attestDone := true } ∧
      (∀ a, (a < pa.toNat + 32 ∨ pa.toNat + 512 ≤ a) → t.readPA1 a = s.readPA1 a) ∧
      t.readPA (pa.toNat + 32) 4 = [0x48, 0x58, 0x41, 0x54] ∧
      (t.readPA1 (pa.toNat + 36)).toNat = (s.ctl.lcState.toNat + if s.flashTrip = none then 0 else 256) % 256 ∧
      t.readPA (pa.toNat + 40) 8 = toBytes 8 s.ctl.fwVersion.toNat ∧ t.tiles = s.tiles)) ∧
  (∀ (s : State), TablesOk s →
    (s.dueNow = true → exec .scheduleCycleTick s = .next s) ∧
    (∀ j, s.dueNow = false → s.graphQ = [] → s.subQ = [] → s.blazeThaw = [] → (∀ k, k ≠ j → (s.tile k).toServe = []) →
      (s.tile j).quenched = false → s.doneWait = [] → s.resumeWait = [] → (∀ p ∈ s.launches, p.2.dying = none ∧ p.2.ending = false) →
      let u := s.serveTile j
      ∃ t, exec .scheduleCycleTick s = .next t ∧
      t.scyc = s.scyc + 1 ∧
      (∀ k, { t.tile k with pcs := [], pcsPrev := [], fpNow := 0 } = { u.tile k with pcs := [], pcsPrev := [], fpNow := 0 }) ∧
      (∀ k, (s.tile k).quenched = false → (t.tile k).pcsPrev = (t.tile k).pcs ∧ (t.tile k).fpNow = 0) ∧
      (∀ k, (s.tile k).quenched = true → t.tile k = s.tile k) ∧
      (∀ k, (s.tile k).point = none → (t.tile k).pcs = (s.tile k).pcs) ∧
      (∀ k n, (s.tile k).point ≠ none → (s.tile k).quenched = false → n < 8 → (s.tile k).perfSel.toNat / 2 ^ (8 * n) % 256 = 1 →
        Assoc.get 0 n (t.tile k).pcs = Assoc.get 0 n (s.tile k).pcs + 1) ∧
      (t.launches.map fun p => (p.1, { p.2 with idle := 0 })) = (s.launches.map fun p => (p.1, { p.2 with idle := 0 })) ∧
      { t with scyc := s.scyc, tiles := s.tiles, launches := s.launches, fresh := s.fresh } =
        { u with scyc := s.scyc, tiles := s.tiles, launches := s.launches, fresh := s.fresh }))

/-- The writes that an A, L or M word has left to follow are made one at a time in any order, those of an engine's earlier
words first: each changes its row of a vector register or of a lane predicate, or its accumulator, and nothing else; with the
last its flags are set and the word retires; while a write of an earlier word of that engine is still in flight after a temper
none is made. The row accesses that stores have left to follow perform in any order but that of one class: each stores its
enabled bytes (of a masked store, its enabled bits) at its address and changes no other byte. What tiles keep of those bytes
is noted. (The order is the agenda's, log 4.) (From R98, R131, R203, R206, R293.) -/
def Obligations.LateWritesFollow : Prop :=
  (∀ (s : State) (k n : Nat) (e : Engine) (w : LateWord) (o : RegOut), (s.tile k).quenched = false →
    (s.tile k).late.find? (fun w => w.eng == e) = some w → w.outs[n]? = some o →
    let x := s.tile k
    (x.inflight.any (x.owes e) = true → s.actOn (.land k e n) = .next s) ∧
    (x.inflight.any (x.owes e) = false →
    ∃ t, s.actOn (.land k e n) = .next t ∧ s.act (.land k e n) = .next (s.noteCopies (.land k e n) t).forget ∧ OnlyTile k s t ∧
      (let y := t.tile k
       (∀ r j v, o = .vrow r j v → r < 192 → j < 16 →
         (∀ i, i < 16 → (y.readV r).extractLsb' (2048 * i) 2048 = if i = j then v else (x.readV r).extractLsb' (2048 * i) 2048) ∧
         (∀ m, m ≠ r → y.readV m = x.readV m) ∧ y.p = x.p ∧ y.m = x.m) ∧
       (∀ r j v, o = .prow r j v → 1 ≤ r → r < 8 → j < 16 →
         (∀ i, i < 16 → (y.readP r).extractLsb' (64 * i) 64 = if i = j then v else (x.readP r).extractLsb' (64 * i) 64) ∧
         (∀ m, m ≠ r → y.readP m = x.readP m) ∧ y.v = x.v ∧ y.m = x.m) ∧
       (∀ r v, o = .acc r v → r < 4 → y.readM r = v ∧ (∀ m, m ≠ r → y.readM m = x.readM m) ∧ y.v = x.v ∧ y.p = x.p) ∧
       (1 < w.outs.length → y.late.find? (fun w => w.eng == e) = some { w with outs := w.outs.eraseIdx n } ∧
         y.late.length = x.late.length ∧ y.secs = x.secs ∧ y.fp = x.fp ∧ y.pcs = x.pcs) ∧
       (w.outs.length = 1 → y.late.length + 1 = x.late.length ∧ y.fp = x.fp ||| w.flags ∧
         y.pcs = (if w.void then (x.count (retireEvent e) 1).count 0x11 1 else x.count (retireEvent e) 1).pcs ∧
         y.secs = { x with late := y.late }.sweep.secs) ∧
       (let blank (z : Tile) : Tile := { z with v := [], p := [], m := [], late := [], fp := 0, fpNow := 0, secs := [], pcs := [] }
        blank y = blank x)))) ∧
  (∀ (s : State) (k n : Nat) (r : RowOut), (s.tile k).quenched = false → (s.tile k).rowsOut[n]? = some r →
    let x := s.tile k
    ((∃ q ∈ x.rowsOut.take n, q.cls = r.cls) → s.actOn (.perform k n) = .next s) ∧
    ((∀ q ∈ x.rowsOut.take n, q.cls ≠ r.cls) → ∃ t, s.actOn (.perform k n) = .next t ∧
      s.act (.perform k n) = .next (s.noteCopies (.perform k n) t).forget ∧ OnlyTile k s t ∧
      (let y := t.tile k
       y.rowsOut = x.rowsOut.eraseIdx n ∧ SpOutside x y r.at_ (if r.mask = none then r.bytes.length else 128) ∧
       (r.mask = none → ∀ i b, r.bytes[i]? = some b →
         Memory.read y.sp (r.at_ + i) = if b.2 then b.1 else Memory.read x.sp (r.at_ + i)) ∧
       (∀ m, r.mask = some m → r.bytes.length = 128 → ∀ i b, r.bytes[i]? = some b → ∀ j, j < 8 →
         (Memory.read y.sp (r.at_ + i)).getLsbD j =
           if m.getLsbD (8 * i + j) then b.1.getLsbD j else (Memory.read x.sp (r.at_ + i)).getLsbD j) ∧
       renewed { y with sp := [], rowsOut := [] } = renewed { x with sp := [], rowsOut := [] })))

/-- After reset, its wipe ended, the module has power; SCYC is 0, OWNER 0xFF, THRESH 256 on every die, PWR_CAP 5,000 and
CLK_STAT 1,250 (these two and every register of a tile at 0 with no point on it are the values log 3 and log 20 name where the
spec states none), no launch and nothing in any queue; every byte of module memory and of a scratchpad reads 0; and its
memories and tables are in canonical form. (From R17, R19, R86, R233, R238, R405, R407.) -/
def Obligations.ResetValues : Prop :=
  let s := State.reset
  s.on = true ∧ s.scyc = 0 ∧ s.ctl.owner = 255 ∧ (∀ d, (s.die d).thresh = 256) ∧ s.ctl.pwrCap = 5000 ∧ s.ctl.clkMHz = 1250 ∧
  s.launches = [] ∧ s.subQ = [] ∧ s.readyQ = [] ∧ s.parkedQ = [] ∧ s.graphQ = [] ∧ s.heldQ = [] ∧ s.posted = [] ∧
  (∀ a, s.readPA1 a = 0) ∧
  (∀ k, let x := s.tile k
    x.point = none ∧ (∀ n, x.readG n = 0 ∧ x.readV n = 0 ∧ x.readM n = 0 ∧ x.emptyG n = false ∧ x.emptyV n = false ∧
      x.sem n = 0 ∧ Memory.read x.sp n = 0) ∧ (∀ n, x.readC n = (n == 0)) ∧ x.fp = 0 ∧ x.rb = 0 ∧ x.ks = [] ∧ x.pc = 0) ∧
  MemoriesOk s ∧ TablesOk s

/-- For every state whose module and host memory list their bytes by strictly rising address with no byte equal to what an
unlisted address reads as, whose record of far memory lists rising addresses, and whose tables of tiles and of dies list
strictly rising numbers with no idle entry: every step that gives a next state gives one of which the same holds, so that
equal memories and equal tables are equal data. (The form is this model's, log 1.) (From R203, R219, R237.) -/
def Obligations.FormsKept : Prop :=
  ∀ (s t : State), MemoriesOk s → TablesOk s → step s = .next t → MemoriesOk t ∧ TablesOk t
end

