-- ==== Sys2Proof/Laws/Assoc.lean ====
section
/-! SUPPORT. Tables and memories: a read after a write, and the canonical form that every memory operation keeps. -/

namespace Sys2Proof.Machine

variable {α : Type}

theorem Assoc.get_erase (d : α) (k j : Nat) (l : List (Nat × α)) :
    Assoc.get d j (Assoc.erase k l) = if j = k then d else Assoc.get d j l := by
  induction l with
  | nil => simp [Assoc.erase, Assoc.get]
  | cons h t ih =>
    obtain ⟨i, x⟩ := h
    by_cases hik : i = k
    · subst hik
      by_cases hj : j = i
      · subst hj; simpa [Assoc.erase, Assoc.get] using ih
      · simpa [Assoc.erase, Assoc.get, hj, Ne.symm hj] using ih
    · by_cases hj : j = i
      · subst hj; simp [Assoc.erase, Assoc.get, hik]
      · simpa [Assoc.erase, Assoc.get, hik, Ne.symm hj] using ih

theorem Assoc.get_insert_self (d : α) (k : Nat) (x : α) (l : List (Nat × α)) (h : ∀ y, (k, y) ∉ l) :
    Assoc.get d k (Assoc.insert k x l) = x := by
  induction l with
  | nil => simp [Assoc.insert, Assoc.get]
  | cons c t ih =>
    obtain ⟨i, y⟩ := c
    have hi : i ≠ k := fun e => h y (e ▸ List.mem_cons_self ..)
    have ht : ∀ z, (k, z) ∉ t := fun z hz => h z (List.mem_cons_of_mem _ hz)
    by_cases hk : k < i
    · simp [Assoc.insert, Assoc.get, hk]
    · simpa [Assoc.insert, Assoc.get, hk, hi] using ih ht

theorem Assoc.get_insert_ne (d : α) (k j : Nat) (x : α) (l : List (Nat × α)) (h : j ≠ k) :
    Assoc.get d j (Assoc.insert k x l) = Assoc.get d j l := by
  induction l with
  | nil => simp [Assoc.insert, Assoc.get, Ne.symm h]
  | cons c t ih =>
    obtain ⟨i, y⟩ := c
    by_cases hk : k < i
    · simp [Assoc.insert, Assoc.get, hk, Ne.symm h]
    · simp only [Assoc.insert, hk, if_false, Assoc.get, ih]

theorem Assoc.notMem_erase (k : Nat) (y : α) (l : List (Nat × α)) : (k, y) ∉ Assoc.erase k l := by
  induction l with
  | nil => simp [Assoc.erase]
  | cons c t ih =>
    obtain ⟨i, z⟩ := c
    by_cases hi : i = k
    · simpa [Assoc.erase, hi] using ih
    · simp [Assoc.erase, hi, Ne.symm hi, ih]

/-- What a table reads as after one of its entries has been set. -/
theorem Assoc.get_set [DecidableEq α] (d : α) (k j : Nat) (x : α) (l : List (Nat × α)) :
    Assoc.get d j (Assoc.set d k x l) = if j = k then x else Assoc.get d j l := by
  unfold Assoc.set
  split
  · rename_i hx
    rw [Assoc.get_erase]
    split <;> simp_all
  · by_cases hj : j = k
    · subst hj
      simp [Assoc.get_insert_self d j x _ fun y => Assoc.notMem_erase j y l]
    · rw [Assoc.get_insert_ne d k j x _ hj, Assoc.get_erase, if_neg hj, if_neg hj]

/-! ### The canonical form -/

/-- Every key is above a bound. -/
def Assoc.above (n : Nat) (l : List (Nat × α)) : Prop := ∀ p ∈ l, n < p.1

theorem Assoc.wf_cons [DecidableEq α] (d : α) (j : Nat) (x : α) (l : List (Nat × α)) :
    Assoc.wf d ((j, x) :: l) = true ↔ x ≠ d ∧ Assoc.above j l ∧ Assoc.wf d l = true := by
  induction l generalizing j x with
  | nil => simp [Assoc.wf, Assoc.above]
  | cons c t ih =>
    obtain ⟨k, y⟩ := c
    have h := ih k y
    simp only [Assoc.wf, Bool.and_eq_true, decide_eq_true_eq] at h ⊢
    constructor
    · rintro ⟨⟨hx, hjk⟩, hw⟩
      refine ⟨hx, ?_, hw⟩
      intro p hp
      rcases List.mem_cons.mp hp with rfl | hp
      · exact hjk
      · exact lt_trans hjk ((h.mp hw).2.1 p hp)
    · rintro ⟨hx, ha, hw⟩
      exact ⟨⟨hx, ha (k, y) (List.mem_cons_self ..)⟩, hw⟩

theorem Assoc.above_erase {n k : Nat} {l : List (Nat × α)} (h : Assoc.above n l) : Assoc.above n (Assoc.erase k l) := by
  induction l with
  | nil => simpa [Assoc.erase] using h
  | cons c t ih =>
    obtain ⟨i, y⟩ := c
    have ht : Assoc.above n t := fun p hp => h p (List.mem_cons_of_mem _ hp)
    by_cases hi : i = k
    · simpa [Assoc.erase, hi] using ih ht
    · simp only [Assoc.erase, hi, if_false]
      intro p hp
      rcases List.mem_cons.mp hp with rfl | hp
      · exact h _ (List.mem_cons_self ..)
      · exact ih ht p hp

theorem Assoc.above_insert {n k : Nat} {x : α} {l : List (Nat × α)} (hk : n < k) (h : Assoc.above n l) :
    Assoc.above n (Assoc.insert k x l) := by
  induction l with
  | nil => simpa [Assoc.insert, Assoc.above] using hk
  | cons c t ih =>
    obtain ⟨i, y⟩ := c
    have ht : Assoc.above n t := fun p hp => h p (List.mem_cons_of_mem _ hp)
    by_cases hi : k < i
    · simp only [Assoc.insert, hi, if_true]
      intro p hp
      rcases List.mem_cons.mp hp with rfl | hp
      · exact hk
      · exact h p hp
    · simp only [Assoc.insert, hi, if_false]
      intro p hp
      rcases List.mem_cons.mp hp with rfl | hp
      · exact h _ (List.mem_cons_self ..)
      · exact ih ht p hp

theorem Assoc.wf_erase [DecidableEq α] {d : α} {k : Nat} {l : List (Nat × α)} (h : Assoc.wf d l = true) :
    Assoc.wf d (Assoc.erase k l) = true := by
  induction l with
  | nil => simp [Assoc.erase, Assoc.wf]
  | cons c t ih =>
    obtain ⟨i, y⟩ := c
    obtain ⟨hy, ha, hw⟩ := (Assoc.wf_cons d i y t).mp h
    by_cases hi : i = k
    · simpa [Assoc.erase, hi] using ih hw
    · simp only [Assoc.erase, hi, if_false]
      exact (Assoc.wf_cons ..).mpr ⟨hy, Assoc.above_erase ha, ih hw⟩

theorem Assoc.wf_insert [DecidableEq α] {d : α} {k : Nat} {x : α} {l : List (Nat × α)} (hx : x ≠ d)
    (hn : ∀ y, (k, y) ∉ l) (h : Assoc.wf d l = true) : Assoc.wf d (Assoc.insert k x l) = true := by
  induction l with
  | nil => simp [Assoc.insert, Assoc.wf, hx]
  | cons c t ih =>
    obtain ⟨i, y⟩ := c
    obtain ⟨hy, ha, hw⟩ := (Assoc.wf_cons d i y t).mp h
    by_cases hi : k < i
    · simp only [Assoc.insert, hi, if_true]
      refine (Assoc.wf_cons ..).mpr ⟨hx, ?_, h⟩
      intro p hp
      rcases List.mem_cons.mp hp with rfl | hp
      · exact hi
      · exact lt_trans hi (ha p hp)
    · have hik : i < k := by
        rcases Nat.lt_or_ge i k with g | g
        · exact g
        · exact absurd (by rw [show k = i by omega]; exact List.mem_cons_self ..) (hn y)
      simp only [Assoc.insert, hi, if_false]
      exact (Assoc.wf_cons ..).mpr ⟨hy, Assoc.above_insert hik ha, ih (fun z hz => hn z (List.mem_cons_of_mem _ hz)) hw⟩

/-- Setting an entry keeps the canonical form. -/
theorem Assoc.wf_set [DecidableEq α] {d : α} {l : List (Nat × α)} (k : Nat) (x : α) (h : Assoc.wf d l = true) :
    Assoc.wf d (Assoc.set d k x l) = true := by
  unfold Assoc.set
  split
  · exact Assoc.wf_erase h
  · exact Assoc.wf_insert ‹_› (fun y => Assoc.notMem_erase k y l) (Assoc.wf_erase h)

/-! ### Memories -/

/-- A byte read after a byte is written. -/
theorem Memory.read_write (m : List Host.Cell) (a b : Nat) (v : Byte) :
    Memory.read (Memory.write m a v) b = if b = a then v else Memory.read m b := Assoc.get_set ..

/-- A byte read after a run of bytes is written. -/
theorem Memory.read_writeN (m : List Host.Cell) (a b : Nat) (bs : List Byte) :
    Memory.read (Memory.writeN m a bs) b =
      if a ≤ b ∧ b < a + bs.length then bs.getD (b - a) 0 else Memory.read m b := by
  induction bs generalizing a with
  | nil => simp [Memory.writeN]
  | cons v vs ih =>
    rw [Memory.writeN, Memory.read_write, ih]
    by_cases hb : b = a
    · subst hb; simp
    · by_cases h : a + 1 ≤ b ∧ b < a + 1 + vs.length
      · have h' : a ≤ b ∧ b < a + (vs.length + 1) := by omega
        have e : b - a = (b - (a + 1)) + 1 := by omega
        simp [hb, h, h', e]
      · have h' : ¬ (a ≤ b ∧ b < a + (vs.length + 1)) := by omega
        simp only [List.length_cons, h, h', hb, if_false]

/-- A byte read after a masked run of bytes is written. -/
theorem Memory.read_writeMasked (m : List Host.Cell) (a b : Nat) (bs : List (Byte × Bool)) :
    Memory.read (Memory.writeMasked m a bs) b =
      if a ≤ b ∧ b < a + bs.length ∧ (bs.getD (b - a) (0, false)).2 then (bs.getD (b - a) (0, false)).1
      else Memory.read m b := by
  induction bs generalizing a with
  | nil => simp [Memory.writeMasked]
  | cons v vs ih =>
    obtain ⟨v, e⟩ := v
    have key : Memory.read (if e then Memory.write (Memory.writeMasked m (a + 1) vs) a v
        else Memory.writeMasked m (a + 1) vs) b =
        if b = a ∧ e then v else Memory.read (Memory.writeMasked m (a + 1) vs) b := by
      cases e
      · simp
      · simp [Memory.read_write]
    rw [Memory.writeMasked]
    simp only [key, ih]
    by_cases hb : b = a
    · subst hb; cases e <;> simp
    · by_cases h : a + 1 ≤ b ∧ b < a + 1 + vs.length
      · have h' : a ≤ b ∧ b < a + (vs.length + 1) := by omega
        have e : b - a = (b - (a + 1)) + 1 := by omega
        simp [hb, h, h', e]
      · have h1 : ¬ (a + 1 ≤ b ∧ b < a + 1 + vs.length ∧ (vs.getD (b - (a + 1)) (0, false)).2 = true) := fun q => h ⟨q.1, q.2.1⟩
        have h2 : ¬ (a ≤ b ∧ b < a + (vs.length + 1) ∧ (((v, e) :: vs).getD (b - a) (0, false)).2 = true) := fun q => by omega
        simp only [List.length_cons, h1, h2, if_false, hb, false_and]

theorem Memory.wf_write {m : List Host.Cell} (a : Nat) (v : Byte) (h : Memory.wf m = true) :
    Memory.wf (Memory.write m a v) = true := Assoc.wf_set a v h

theorem Memory.wf_writeN {m : List Host.Cell} (a : Nat) (bs : List Byte) (h : Memory.wf m = true) :
    Memory.wf (Memory.writeN m a bs) = true := by
  induction bs generalizing a with
  | nil => exact h
  | cons v vs ih => exact Memory.wf_write a v (ih (a + 1))

theorem Memory.wf_writeMasked {m : List Host.Cell} (a : Nat) (bs : List (Byte × Bool)) (h : Memory.wf m = true) :
    Memory.wf (Memory.writeMasked m a bs) = true := by
  induction bs generalizing a with
  | nil => exact h
  | cons v vs ih =>
    obtain ⟨v, e⟩ := v
    cases e
    · exact ih (a + 1)
    · exact Memory.wf_write a v (ih (a + 1))

theorem Memory.wf_writeLE {m : List Host.Cell} (a n x : Nat) (h : Memory.wf m = true) :
    Memory.wf (Memory.writeLE m a n x) = true := Memory.wf_writeN a _ h

/-- A part of a canonical memory is canonical. -/
theorem Memory.wf_filter {m : List Host.Cell} (p : Host.Cell → Bool) (h : Memory.wf m = true) :
    Memory.wf (m.filter p) = true := by
  induction m with
  | nil => exact h
  | cons c t ih =>
    obtain ⟨a, v⟩ := c
    obtain ⟨hv, ha, hw⟩ := (Assoc.wf_cons _ a v t).mp h
    simp only [List.filter_cons]
    split
    · exact (Assoc.wf_cons ..).mpr ⟨hv, fun q hq => ha q (List.mem_filter.mp hq).1, ih hw⟩
    · exact ih hw

theorem Memory.wf_clear {m : List Host.Cell} (a n : Nat) (h : Memory.wf m = true) :
    Memory.wf (Memory.clear m a n) = true := Memory.wf_filter _ h

end Sys2Proof.Machine
end

