-- ==== Sys2Proof/Laws/State.lean ====
section
/-! SUPPORT. What each update of a state or of a tile leaves in each field: one equation for each field of each update, so that no
proof unfolds a record update. -/

namespace Sys2Proof.Machine

/-! ### A tile or a transfer die of the module replaced -/

@[simp] theorem State.setTile_on (s : State) (t : Nat) (x : Tile) : (s.setTile t x).on = s.on := rfl
@[simp] theorem State.setTile_wiping (s : State) (t : Nat) (x : Tile) : (s.setTile t x).wiping = s.wiping := rfl
@[simp] theorem State.setTile_scyc (s : State) (t : Nat) (x : Tile) : (s.setTile t x).scyc = s.scyc := rfl
@[simp] theorem State.setTile_dies (s : State) (t : Nat) (x : Tile) : (s.setTile t x).dies = s.dies := rfl
@[simp] theorem State.setTile_mem (s : State) (t : Nat) (x : Tile) : (s.setTile t x).mem = s.mem := rfl
@[simp] theorem State.setTile_hostMem (s : State) (t : Nat) (x : Tile) : (s.setTile t x).hostMem = s.hostMem := rfl
@[simp] theorem State.setTile_farMem (s : State) (t : Nat) (x : Tile) : (s.setTile t x).farMem = s.farMem := rfl
@[simp] theorem State.setTile_place (s : State) (t : Nat) (x : Tile) : (s.setTile t x).place = s.place := rfl
@[simp] theorem State.setTile_half (s : State) (t : Nat) (x : Tile) : (s.setTile t x).half = s.half := rfl
@[simp] theorem State.setTile_images (s : State) (t : Nat) (x : Tile) : (s.setTile t x).images = s.images := rfl
@[simp] theorem State.setTile_launches (s : State) (t : Nat) (x : Tile) : (s.setTile t x).launches = s.launches := rfl
@[simp] theorem State.setTile_launchSeq (s : State) (t : Nat) (x : Tile) : (s.setTile t x).launchSeq = s.launchSeq := rfl
@[simp] theorem State.setTile_lastServed (s : State) (t : Nat) (x : Tile) : (s.setTile t x).lastServed = s.lastServed := rfl
@[simp] theorem State.setTile_placed (s : State) (t : Nat) (x : Tile) : (s.setTile t x).placed = s.placed := rfl
@[simp] theorem State.setTile_subQ (s : State) (t : Nat) (x : Tile) : (s.setTile t x).subQ = s.subQ := rfl
@[simp] theorem State.setTile_readyQ (s : State) (t : Nat) (x : Tile) : (s.setTile t x).readyQ = s.readyQ := rfl
@[simp] theorem State.setTile_parkedQ (s : State) (t : Nat) (x : Tile) : (s.setTile t x).parkedQ = s.parkedQ := rfl
@[simp] theorem State.setTile_graphQ (s : State) (t : Nat) (x : Tile) : (s.setTile t x).graphQ = s.graphQ := rfl
@[simp] theorem State.setTile_ctl (s : State) (t : Nat) (x : Tile) : (s.setTile t x).ctl = s.ctl := rfl
@[simp] theorem State.setTile_fq (s : State) (t : Nat) (x : Tile) : (s.setTile t x).fq = s.fq := rfl
@[simp] theorem State.setTile_nq (s : State) (t : Nat) (x : Tile) : (s.setTile t x).nq = s.nq := rfl
@[simp] theorem State.setTile_tr (s : State) (t : Nat) (x : Tile) : (s.setTile t x).tr = s.tr := rfl
@[simp] theorem State.setTile_rl (s : State) (t : Nat) (x : Tile) : (s.setTile t x).rl = s.rl := rfl
@[simp] theorem State.setTile_rlFirst (s : State) (t : Nat) (x : Tile) : (s.setTile t x).rlFirst = s.rlFirst := rfl
@[simp] theorem State.setTile_rlNext (s : State) (t : Nat) (x : Tile) : (s.setTile t x).rlNext = s.rlNext := rfl
@[simp] theorem State.setTile_posted (s : State) (t : Nat) (x : Tile) : (s.setTile t x).posted = s.posted := rfl
@[simp] theorem State.setTile_heldQ (s : State) (t : Nat) (x : Tile) : (s.setTile t x).heldQ = s.heldQ := rfl
@[simp] theorem State.setTile_hostNum (s : State) (t : Nat) (x : Tile) : (s.setTile t x).hostNum = s.hostNum := rfl
@[simp] theorem State.setTile_heldFail (s : State) (t : Nat) (x : Tile) : (s.setTile t x).heldFail = s.heldFail := rfl
@[simp] theorem State.setTile_savedKind (s : State) (t : Nat) (x : Tile) : (s.setTile t x).savedKind = s.savedKind := rfl
@[simp] theorem State.setTile_msix (s : State) (t : Nat) (x : Tile) : (s.setTile t x).msix = s.msix := rfl
@[simp] theorem State.setTile_cpl (s : State) (t : Nat) (x : Tile) : (s.setTile t x).cpl = s.cpl := rfl
@[simp] theorem State.setTile_gangs (s : State) (t : Nat) (x : Tile) : (s.setTile t x).gangs = s.gangs := rfl
@[simp] theorem State.setTile_prepHeld (s : State) (t : Nat) (x : Tile) : (s.setTile t x).prepHeld = s.prepHeld := rfl
@[simp] theorem State.setTile_outbox (s : State) (t : Nat) (x : Tile) : (s.setTile t x).outbox = s.outbox := rfl
@[simp] theorem State.setTile_cuts (s : State) (t : Nat) (x : Tile) : (s.setTile t x).cuts = s.cuts := rfl
@[simp] theorem State.setTile_blazeThaw (s : State) (t : Nat) (x : Tile) : (s.setTile t x).blazeThaw = s.blazeThaw := rfl
@[simp] theorem State.setTile_markersOut (s : State) (t : Nat) (x : Tile) : (s.setTile t x).markersOut = s.markersOut := rfl
@[simp] theorem State.setTile_quenchAt (s : State) (t : Nat) (x : Tile) : (s.setTile t x).quenchAt = s.quenchAt := rfl
@[simp] theorem State.setTile_markAsked (s : State) (t : Nat) (x : Tile) : (s.setTile t x).markAsked = s.markAsked := rfl
@[simp] theorem State.setTile_markPhase (s : State) (t : Nat) (x : Tile) : (s.setTile t x).markPhase = s.markPhase := rfl
@[simp] theorem State.setTile_hotDies (s : State) (t : Nat) (x : Tile) : (s.setTile t x).hotDies = s.hotDies := rfl
@[simp] theorem State.setTile_flashTrip (s : State) (t : Nat) (x : Tile) : (s.setTile t x).flashTrip = s.flashTrip := rfl
@[simp] theorem State.setTile_agenda (s : State) (t : Nat) (x : Tile) : (s.setTile t x).agenda = s.agenda := rfl
@[simp] theorem State.setTile_focus (s : State) (t : Nat) (x : Tile) : (s.setTile t x).focus = s.focus := rfl
@[simp] theorem State.setTile_issue (s : State) (t : Nat) (x : Tile) : (s.setTile t x).issue = s.issue := rfl
@[simp] theorem State.setTile_fresh (s : State) (t : Nat) (x : Tile) : (s.setTile t x).fresh = s.fresh := rfl
@[simp] theorem State.setTile_faultNum (s : State) (t : Nat) (x : Tile) : (s.setTile t x).faultNum = s.faultNum := rfl
@[simp] theorem State.setTile_resumeWait (s : State) (t : Nat) (x : Tile) : (s.setTile t x).resumeWait = s.resumeWait := rfl
@[simp] theorem State.setTile_cutsDue (s : State) (t : Nat) (x : Tile) : (s.setTile t x).cutsDue = s.cutsDue := rfl
@[simp] theorem State.setTile_streamed (s : State) (t : Nat) (x : Tile) : (s.setTile t x).streamed = s.streamed := rfl
@[simp] theorem State.setTile_doneWait (s : State) (t : Nat) (x : Tile) : (s.setTile t x).doneWait = s.doneWait := rfl
@[simp] theorem State.setTile_hostOld (s : State) (t : Nat) (x : Tile) : (s.setTile t x).hostOld = s.hostOld := rfl
@[simp] theorem State.setTile_doneAt (s : State) (t : Nat) (x : Tile) : (s.setTile t x).doneAt = s.doneAt := rfl
@[simp] theorem State.setTile_stamp (s : State) (t : Nat) (x : Tile) : (s.setTile t x).stamp = s.stamp := rfl
@[simp] theorem State.setTile_trail (s : State) (t : Nat) (x : Tile) : (s.setTile t x).trail = s.trail := rfl

@[simp] theorem State.setDie_on (s : State) (d : Nat) (x : Die) : (s.setDie d x).on = s.on := rfl
@[simp] theorem State.setDie_wiping (s : State) (d : Nat) (x : Die) : (s.setDie d x).wiping = s.wiping := rfl
@[simp] theorem State.setDie_scyc (s : State) (d : Nat) (x : Die) : (s.setDie d x).scyc = s.scyc := rfl
@[simp] theorem State.setDie_tiles (s : State) (d : Nat) (x : Die) : (s.setDie d x).tiles = s.tiles := rfl
@[simp] theorem State.setDie_mem (s : State) (d : Nat) (x : Die) : (s.setDie d x).mem = s.mem := rfl
@[simp] theorem State.setDie_hostMem (s : State) (d : Nat) (x : Die) : (s.setDie d x).hostMem = s.hostMem := rfl
@[simp] theorem State.setDie_farMem (s : State) (d : Nat) (x : Die) : (s.setDie d x).farMem = s.farMem := rfl
@[simp] theorem State.setDie_place (s : State) (d : Nat) (x : Die) : (s.setDie d x).place = s.place := rfl
@[simp] theorem State.setDie_half (s : State) (d : Nat) (x : Die) : (s.setDie d x).half = s.half := rfl
@[simp] theorem State.setDie_images (s : State) (d : Nat) (x : Die) : (s.setDie d x).images = s.images := rfl
@[simp] theorem State.setDie_launches (s : State) (d : Nat) (x : Die) : (s.setDie d x).launches = s.launches := rfl
@[simp] theorem State.setDie_launchSeq (s : State) (d : Nat) (x : Die) : (s.setDie d x).launchSeq = s.launchSeq := rfl
@[simp] theorem State.setDie_lastServed (s : State) (d : Nat) (x : Die) : (s.setDie d x).lastServed = s.lastServed := rfl
@[simp] theorem State.setDie_placed (s : State) (d : Nat) (x : Die) : (s.setDie d x).placed = s.placed := rfl
@[simp] theorem State.setDie_subQ (s : State) (d : Nat) (x : Die) : (s.setDie d x).subQ = s.subQ := rfl
@[simp] theorem State.setDie_readyQ (s : State) (d : Nat) (x : Die) : (s.setDie d x).readyQ = s.readyQ := rfl
@[simp] theorem State.setDie_parkedQ (s : State) (d : Nat) (x : Die) : (s.setDie d x).parkedQ = s.parkedQ := rfl
@[simp] theorem State.setDie_graphQ (s : State) (d : Nat) (x : Die) : (s.setDie d x).graphQ = s.graphQ := rfl
@[simp] theorem State.setDie_ctl (s : State) (d : Nat) (x : Die) : (s.setDie d x).ctl = s.ctl := rfl
@[simp] theorem State.setDie_fq (s : State) (d : Nat) (x : Die) : (s.setDie d x).fq = s.fq := rfl
@[simp] theorem State.setDie_nq (s : State) (d : Nat) (x : Die) : (s.setDie d x).nq = s.nq := rfl
@[simp] theorem State.setDie_tr (s : State) (d : Nat) (x : Die) : (s.setDie d x).tr = s.tr := rfl
@[simp] theorem State.setDie_rl (s : State) (d : Nat) (x : Die) : (s.setDie d x).rl = s.rl := rfl
@[simp] theorem State.setDie_rlFirst (s : State) (d : Nat) (x : Die) : (s.setDie d x).rlFirst = s.rlFirst := rfl
@[simp] theorem State.setDie_rlNext (s : State) (d : Nat) (x : Die) : (s.setDie d x).rlNext = s.rlNext := rfl
@[simp] theorem State.setDie_posted (s : State) (d : Nat) (x : Die) : (s.setDie d x).posted = s.posted := rfl
@[simp] theorem State.setDie_heldQ (s : State) (d : Nat) (x : Die) : (s.setDie d x).heldQ = s.heldQ := rfl
@[simp] theorem State.setDie_hostNum (s : State) (d : Nat) (x : Die) : (s.setDie d x).hostNum = s.hostNum := rfl
@[simp] theorem State.setDie_heldFail (s : State) (d : Nat) (x : Die) : (s.setDie d x).heldFail = s.heldFail := rfl
@[simp] theorem State.setDie_savedKind (s : State) (d : Nat) (x : Die) : (s.setDie d x).savedKind = s.savedKind := rfl
@[simp] theorem State.setDie_msix (s : State) (d : Nat) (x : Die) : (s.setDie d x).msix = s.msix := rfl
@[simp] theorem State.setDie_cpl (s : State) (d : Nat) (x : Die) : (s.setDie d x).cpl = s.cpl := rfl
@[simp] theorem State.setDie_gangs (s : State) (d : Nat) (x : Die) : (s.setDie d x).gangs = s.gangs := rfl
@[simp] theorem State.setDie_prepHeld (s : State) (d : Nat) (x : Die) : (s.setDie d x).prepHeld = s.prepHeld := rfl
@[simp] theorem State.setDie_outbox (s : State) (d : Nat) (x : Die) : (s.setDie d x).outbox = s.outbox := rfl
@[simp] theorem State.setDie_cuts (s : State) (d : Nat) (x : Die) : (s.setDie d x).cuts = s.cuts := rfl
@[simp] theorem State.setDie_blazeThaw (s : State) (d : Nat) (x : Die) : (s.setDie d x).blazeThaw = s.blazeThaw := rfl
@[simp] theorem State.setDie_markersOut (s : State) (d : Nat) (x : Die) : (s.setDie d x).markersOut = s.markersOut := rfl
@[simp] theorem State.setDie_quenchAt (s : State) (d : Nat) (x : Die) : (s.setDie d x).quenchAt = s.quenchAt := rfl
@[simp] theorem State.setDie_markAsked (s : State) (d : Nat) (x : Die) : (s.setDie d x).markAsked = s.markAsked := rfl
@[simp] theorem State.setDie_markPhase (s : State) (d : Nat) (x : Die) : (s.setDie d x).markPhase = s.markPhase := rfl
@[simp] theorem State.setDie_hotDies (s : State) (d : Nat) (x : Die) : (s.setDie d x).hotDies = s.hotDies := rfl
@[simp] theorem State.setDie_flashTrip (s : State) (d : Nat) (x : Die) : (s.setDie d x).flashTrip = s.flashTrip := rfl
@[simp] theorem State.setDie_agenda (s : State) (d : Nat) (x : Die) : (s.setDie d x).agenda = s.agenda := rfl
@[simp] theorem State.setDie_focus (s : State) (d : Nat) (x : Die) : (s.setDie d x).focus = s.focus := rfl
@[simp] theorem State.setDie_issue (s : State) (d : Nat) (x : Die) : (s.setDie d x).issue = s.issue := rfl
@[simp] theorem State.setDie_fresh (s : State) (d : Nat) (x : Die) : (s.setDie d x).fresh = s.fresh := rfl
@[simp] theorem State.setDie_faultNum (s : State) (d : Nat) (x : Die) : (s.setDie d x).faultNum = s.faultNum := rfl
@[simp] theorem State.setDie_resumeWait (s : State) (d : Nat) (x : Die) : (s.setDie d x).resumeWait = s.resumeWait := rfl
@[simp] theorem State.setDie_cutsDue (s : State) (d : Nat) (x : Die) : (s.setDie d x).cutsDue = s.cutsDue := rfl
@[simp] theorem State.setDie_streamed (s : State) (d : Nat) (x : Die) : (s.setDie d x).streamed = s.streamed := rfl
@[simp] theorem State.setDie_doneWait (s : State) (d : Nat) (x : Die) : (s.setDie d x).doneWait = s.doneWait := rfl
@[simp] theorem State.setDie_hostOld (s : State) (d : Nat) (x : Die) : (s.setDie d x).hostOld = s.hostOld := rfl
@[simp] theorem State.setDie_doneAt (s : State) (d : Nat) (x : Die) : (s.setDie d x).doneAt = s.doneAt := rfl
@[simp] theorem State.setDie_stamp (s : State) (d : Nat) (x : Die) : (s.setDie d x).stamp = s.stamp := rfl
@[simp] theorem State.setDie_trail (s : State) (d : Nat) (x : Die) : (s.setDie d x).trail = s.trail := rfl

/-! ### A vector register written -/

@[simp] theorem Tile.writeV_point (x : Tile) (n : Nat) (v : VReg) : (x.writeV n v).point = x.point := rfl
@[simp] theorem Tile.writeV_g (x : Tile) (n : Nat) (v : VReg) : (x.writeV n v).g = x.g := rfl
@[simp] theorem Tile.writeV_gEmpty (x : Tile) (n : Nat) (v : VReg) : (x.writeV n v).gEmpty = x.gEmpty := rfl
@[simp] theorem Tile.writeV_c (x : Tile) (n : Nat) (v : VReg) : (x.writeV n v).c = x.c := rfl
@[simp] theorem Tile.writeV_sw (x : Tile) (n : Nat) (v : VReg) : (x.writeV n v).sw = x.sw := rfl
@[simp] theorem Tile.writeV_rb (x : Tile) (n : Nat) (v : VReg) : (x.writeV n v).rb = x.rb := rfl
@[simp] theorem Tile.writeV_ks (x : Tile) (n : Nat) (v : VReg) : (x.writeV n v).ks = x.ks := rfl
@[simp] theorem Tile.writeV_vEmpty (x : Tile) (n : Nat) (v : VReg) : (x.writeV n v).vEmpty = x.vEmpty := rfl
@[simp] theorem Tile.writeV_p (x : Tile) (n : Nat) (v : VReg) : (x.writeV n v).p = x.p := rfl
@[simp] theorem Tile.writeV_m (x : Tile) (n : Nat) (v : VReg) : (x.writeV n v).m = x.m := rfl
@[simp] theorem Tile.writeV_lg (x : Tile) (n : Nat) (v : VReg) : (x.writeV n v).lg = x.lg := rfl
@[simp] theorem Tile.writeV_fp (x : Tile) (n : Nat) (v : VReg) : (x.writeV n v).fp = x.fp := rfl
@[simp] theorem Tile.writeV_seed (x : Tile) (n : Nat) (v : VReg) : (x.writeV n v).seed = x.seed := rfl
@[simp] theorem Tile.writeV_priv (x : Tile) (n : Nat) (v : VReg) : (x.writeV n v).priv = x.priv := rfl
@[simp] theorem Tile.writeV_layout (x : Tile) (n : Nat) (v : VReg) : (x.writeV n v).layout = x.layout := rfl
@[simp] theorem Tile.writeV_rings (x : Tile) (n : Nat) (v : VReg) : (x.writeV n v).rings = x.rings := rfl
@[simp] theorem Tile.writeV_sp (x : Tile) (n : Nat) (v : VReg) : (x.writeV n v).sp = x.sp := rfl
@[simp] theorem Tile.writeV_secs (x : Tile) (n : Nat) (v : VReg) : (x.writeV n v).secs = x.secs := rfl
@[simp] theorem Tile.writeV_inflight (x : Tile) (n : Nat) (v : VReg) : (x.writeV n v).inflight = x.inflight := rfl
@[simp] theorem Tile.writeV_chan (x : Tile) (n : Nat) (v : VReg) : (x.writeV n v).chan = x.chan := rfl
@[simp] theorem Tile.writeV_fifoA (x : Tile) (n : Nat) (v : VReg) : (x.writeV n v).fifoA = x.fifoA := rfl
@[simp] theorem Tile.writeV_fifoB (x : Tile) (n : Nat) (v : VReg) : (x.writeV n v).fifoB = x.fifoB := rfl
@[simp] theorem Tile.writeV_sqa (x : Tile) (n : Nat) (v : VReg) : (x.writeV n v).sqa = x.sqa := rfl
@[simp] theorem Tile.writeV_sqb (x : Tile) (n : Nat) (v : VReg) : (x.writeV n v).sqb = x.sqb := rfl
@[simp] theorem Tile.writeV_waiters (x : Tile) (n : Nat) (v : VReg) : (x.writeV n v).waiters = x.waiters := rfl
@[simp] theorem Tile.writeV_pc (x : Tile) (n : Nat) (v : VReg) : (x.writeV n v).pc = x.pc := rfl
@[simp] theorem Tile.writeV_sIn (x : Tile) (n : Nat) (v : VReg) : (x.writeV n v).sIn = x.sIn := rfl
@[simp] theorem Tile.writeV_stop (x : Tile) (n : Nat) (v : VReg) : (x.writeV n v).stop = x.stop := rfl
@[simp] theorem Tile.writeV_halted (x : Tile) (n : Nat) (v : VReg) : (x.writeV n v).halted = x.halted := rfl
@[simp] theorem Tile.writeV_waits (x : Tile) (n : Nat) (v : VReg) : (x.writeV n v).waits = x.waits := rfl
@[simp] theorem Tile.writeV_pcs (x : Tile) (n : Nat) (v : VReg) : (x.writeV n v).pcs = x.pcs := rfl
@[simp] theorem Tile.writeV_fpNow (x : Tile) (n : Nat) (v : VReg) : (x.writeV n v).fpNow = x.fpNow := rfl
@[simp] theorem Tile.writeV_bpFired (x : Tile) (n : Nat) (v : VReg) : (x.writeV n v).bpFired = x.bpFired := rfl
@[simp] theorem Tile.writeV_codeOld (x : Tile) (n : Nat) (v : VReg) : (x.writeV n v).codeOld = x.codeOld := rfl
@[simp] theorem Tile.writeV_late (x : Tile) (n : Nat) (v : VReg) : (x.writeV n v).late = x.late := rfl
@[simp] theorem Tile.writeV_rowsOut (x : Tile) (n : Nat) (v : VReg) : (x.writeV n v).rowsOut = x.rowsOut := rfl
@[simp] theorem Tile.writeV_rowsIn (x : Tile) (n : Nat) (v : VReg) : (x.writeV n v).rowsIn = x.rowsIn := rfl
@[simp] theorem Tile.writeV_copies (x : Tile) (n : Nat) (v : VReg) : (x.writeV n v).copies = x.copies := rfl
@[simp] theorem Tile.writeV_ran (x : Tile) (n : Nat) (v : VReg) : (x.writeV n v).ran = x.ran := rfl
@[simp] theorem Tile.writeV_missed (x : Tile) (n : Nat) (v : VReg) : (x.writeV n v).missed = x.missed := rfl
@[simp] theorem Tile.writeV_pcsPrev (x : Tile) (n : Nat) (v : VReg) : (x.writeV n v).pcsPrev = x.pcsPrev := rfl

/-! ### A vector register marked -/

@[simp] theorem Tile.markV_point (x : Tile) (n : Nat) (e : Bool) : (x.markV n e).point = x.point := rfl
@[simp] theorem Tile.markV_g (x : Tile) (n : Nat) (e : Bool) : (x.markV n e).g = x.g := rfl
@[simp] theorem Tile.markV_gEmpty (x : Tile) (n : Nat) (e : Bool) : (x.markV n e).gEmpty = x.gEmpty := rfl
@[simp] theorem Tile.markV_c (x : Tile) (n : Nat) (e : Bool) : (x.markV n e).c = x.c := rfl
@[simp] theorem Tile.markV_sw (x : Tile) (n : Nat) (e : Bool) : (x.markV n e).sw = x.sw := rfl
@[simp] theorem Tile.markV_rb (x : Tile) (n : Nat) (e : Bool) : (x.markV n e).rb = x.rb := rfl
@[simp] theorem Tile.markV_ks (x : Tile) (n : Nat) (e : Bool) : (x.markV n e).ks = x.ks := rfl
@[simp] theorem Tile.markV_v (x : Tile) (n : Nat) (e : Bool) : (x.markV n e).v = x.v := rfl
@[simp] theorem Tile.markV_p (x : Tile) (n : Nat) (e : Bool) : (x.markV n e).p = x.p := rfl
@[simp] theorem Tile.markV_m (x : Tile) (n : Nat) (e : Bool) : (x.markV n e).m = x.m := rfl
@[simp] theorem Tile.markV_lg (x : Tile) (n : Nat) (e : Bool) : (x.markV n e).lg = x.lg := rfl
@[simp] theorem Tile.markV_fp (x : Tile) (n : Nat) (e : Bool) : (x.markV n e).fp = x.fp := rfl
@[simp] theorem Tile.markV_seed (x : Tile) (n : Nat) (e : Bool) : (x.markV n e).seed = x.seed := rfl
@[simp] theorem Tile.markV_priv (x : Tile) (n : Nat) (e : Bool) : (x.markV n e).priv = x.priv := rfl
@[simp] theorem Tile.markV_layout (x : Tile) (n : Nat) (e : Bool) : (x.markV n e).layout = x.layout := rfl
@[simp] theorem Tile.markV_rings (x : Tile) (n : Nat) (e : Bool) : (x.markV n e).rings = x.rings := rfl
@[simp] theorem Tile.markV_sp (x : Tile) (n : Nat) (e : Bool) : (x.markV n e).sp = x.sp := rfl
@[simp] theorem Tile.markV_secs (x : Tile) (n : Nat) (e : Bool) : (x.markV n e).secs = x.secs := rfl
@[simp] theorem Tile.markV_inflight (x : Tile) (n : Nat) (e : Bool) : (x.markV n e).inflight = x.inflight := rfl
@[simp] theorem Tile.markV_chan (x : Tile) (n : Nat) (e : Bool) : (x.markV n e).chan = x.chan := rfl
@[simp] theorem Tile.markV_fifoA (x : Tile) (n : Nat) (e : Bool) : (x.markV n e).fifoA = x.fifoA := rfl
@[simp] theorem Tile.markV_fifoB (x : Tile) (n : Nat) (e : Bool) : (x.markV n e).fifoB = x.fifoB := rfl
@[simp] theorem Tile.markV_sqa (x : Tile) (n : Nat) (e : Bool) : (x.markV n e).sqa = x.sqa := rfl
@[simp] theorem Tile.markV_sqb (x : Tile) (n : Nat) (e : Bool) : (x.markV n e).sqb = x.sqb := rfl
@[simp] theorem Tile.markV_waiters (x : Tile) (n : Nat) (e : Bool) : (x.markV n e).waiters = x.waiters := rfl
@[simp] theorem Tile.markV_pc (x : Tile) (n : Nat) (e : Bool) : (x.markV n e).pc = x.pc := rfl
@[simp] theorem Tile.markV_sIn (x : Tile) (n : Nat) (e : Bool) : (x.markV n e).sIn = x.sIn := rfl
@[simp] theorem Tile.markV_stop (x : Tile) (n : Nat) (e : Bool) : (x.markV n e).stop = x.stop := rfl
@[simp] theorem Tile.markV_halted (x : Tile) (n : Nat) (e : Bool) : (x.markV n e).halted = x.halted := rfl
@[simp] theorem Tile.markV_waits (x : Tile) (n : Nat) (e : Bool) : (x.markV n e).waits = x.waits := rfl
@[simp] theorem Tile.markV_pcs (x : Tile) (n : Nat) (e : Bool) : (x.markV n e).pcs = x.pcs := rfl
@[simp] theorem Tile.markV_fpNow (x : Tile) (n : Nat) (e : Bool) : (x.markV n e).fpNow = x.fpNow := rfl
@[simp] theorem Tile.markV_bpFired (x : Tile) (n : Nat) (e : Bool) : (x.markV n e).bpFired = x.bpFired := rfl
@[simp] theorem Tile.markV_codeOld (x : Tile) (n : Nat) (e : Bool) : (x.markV n e).codeOld = x.codeOld := rfl
@[simp] theorem Tile.markV_late (x : Tile) (n : Nat) (e : Bool) : (x.markV n e).late = x.late := rfl
@[simp] theorem Tile.markV_rowsOut (x : Tile) (n : Nat) (e : Bool) : (x.markV n e).rowsOut = x.rowsOut := rfl
@[simp] theorem Tile.markV_rowsIn (x : Tile) (n : Nat) (e : Bool) : (x.markV n e).rowsIn = x.rowsIn := rfl
@[simp] theorem Tile.markV_copies (x : Tile) (n : Nat) (e : Bool) : (x.markV n e).copies = x.copies := rfl
@[simp] theorem Tile.markV_ran (x : Tile) (n : Nat) (e : Bool) : (x.markV n e).ran = x.ran := rfl
@[simp] theorem Tile.markV_missed (x : Tile) (n : Nat) (e : Bool) : (x.markV n e).missed = x.missed := rfl
@[simp] theorem Tile.markV_pcsPrev (x : Tile) (n : Nat) (e : Bool) : (x.markV n e).pcsPrev = x.pcsPrev := rfl

/-! ### An accumulator written -/

@[simp] theorem Tile.writeM_point (x : Tile) (n : Nat) (v : Sys2Proof.Acc) : (x.writeM n v).point = x.point := rfl
@[simp] theorem Tile.writeM_g (x : Tile) (n : Nat) (v : Sys2Proof.Acc) : (x.writeM n v).g = x.g := rfl
@[simp] theorem Tile.writeM_gEmpty (x : Tile) (n : Nat) (v : Sys2Proof.Acc) : (x.writeM n v).gEmpty = x.gEmpty := rfl
@[simp] theorem Tile.writeM_c (x : Tile) (n : Nat) (v : Sys2Proof.Acc) : (x.writeM n v).c = x.c := rfl
@[simp] theorem Tile.writeM_sw (x : Tile) (n : Nat) (v : Sys2Proof.Acc) : (x.writeM n v).sw = x.sw := rfl
@[simp] theorem Tile.writeM_rb (x : Tile) (n : Nat) (v : Sys2Proof.Acc) : (x.writeM n v).rb = x.rb := rfl
@[simp] theorem Tile.writeM_ks (x : Tile) (n : Nat) (v : Sys2Proof.Acc) : (x.writeM n v).ks = x.ks := rfl
@[simp] theorem Tile.writeM_v (x : Tile) (n : Nat) (v : Sys2Proof.Acc) : (x.writeM n v).v = x.v := rfl
@[simp] theorem Tile.writeM_vEmpty (x : Tile) (n : Nat) (v : Sys2Proof.Acc) : (x.writeM n v).vEmpty = x.vEmpty := rfl
@[simp] theorem Tile.writeM_p (x : Tile) (n : Nat) (v : Sys2Proof.Acc) : (x.writeM n v).p = x.p := rfl
@[simp] theorem Tile.writeM_lg (x : Tile) (n : Nat) (v : Sys2Proof.Acc) : (x.writeM n v).lg = x.lg := rfl
@[simp] theorem Tile.writeM_fp (x : Tile) (n : Nat) (v : Sys2Proof.Acc) : (x.writeM n v).fp = x.fp := rfl
@[simp] theorem Tile.writeM_seed (x : Tile) (n : Nat) (v : Sys2Proof.Acc) : (x.writeM n v).seed = x.seed := rfl
@[simp] theorem Tile.writeM_priv (x : Tile) (n : Nat) (v : Sys2Proof.Acc) : (x.writeM n v).priv = x.priv := rfl
@[simp] theorem Tile.writeM_layout (x : Tile) (n : Nat) (v : Sys2Proof.Acc) : (x.writeM n v).layout = x.layout := rfl
@[simp] theorem Tile.writeM_rings (x : Tile) (n : Nat) (v : Sys2Proof.Acc) : (x.writeM n v).rings = x.rings := rfl
@[simp] theorem Tile.writeM_sp (x : Tile) (n : Nat) (v : Sys2Proof.Acc) : (x.writeM n v).sp = x.sp := rfl
@[simp] theorem Tile.writeM_secs (x : Tile) (n : Nat) (v : Sys2Proof.Acc) : (x.writeM n v).secs = x.secs := rfl
@[simp] theorem Tile.writeM_inflight (x : Tile) (n : Nat) (v : Sys2Proof.Acc) : (x.writeM n v).inflight = x.inflight := rfl
@[simp] theorem Tile.writeM_chan (x : Tile) (n : Nat) (v : Sys2Proof.Acc) : (x.writeM n v).chan = x.chan := rfl
@[simp] theorem Tile.writeM_fifoA (x : Tile) (n : Nat) (v : Sys2Proof.Acc) : (x.writeM n v).fifoA = x.fifoA := rfl
@[simp] theorem Tile.writeM_fifoB (x : Tile) (n : Nat) (v : Sys2Proof.Acc) : (x.writeM n v).fifoB = x.fifoB := rfl
@[simp] theorem Tile.writeM_sqa (x : Tile) (n : Nat) (v : Sys2Proof.Acc) : (x.writeM n v).sqa = x.sqa := rfl
@[simp] theorem Tile.writeM_sqb (x : Tile) (n : Nat) (v : Sys2Proof.Acc) : (x.writeM n v).sqb = x.sqb := rfl
@[simp] theorem Tile.writeM_waiters (x : Tile) (n : Nat) (v : Sys2Proof.Acc) : (x.writeM n v).waiters = x.waiters := rfl
@[simp] theorem Tile.writeM_pc (x : Tile) (n : Nat) (v : Sys2Proof.Acc) : (x.writeM n v).pc = x.pc := rfl
@[simp] theorem Tile.writeM_sIn (x : Tile) (n : Nat) (v : Sys2Proof.Acc) : (x.writeM n v).sIn = x.sIn := rfl
@[simp] theorem Tile.writeM_stop (x : Tile) (n : Nat) (v : Sys2Proof.Acc) : (x.writeM n v).stop = x.stop := rfl
@[simp] theorem Tile.writeM_halted (x : Tile) (n : Nat) (v : Sys2Proof.Acc) : (x.writeM n v).halted = x.halted := rfl
@[simp] theorem Tile.writeM_waits (x : Tile) (n : Nat) (v : Sys2Proof.Acc) : (x.writeM n v).waits = x.waits := rfl
@[simp] theorem Tile.writeM_pcs (x : Tile) (n : Nat) (v : Sys2Proof.Acc) : (x.writeM n v).pcs = x.pcs := rfl
@[simp] theorem Tile.writeM_fpNow (x : Tile) (n : Nat) (v : Sys2Proof.Acc) : (x.writeM n v).fpNow = x.fpNow := rfl
@[simp] theorem Tile.writeM_bpFired (x : Tile) (n : Nat) (v : Sys2Proof.Acc) : (x.writeM n v).bpFired = x.bpFired := rfl
@[simp] theorem Tile.writeM_codeOld (x : Tile) (n : Nat) (v : Sys2Proof.Acc) : (x.writeM n v).codeOld = x.codeOld := rfl
@[simp] theorem Tile.writeM_late (x : Tile) (n : Nat) (v : Sys2Proof.Acc) : (x.writeM n v).late = x.late := rfl
@[simp] theorem Tile.writeM_rowsOut (x : Tile) (n : Nat) (v : Sys2Proof.Acc) : (x.writeM n v).rowsOut = x.rowsOut := rfl
@[simp] theorem Tile.writeM_rowsIn (x : Tile) (n : Nat) (v : Sys2Proof.Acc) : (x.writeM n v).rowsIn = x.rowsIn := rfl
@[simp] theorem Tile.writeM_copies (x : Tile) (n : Nat) (v : Sys2Proof.Acc) : (x.writeM n v).copies = x.copies := rfl
@[simp] theorem Tile.writeM_ran (x : Tile) (n : Nat) (v : Sys2Proof.Acc) : (x.writeM n v).ran = x.ran := rfl
@[simp] theorem Tile.writeM_missed (x : Tile) (n : Nat) (v : Sys2Proof.Acc) : (x.writeM n v).missed = x.missed := rfl
@[simp] theorem Tile.writeM_pcsPrev (x : Tile) (n : Nat) (v : Sys2Proof.Acc) : (x.writeM n v).pcsPrev = x.pcsPrev := rfl

/-! ### Flags set -/

@[simp] theorem Tile.orFlags_point (x : Tile) (fl : Nat) : (x.orFlags fl).point = x.point := rfl
@[simp] theorem Tile.orFlags_g (x : Tile) (fl : Nat) : (x.orFlags fl).g = x.g := rfl
@[simp] theorem Tile.orFlags_gEmpty (x : Tile) (fl : Nat) : (x.orFlags fl).gEmpty = x.gEmpty := rfl
@[simp] theorem Tile.orFlags_c (x : Tile) (fl : Nat) : (x.orFlags fl).c = x.c := rfl
@[simp] theorem Tile.orFlags_sw (x : Tile) (fl : Nat) : (x.orFlags fl).sw = x.sw := rfl
@[simp] theorem Tile.orFlags_rb (x : Tile) (fl : Nat) : (x.orFlags fl).rb = x.rb := rfl
@[simp] theorem Tile.orFlags_ks (x : Tile) (fl : Nat) : (x.orFlags fl).ks = x.ks := rfl
@[simp] theorem Tile.orFlags_v (x : Tile) (fl : Nat) : (x.orFlags fl).v = x.v := rfl
@[simp] theorem Tile.orFlags_vEmpty (x : Tile) (fl : Nat) : (x.orFlags fl).vEmpty = x.vEmpty := rfl
@[simp] theorem Tile.orFlags_p (x : Tile) (fl : Nat) : (x.orFlags fl).p = x.p := rfl
@[simp] theorem Tile.orFlags_m (x : Tile) (fl : Nat) : (x.orFlags fl).m = x.m := rfl
@[simp] theorem Tile.orFlags_lg (x : Tile) (fl : Nat) : (x.orFlags fl).lg = x.lg := rfl
@[simp] theorem Tile.orFlags_seed (x : Tile) (fl : Nat) : (x.orFlags fl).seed = x.seed := rfl
@[simp] theorem Tile.orFlags_priv (x : Tile) (fl : Nat) : (x.orFlags fl).priv = x.priv := rfl
@[simp] theorem Tile.orFlags_layout (x : Tile) (fl : Nat) : (x.orFlags fl).layout = x.layout := rfl
@[simp] theorem Tile.orFlags_rings (x : Tile) (fl : Nat) : (x.orFlags fl).rings = x.rings := rfl
@[simp] theorem Tile.orFlags_sp (x : Tile) (fl : Nat) : (x.orFlags fl).sp = x.sp := rfl
@[simp] theorem Tile.orFlags_secs (x : Tile) (fl : Nat) : (x.orFlags fl).secs = x.secs := rfl
@[simp] theorem Tile.orFlags_inflight (x : Tile) (fl : Nat) : (x.orFlags fl).inflight = x.inflight := rfl
@[simp] theorem Tile.orFlags_chan (x : Tile) (fl : Nat) : (x.orFlags fl).chan = x.chan := rfl
@[simp] theorem Tile.orFlags_fifoA (x : Tile) (fl : Nat) : (x.orFlags fl).fifoA = x.fifoA := rfl
@[simp] theorem Tile.orFlags_fifoB (x : Tile) (fl : Nat) : (x.orFlags fl).fifoB = x.fifoB := rfl
@[simp] theorem Tile.orFlags_sqa (x : Tile) (fl : Nat) : (x.orFlags fl).sqa = x.sqa := rfl
@[simp] theorem Tile.orFlags_sqb (x : Tile) (fl : Nat) : (x.orFlags fl).sqb = x.sqb := rfl
@[simp] theorem Tile.orFlags_waiters (x : Tile) (fl : Nat) : (x.orFlags fl).waiters = x.waiters := rfl
@[simp] theorem Tile.orFlags_pc (x : Tile) (fl : Nat) : (x.orFlags fl).pc = x.pc := rfl
@[simp] theorem Tile.orFlags_sIn (x : Tile) (fl : Nat) : (x.orFlags fl).sIn = x.sIn := rfl
@[simp] theorem Tile.orFlags_stop (x : Tile) (fl : Nat) : (x.orFlags fl).stop = x.stop := rfl
@[simp] theorem Tile.orFlags_halted (x : Tile) (fl : Nat) : (x.orFlags fl).halted = x.halted := rfl
@[simp] theorem Tile.orFlags_waits (x : Tile) (fl : Nat) : (x.orFlags fl).waits = x.waits := rfl
@[simp] theorem Tile.orFlags_pcs (x : Tile) (fl : Nat) : (x.orFlags fl).pcs = x.pcs := rfl
@[simp] theorem Tile.orFlags_bpFired (x : Tile) (fl : Nat) : (x.orFlags fl).bpFired = x.bpFired := rfl
@[simp] theorem Tile.orFlags_codeOld (x : Tile) (fl : Nat) : (x.orFlags fl).codeOld = x.codeOld := rfl
@[simp] theorem Tile.orFlags_late (x : Tile) (fl : Nat) : (x.orFlags fl).late = x.late := rfl
@[simp] theorem Tile.orFlags_rowsOut (x : Tile) (fl : Nat) : (x.orFlags fl).rowsOut = x.rowsOut := rfl
@[simp] theorem Tile.orFlags_rowsIn (x : Tile) (fl : Nat) : (x.orFlags fl).rowsIn = x.rowsIn := rfl
@[simp] theorem Tile.orFlags_copies (x : Tile) (fl : Nat) : (x.orFlags fl).copies = x.copies := rfl
@[simp] theorem Tile.orFlags_ran (x : Tile) (fl : Nat) : (x.orFlags fl).ran = x.ran := rfl
@[simp] theorem Tile.orFlags_missed (x : Tile) (fl : Nat) : (x.orFlags fl).missed = x.missed := rfl
@[simp] theorem Tile.orFlags_pcsPrev (x : Tile) (fl : Nat) : (x.orFlags fl).pcsPrev = x.pcsPrev := rfl

/-! ### Why an engine waits -/

@[simp] theorem Tile.setWait_point (x : Tile) (e : Engine) (why : Nat) : (x.setWait e why).point = x.point := rfl
@[simp] theorem Tile.setWait_g (x : Tile) (e : Engine) (why : Nat) : (x.setWait e why).g = x.g := rfl
@[simp] theorem Tile.setWait_gEmpty (x : Tile) (e : Engine) (why : Nat) : (x.setWait e why).gEmpty = x.gEmpty := rfl
@[simp] theorem Tile.setWait_c (x : Tile) (e : Engine) (why : Nat) : (x.setWait e why).c = x.c := rfl
@[simp] theorem Tile.setWait_sw (x : Tile) (e : Engine) (why : Nat) : (x.setWait e why).sw = x.sw := rfl
@[simp] theorem Tile.setWait_rb (x : Tile) (e : Engine) (why : Nat) : (x.setWait e why).rb = x.rb := rfl
@[simp] theorem Tile.setWait_ks (x : Tile) (e : Engine) (why : Nat) : (x.setWait e why).ks = x.ks := rfl
@[simp] theorem Tile.setWait_v (x : Tile) (e : Engine) (why : Nat) : (x.setWait e why).v = x.v := rfl
@[simp] theorem Tile.setWait_vEmpty (x : Tile) (e : Engine) (why : Nat) : (x.setWait e why).vEmpty = x.vEmpty := rfl
@[simp] theorem Tile.setWait_p (x : Tile) (e : Engine) (why : Nat) : (x.setWait e why).p = x.p := rfl
@[simp] theorem Tile.setWait_m (x : Tile) (e : Engine) (why : Nat) : (x.setWait e why).m = x.m := rfl
@[simp] theorem Tile.setWait_lg (x : Tile) (e : Engine) (why : Nat) : (x.setWait e why).lg = x.lg := rfl
@[simp] theorem Tile.setWait_fp (x : Tile) (e : Engine) (why : Nat) : (x.setWait e why).fp = x.fp := rfl
@[simp] theorem Tile.setWait_seed (x : Tile) (e : Engine) (why : Nat) : (x.setWait e why).seed = x.seed := rfl
@[simp] theorem Tile.setWait_priv (x : Tile) (e : Engine) (why : Nat) : (x.setWait e why).priv = x.priv := rfl
@[simp] theorem Tile.setWait_layout (x : Tile) (e : Engine) (why : Nat) : (x.setWait e why).layout = x.layout := rfl
@[simp] theorem Tile.setWait_rings (x : Tile) (e : Engine) (why : Nat) : (x.setWait e why).rings = x.rings := rfl
@[simp] theorem Tile.setWait_sp (x : Tile) (e : Engine) (why : Nat) : (x.setWait e why).sp = x.sp := rfl
@[simp] theorem Tile.setWait_secs (x : Tile) (e : Engine) (why : Nat) : (x.setWait e why).secs = x.secs := rfl
@[simp] theorem Tile.setWait_inflight (x : Tile) (e : Engine) (why : Nat) : (x.setWait e why).inflight = x.inflight := rfl
@[simp] theorem Tile.setWait_chan (x : Tile) (e : Engine) (why : Nat) : (x.setWait e why).chan = x.chan := rfl
@[simp] theorem Tile.setWait_fifoA (x : Tile) (e : Engine) (why : Nat) : (x.setWait e why).fifoA = x.fifoA := rfl
@[simp] theorem Tile.setWait_fifoB (x : Tile) (e : Engine) (why : Nat) : (x.setWait e why).fifoB = x.fifoB := rfl
@[simp] theorem Tile.setWait_sqa (x : Tile) (e : Engine) (why : Nat) : (x.setWait e why).sqa = x.sqa := rfl
@[simp] theorem Tile.setWait_sqb (x : Tile) (e : Engine) (why : Nat) : (x.setWait e why).sqb = x.sqb := rfl
@[simp] theorem Tile.setWait_waiters (x : Tile) (e : Engine) (why : Nat) : (x.setWait e why).waiters = x.waiters := rfl
@[simp] theorem Tile.setWait_pc (x : Tile) (e : Engine) (why : Nat) : (x.setWait e why).pc = x.pc := rfl
@[simp] theorem Tile.setWait_sIn (x : Tile) (e : Engine) (why : Nat) : (x.setWait e why).sIn = x.sIn := rfl
@[simp] theorem Tile.setWait_stop (x : Tile) (e : Engine) (why : Nat) : (x.setWait e why).stop = x.stop := rfl
@[simp] theorem Tile.setWait_halted (x : Tile) (e : Engine) (why : Nat) : (x.setWait e why).halted = x.halted := rfl
@[simp] theorem Tile.setWait_pcs (x : Tile) (e : Engine) (why : Nat) : (x.setWait e why).pcs = x.pcs := rfl
@[simp] theorem Tile.setWait_fpNow (x : Tile) (e : Engine) (why : Nat) : (x.setWait e why).fpNow = x.fpNow := rfl
@[simp] theorem Tile.setWait_bpFired (x : Tile) (e : Engine) (why : Nat) : (x.setWait e why).bpFired = x.bpFired := rfl
@[simp] theorem Tile.setWait_codeOld (x : Tile) (e : Engine) (why : Nat) : (x.setWait e why).codeOld = x.codeOld := rfl
@[simp] theorem Tile.setWait_late (x : Tile) (e : Engine) (why : Nat) : (x.setWait e why).late = x.late := rfl
@[simp] theorem Tile.setWait_rowsOut (x : Tile) (e : Engine) (why : Nat) : (x.setWait e why).rowsOut = x.rowsOut := rfl
@[simp] theorem Tile.setWait_rowsIn (x : Tile) (e : Engine) (why : Nat) : (x.setWait e why).rowsIn = x.rowsIn := rfl
@[simp] theorem Tile.setWait_copies (x : Tile) (e : Engine) (why : Nat) : (x.setWait e why).copies = x.copies := rfl
@[simp] theorem Tile.setWait_ran (x : Tile) (e : Engine) (why : Nat) : (x.setWait e why).ran = x.ran := rfl
@[simp] theorem Tile.setWait_missed (x : Tile) (e : Engine) (why : Nat) : (x.setWait e why).missed = x.missed := rfl
@[simp] theorem Tile.setWait_pcsPrev (x : Tile) (e : Engine) (why : Nat) : (x.setWait e why).pcsPrev = x.pcsPrev := rfl

/-! ### A semaphore set -/

@[simp] theorem Tile.setSem_point (x : Tile) (n v : Nat) : (x.setSem n v).point = x.point := rfl
@[simp] theorem Tile.setSem_g (x : Tile) (n v : Nat) : (x.setSem n v).g = x.g := rfl
@[simp] theorem Tile.setSem_gEmpty (x : Tile) (n v : Nat) : (x.setSem n v).gEmpty = x.gEmpty := rfl
@[simp] theorem Tile.setSem_c (x : Tile) (n v : Nat) : (x.setSem n v).c = x.c := rfl
@[simp] theorem Tile.setSem_sw (x : Tile) (n v : Nat) : (x.setSem n v).sw = x.sw := rfl
@[simp] theorem Tile.setSem_rb (x : Tile) (n v : Nat) : (x.setSem n v).rb = x.rb := rfl
@[simp] theorem Tile.setSem_ks (x : Tile) (n v : Nat) : (x.setSem n v).ks = x.ks := rfl
@[simp] theorem Tile.setSem_v (x : Tile) (n v : Nat) : (x.setSem n v).v = x.v := rfl
@[simp] theorem Tile.setSem_vEmpty (x : Tile) (n v : Nat) : (x.setSem n v).vEmpty = x.vEmpty := rfl
@[simp] theorem Tile.setSem_p (x : Tile) (n v : Nat) : (x.setSem n v).p = x.p := rfl
@[simp] theorem Tile.setSem_m (x : Tile) (n v : Nat) : (x.setSem n v).m = x.m := rfl
@[simp] theorem Tile.setSem_lg (x : Tile) (n v : Nat) : (x.setSem n v).lg = x.lg := rfl
@[simp] theorem Tile.setSem_fp (x : Tile) (n v : Nat) : (x.setSem n v).fp = x.fp := rfl
@[simp] theorem Tile.setSem_seed (x : Tile) (n v : Nat) : (x.setSem n v).seed = x.seed := rfl
@[simp] theorem Tile.setSem_priv (x : Tile) (n v : Nat) : (x.setSem n v).priv = x.priv := rfl
@[simp] theorem Tile.setSem_layout (x : Tile) (n v : Nat) : (x.setSem n v).layout = x.layout := rfl
@[simp] theorem Tile.setSem_rings (x : Tile) (n v : Nat) : (x.setSem n v).rings = x.rings := rfl
@[simp] theorem Tile.setSem_secs (x : Tile) (n v : Nat) : (x.setSem n v).secs = x.secs := rfl
@[simp] theorem Tile.setSem_inflight (x : Tile) (n v : Nat) : (x.setSem n v).inflight = x.inflight := rfl
@[simp] theorem Tile.setSem_chan (x : Tile) (n v : Nat) : (x.setSem n v).chan = x.chan := rfl
@[simp] theorem Tile.setSem_fifoA (x : Tile) (n v : Nat) : (x.setSem n v).fifoA = x.fifoA := rfl
@[simp] theorem Tile.setSem_fifoB (x : Tile) (n v : Nat) : (x.setSem n v).fifoB = x.fifoB := rfl
@[simp] theorem Tile.setSem_sqa (x : Tile) (n v : Nat) : (x.setSem n v).sqa = x.sqa := rfl
@[simp] theorem Tile.setSem_sqb (x : Tile) (n v : Nat) : (x.setSem n v).sqb = x.sqb := rfl
@[simp] theorem Tile.setSem_waiters (x : Tile) (n v : Nat) : (x.setSem n v).waiters = x.waiters := rfl
@[simp] theorem Tile.setSem_pc (x : Tile) (n v : Nat) : (x.setSem n v).pc = x.pc := rfl
@[simp] theorem Tile.setSem_sIn (x : Tile) (n v : Nat) : (x.setSem n v).sIn = x.sIn := rfl
@[simp] theorem Tile.setSem_stop (x : Tile) (n v : Nat) : (x.setSem n v).stop = x.stop := rfl
@[simp] theorem Tile.setSem_halted (x : Tile) (n v : Nat) : (x.setSem n v).halted = x.halted := rfl
@[simp] theorem Tile.setSem_waits (x : Tile) (n v : Nat) : (x.setSem n v).waits = x.waits := rfl
@[simp] theorem Tile.setSem_pcs (x : Tile) (n v : Nat) : (x.setSem n v).pcs = x.pcs := rfl
@[simp] theorem Tile.setSem_fpNow (x : Tile) (n v : Nat) : (x.setSem n v).fpNow = x.fpNow := rfl
@[simp] theorem Tile.setSem_bpFired (x : Tile) (n v : Nat) : (x.setSem n v).bpFired = x.bpFired := rfl
@[simp] theorem Tile.setSem_codeOld (x : Tile) (n v : Nat) : (x.setSem n v).codeOld = x.codeOld := rfl
@[simp] theorem Tile.setSem_late (x : Tile) (n v : Nat) : (x.setSem n v).late = x.late := rfl
@[simp] theorem Tile.setSem_rowsOut (x : Tile) (n v : Nat) : (x.setSem n v).rowsOut = x.rowsOut := rfl
@[simp] theorem Tile.setSem_rowsIn (x : Tile) (n v : Nat) : (x.setSem n v).rowsIn = x.rowsIn := rfl
@[simp] theorem Tile.setSem_copies (x : Tile) (n v : Nat) : (x.setSem n v).copies = x.copies := rfl
@[simp] theorem Tile.setSem_ran (x : Tile) (n v : Nat) : (x.setSem n v).ran = x.ran := rfl
@[simp] theorem Tile.setSem_missed (x : Tile) (n v : Nat) : (x.setSem n v).missed = x.missed := rfl
@[simp] theorem Tile.setSem_pcsPrev (x : Tile) (n v : Nat) : (x.setSem n v).pcsPrev = x.pcsPrev := rfl

/-! ### A layout entry written -/

@[simp] theorem Tile.writeLay_point (x : Tile) (k v : Nat) : (x.writeLay k v).point = x.point := rfl
@[simp] theorem Tile.writeLay_g (x : Tile) (k v : Nat) : (x.writeLay k v).g = x.g := rfl
@[simp] theorem Tile.writeLay_gEmpty (x : Tile) (k v : Nat) : (x.writeLay k v).gEmpty = x.gEmpty := rfl
@[simp] theorem Tile.writeLay_c (x : Tile) (k v : Nat) : (x.writeLay k v).c = x.c := rfl
@[simp] theorem Tile.writeLay_sw (x : Tile) (k v : Nat) : (x.writeLay k v).sw = x.sw := rfl
@[simp] theorem Tile.writeLay_rb (x : Tile) (k v : Nat) : (x.writeLay k v).rb = x.rb := rfl
@[simp] theorem Tile.writeLay_ks (x : Tile) (k v : Nat) : (x.writeLay k v).ks = x.ks := rfl
@[simp] theorem Tile.writeLay_v (x : Tile) (k v : Nat) : (x.writeLay k v).v = x.v := rfl
@[simp] theorem Tile.writeLay_vEmpty (x : Tile) (k v : Nat) : (x.writeLay k v).vEmpty = x.vEmpty := rfl
@[simp] theorem Tile.writeLay_p (x : Tile) (k v : Nat) : (x.writeLay k v).p = x.p := rfl
@[simp] theorem Tile.writeLay_m (x : Tile) (k v : Nat) : (x.writeLay k v).m = x.m := rfl
@[simp] theorem Tile.writeLay_lg (x : Tile) (k v : Nat) : (x.writeLay k v).lg = x.lg := rfl
@[simp] theorem Tile.writeLay_fp (x : Tile) (k v : Nat) : (x.writeLay k v).fp = x.fp := rfl
@[simp] theorem Tile.writeLay_seed (x : Tile) (k v : Nat) : (x.writeLay k v).seed = x.seed := rfl
@[simp] theorem Tile.writeLay_priv (x : Tile) (k v : Nat) : (x.writeLay k v).priv = x.priv := rfl
@[simp] theorem Tile.writeLay_rings (x : Tile) (k v : Nat) : (x.writeLay k v).rings = x.rings := rfl
@[simp] theorem Tile.writeLay_sp (x : Tile) (k v : Nat) : (x.writeLay k v).sp = x.sp := rfl
@[simp] theorem Tile.writeLay_secs (x : Tile) (k v : Nat) : (x.writeLay k v).secs = x.secs := rfl
@[simp] theorem Tile.writeLay_inflight (x : Tile) (k v : Nat) : (x.writeLay k v).inflight = x.inflight := rfl
@[simp] theorem Tile.writeLay_chan (x : Tile) (k v : Nat) : (x.writeLay k v).chan = x.chan := rfl
@[simp] theorem Tile.writeLay_fifoA (x : Tile) (k v : Nat) : (x.writeLay k v).fifoA = x.fifoA := rfl
@[simp] theorem Tile.writeLay_fifoB (x : Tile) (k v : Nat) : (x.writeLay k v).fifoB = x.fifoB := rfl
@[simp] theorem Tile.writeLay_sqa (x : Tile) (k v : Nat) : (x.writeLay k v).sqa = x.sqa := rfl
@[simp] theorem Tile.writeLay_sqb (x : Tile) (k v : Nat) : (x.writeLay k v).sqb = x.sqb := rfl
@[simp] theorem Tile.writeLay_waiters (x : Tile) (k v : Nat) : (x.writeLay k v).waiters = x.waiters := rfl
@[simp] theorem Tile.writeLay_pc (x : Tile) (k v : Nat) : (x.writeLay k v).pc = x.pc := rfl
@[simp] theorem Tile.writeLay_sIn (x : Tile) (k v : Nat) : (x.writeLay k v).sIn = x.sIn := rfl
@[simp] theorem Tile.writeLay_stop (x : Tile) (k v : Nat) : (x.writeLay k v).stop = x.stop := rfl
@[simp] theorem Tile.writeLay_halted (x : Tile) (k v : Nat) : (x.writeLay k v).halted = x.halted := rfl
@[simp] theorem Tile.writeLay_waits (x : Tile) (k v : Nat) : (x.writeLay k v).waits = x.waits := rfl
@[simp] theorem Tile.writeLay_pcs (x : Tile) (k v : Nat) : (x.writeLay k v).pcs = x.pcs := rfl
@[simp] theorem Tile.writeLay_fpNow (x : Tile) (k v : Nat) : (x.writeLay k v).fpNow = x.fpNow := rfl
@[simp] theorem Tile.writeLay_bpFired (x : Tile) (k v : Nat) : (x.writeLay k v).bpFired = x.bpFired := rfl
@[simp] theorem Tile.writeLay_codeOld (x : Tile) (k v : Nat) : (x.writeLay k v).codeOld = x.codeOld := rfl
@[simp] theorem Tile.writeLay_late (x : Tile) (k v : Nat) : (x.writeLay k v).late = x.late := rfl
@[simp] theorem Tile.writeLay_rowsOut (x : Tile) (k v : Nat) : (x.writeLay k v).rowsOut = x.rowsOut := rfl
@[simp] theorem Tile.writeLay_rowsIn (x : Tile) (k v : Nat) : (x.writeLay k v).rowsIn = x.rowsIn := rfl
@[simp] theorem Tile.writeLay_copies (x : Tile) (k v : Nat) : (x.writeLay k v).copies = x.copies := rfl
@[simp] theorem Tile.writeLay_ran (x : Tile) (k v : Nat) : (x.writeLay k v).ran = x.ran := rfl
@[simp] theorem Tile.writeLay_missed (x : Tile) (k v : Nat) : (x.writeLay k v).missed = x.missed := rfl
@[simp] theorem Tile.writeLay_pcsPrev (x : Tile) (k v : Nat) : (x.writeLay k v).pcsPrev = x.pcsPrev := rfl

/-! ### A ring entry written -/

@[simp] theorem Tile.writeRing_point (x : Tile) (b v : Nat) : (x.writeRing b v).point = x.point := rfl
@[simp] theorem Tile.writeRing_g (x : Tile) (b v : Nat) : (x.writeRing b v).g = x.g := rfl
@[simp] theorem Tile.writeRing_gEmpty (x : Tile) (b v : Nat) : (x.writeRing b v).gEmpty = x.gEmpty := rfl
@[simp] theorem Tile.writeRing_c (x : Tile) (b v : Nat) : (x.writeRing b v).c = x.c := rfl
@[simp] theorem Tile.writeRing_sw (x : Tile) (b v : Nat) : (x.writeRing b v).sw = x.sw := rfl
@[simp] theorem Tile.writeRing_rb (x : Tile) (b v : Nat) : (x.writeRing b v).rb = x.rb := rfl
@[simp] theorem Tile.writeRing_ks (x : Tile) (b v : Nat) : (x.writeRing b v).ks = x.ks := rfl
@[simp] theorem Tile.writeRing_v (x : Tile) (b v : Nat) : (x.writeRing b v).v = x.v := rfl
@[simp] theorem Tile.writeRing_vEmpty (x : Tile) (b v : Nat) : (x.writeRing b v).vEmpty = x.vEmpty := rfl
@[simp] theorem Tile.writeRing_p (x : Tile) (b v : Nat) : (x.writeRing b v).p = x.p := rfl
@[simp] theorem Tile.writeRing_m (x : Tile) (b v : Nat) : (x.writeRing b v).m = x.m := rfl
@[simp] theorem Tile.writeRing_lg (x : Tile) (b v : Nat) : (x.writeRing b v).lg = x.lg := rfl
@[simp] theorem Tile.writeRing_fp (x : Tile) (b v : Nat) : (x.writeRing b v).fp = x.fp := rfl
@[simp] theorem Tile.writeRing_seed (x : Tile) (b v : Nat) : (x.writeRing b v).seed = x.seed := rfl
@[simp] theorem Tile.writeRing_priv (x : Tile) (b v : Nat) : (x.writeRing b v).priv = x.priv := rfl
@[simp] theorem Tile.writeRing_layout (x : Tile) (b v : Nat) : (x.writeRing b v).layout = x.layout := rfl
@[simp] theorem Tile.writeRing_sp (x : Tile) (b v : Nat) : (x.writeRing b v).sp = x.sp := rfl
@[simp] theorem Tile.writeRing_secs (x : Tile) (b v : Nat) : (x.writeRing b v).secs = x.secs := rfl
@[simp] theorem Tile.writeRing_inflight (x : Tile) (b v : Nat) : (x.writeRing b v).inflight = x.inflight := rfl
@[simp] theorem Tile.writeRing_chan (x : Tile) (b v : Nat) : (x.writeRing b v).chan = x.chan := rfl
@[simp] theorem Tile.writeRing_fifoA (x : Tile) (b v : Nat) : (x.writeRing b v).fifoA = x.fifoA := rfl
@[simp] theorem Tile.writeRing_fifoB (x : Tile) (b v : Nat) : (x.writeRing b v).fifoB = x.fifoB := rfl
@[simp] theorem Tile.writeRing_sqa (x : Tile) (b v : Nat) : (x.writeRing b v).sqa = x.sqa := rfl
@[simp] theorem Tile.writeRing_sqb (x : Tile) (b v : Nat) : (x.writeRing b v).sqb = x.sqb := rfl
@[simp] theorem Tile.writeRing_waiters (x : Tile) (b v : Nat) : (x.writeRing b v).waiters = x.waiters := rfl
@[simp] theorem Tile.writeRing_pc (x : Tile) (b v : Nat) : (x.writeRing b v).pc = x.pc := rfl
@[simp] theorem Tile.writeRing_sIn (x : Tile) (b v : Nat) : (x.writeRing b v).sIn = x.sIn := rfl
@[simp] theorem Tile.writeRing_stop (x : Tile) (b v : Nat) : (x.writeRing b v).stop = x.stop := rfl
@[simp] theorem Tile.writeRing_halted (x : Tile) (b v : Nat) : (x.writeRing b v).halted = x.halted := rfl
@[simp] theorem Tile.writeRing_waits (x : Tile) (b v : Nat) : (x.writeRing b v).waits = x.waits := rfl
@[simp] theorem Tile.writeRing_pcs (x : Tile) (b v : Nat) : (x.writeRing b v).pcs = x.pcs := rfl
@[simp] theorem Tile.writeRing_fpNow (x : Tile) (b v : Nat) : (x.writeRing b v).fpNow = x.fpNow := rfl
@[simp] theorem Tile.writeRing_bpFired (x : Tile) (b v : Nat) : (x.writeRing b v).bpFired = x.bpFired := rfl
@[simp] theorem Tile.writeRing_codeOld (x : Tile) (b v : Nat) : (x.writeRing b v).codeOld = x.codeOld := rfl
@[simp] theorem Tile.writeRing_late (x : Tile) (b v : Nat) : (x.writeRing b v).late = x.late := rfl
@[simp] theorem Tile.writeRing_rowsOut (x : Tile) (b v : Nat) : (x.writeRing b v).rowsOut = x.rowsOut := rfl
@[simp] theorem Tile.writeRing_rowsIn (x : Tile) (b v : Nat) : (x.writeRing b v).rowsIn = x.rowsIn := rfl
@[simp] theorem Tile.writeRing_copies (x : Tile) (b v : Nat) : (x.writeRing b v).copies = x.copies := rfl
@[simp] theorem Tile.writeRing_ran (x : Tile) (b v : Nat) : (x.writeRing b v).ran = x.ran := rfl
@[simp] theorem Tile.writeRing_missed (x : Tile) (b v : Nat) : (x.writeRing b v).missed = x.missed := rfl
@[simp] theorem Tile.writeRing_pcsPrev (x : Tile) (b v : Nat) : (x.writeRing b v).pcsPrev = x.pcsPrev := rfl

/-! ### A section replaced -/

@[simp] theorem Tile.setSec_point (x : Tile) (q : Nat) (h : Section → Section) : (x.setSec q h).point = x.point := rfl
@[simp] theorem Tile.setSec_g (x : Tile) (q : Nat) (h : Section → Section) : (x.setSec q h).g = x.g := rfl
@[simp] theorem Tile.setSec_gEmpty (x : Tile) (q : Nat) (h : Section → Section) : (x.setSec q h).gEmpty = x.gEmpty := rfl
@[simp] theorem Tile.setSec_c (x : Tile) (q : Nat) (h : Section → Section) : (x.setSec q h).c = x.c := rfl
@[simp] theorem Tile.setSec_sw (x : Tile) (q : Nat) (h : Section → Section) : (x.setSec q h).sw = x.sw := rfl
@[simp] theorem Tile.setSec_rb (x : Tile) (q : Nat) (h : Section → Section) : (x.setSec q h).rb = x.rb := rfl
@[simp] theorem Tile.setSec_ks (x : Tile) (q : Nat) (h : Section → Section) : (x.setSec q h).ks = x.ks := rfl
@[simp] theorem Tile.setSec_v (x : Tile) (q : Nat) (h : Section → Section) : (x.setSec q h).v = x.v := rfl
@[simp] theorem Tile.setSec_vEmpty (x : Tile) (q : Nat) (h : Section → Section) : (x.setSec q h).vEmpty = x.vEmpty := rfl
@[simp] theorem Tile.setSec_p (x : Tile) (q : Nat) (h : Section → Section) : (x.setSec q h).p = x.p := rfl
@[simp] theorem Tile.setSec_m (x : Tile) (q : Nat) (h : Section → Section) : (x.setSec q h).m = x.m := rfl
@[simp] theorem Tile.setSec_lg (x : Tile) (q : Nat) (h : Section → Section) : (x.setSec q h).lg = x.lg := rfl
@[simp] theorem Tile.setSec_fp (x : Tile) (q : Nat) (h : Section → Section) : (x.setSec q h).fp = x.fp := rfl
@[simp] theorem Tile.setSec_seed (x : Tile) (q : Nat) (h : Section → Section) : (x.setSec q h).seed = x.seed := rfl
@[simp] theorem Tile.setSec_priv (x : Tile) (q : Nat) (h : Section → Section) : (x.setSec q h).priv = x.priv := rfl
@[simp] theorem Tile.setSec_layout (x : Tile) (q : Nat) (h : Section → Section) : (x.setSec q h).layout = x.layout := rfl
@[simp] theorem Tile.setSec_rings (x : Tile) (q : Nat) (h : Section → Section) : (x.setSec q h).rings = x.rings := rfl
@[simp] theorem Tile.setSec_sp (x : Tile) (q : Nat) (h : Section → Section) : (x.setSec q h).sp = x.sp := rfl
@[simp] theorem Tile.setSec_inflight (x : Tile) (q : Nat) (h : Section → Section) : (x.setSec q h).inflight = x.inflight := rfl
@[simp] theorem Tile.setSec_chan (x : Tile) (q : Nat) (h : Section → Section) : (x.setSec q h).chan = x.chan := rfl
@[simp] theorem Tile.setSec_fifoA (x : Tile) (q : Nat) (h : Section → Section) : (x.setSec q h).fifoA = x.fifoA := rfl
@[simp] theorem Tile.setSec_fifoB (x : Tile) (q : Nat) (h : Section → Section) : (x.setSec q h).fifoB = x.fifoB := rfl
@[simp] theorem Tile.setSec_sqa (x : Tile) (q : Nat) (h : Section → Section) : (x.setSec q h).sqa = x.sqa := rfl
@[simp] theorem Tile.setSec_sqb (x : Tile) (q : Nat) (h : Section → Section) : (x.setSec q h).sqb = x.sqb := rfl
@[simp] theorem Tile.setSec_waiters (x : Tile) (q : Nat) (h : Section → Section) : (x.setSec q h).waiters = x.waiters := rfl
@[simp] theorem Tile.setSec_pc (x : Tile) (q : Nat) (h : Section → Section) : (x.setSec q h).pc = x.pc := rfl
@[simp] theorem Tile.setSec_sIn (x : Tile) (q : Nat) (h : Section → Section) : (x.setSec q h).sIn = x.sIn := rfl
@[simp] theorem Tile.setSec_stop (x : Tile) (q : Nat) (h : Section → Section) : (x.setSec q h).stop = x.stop := rfl
@[simp] theorem Tile.setSec_halted (x : Tile) (q : Nat) (h : Section → Section) : (x.setSec q h).halted = x.halted := rfl
@[simp] theorem Tile.setSec_waits (x : Tile) (q : Nat) (h : Section → Section) : (x.setSec q h).waits = x.waits := rfl
@[simp] theorem Tile.setSec_pcs (x : Tile) (q : Nat) (h : Section → Section) : (x.setSec q h).pcs = x.pcs := rfl
@[simp] theorem Tile.setSec_fpNow (x : Tile) (q : Nat) (h : Section → Section) : (x.setSec q h).fpNow = x.fpNow := rfl
@[simp] theorem Tile.setSec_bpFired (x : Tile) (q : Nat) (h : Section → Section) : (x.setSec q h).bpFired = x.bpFired := rfl
@[simp] theorem Tile.setSec_codeOld (x : Tile) (q : Nat) (h : Section → Section) : (x.setSec q h).codeOld = x.codeOld := rfl
@[simp] theorem Tile.setSec_late (x : Tile) (q : Nat) (h : Section → Section) : (x.setSec q h).late = x.late := rfl
@[simp] theorem Tile.setSec_rowsOut (x : Tile) (q : Nat) (h : Section → Section) : (x.setSec q h).rowsOut = x.rowsOut := rfl
@[simp] theorem Tile.setSec_rowsIn (x : Tile) (q : Nat) (h : Section → Section) : (x.setSec q h).rowsIn = x.rowsIn := rfl
@[simp] theorem Tile.setSec_copies (x : Tile) (q : Nat) (h : Section → Section) : (x.setSec q h).copies = x.copies := rfl
@[simp] theorem Tile.setSec_ran (x : Tile) (q : Nat) (h : Section → Section) : (x.setSec q h).ran = x.ran := rfl
@[simp] theorem Tile.setSec_missed (x : Tile) (q : Nat) (h : Section → Section) : (x.setSec q h).missed = x.missed := rfl
@[simp] theorem Tile.setSec_pcsPrev (x : Tile) (q : Nat) (h : Section → Section) : (x.setSec q h).pcsPrev = x.pcsPrev := rfl

/-! ### Ended sections leave -/

@[simp] theorem Tile.sweep_point (x : Tile)  : (x.sweep).point = x.point := rfl
@[simp] theorem Tile.sweep_g (x : Tile)  : (x.sweep).g = x.g := rfl
@[simp] theorem Tile.sweep_gEmpty (x : Tile)  : (x.sweep).gEmpty = x.gEmpty := rfl
@[simp] theorem Tile.sweep_c (x : Tile)  : (x.sweep).c = x.c := rfl
@[simp] theorem Tile.sweep_sw (x : Tile)  : (x.sweep).sw = x.sw := rfl
@[simp] theorem Tile.sweep_rb (x : Tile)  : (x.sweep).rb = x.rb := rfl
@[simp] theorem Tile.sweep_ks (x : Tile)  : (x.sweep).ks = x.ks := rfl
@[simp] theorem Tile.sweep_v (x : Tile)  : (x.sweep).v = x.v := rfl
@[simp] theorem Tile.sweep_vEmpty (x : Tile)  : (x.sweep).vEmpty = x.vEmpty := rfl
@[simp] theorem Tile.sweep_p (x : Tile)  : (x.sweep).p = x.p := rfl
@[simp] theorem Tile.sweep_m (x : Tile)  : (x.sweep).m = x.m := rfl
@[simp] theorem Tile.sweep_lg (x : Tile)  : (x.sweep).lg = x.lg := rfl
@[simp] theorem Tile.sweep_fp (x : Tile)  : (x.sweep).fp = x.fp := rfl
@[simp] theorem Tile.sweep_seed (x : Tile)  : (x.sweep).seed = x.seed := rfl
@[simp] theorem Tile.sweep_priv (x : Tile)  : (x.sweep).priv = x.priv := rfl
@[simp] theorem Tile.sweep_layout (x : Tile)  : (x.sweep).layout = x.layout := rfl
@[simp] theorem Tile.sweep_rings (x : Tile)  : (x.sweep).rings = x.rings := rfl
@[simp] theorem Tile.sweep_sp (x : Tile)  : (x.sweep).sp = x.sp := rfl
@[simp] theorem Tile.sweep_inflight (x : Tile)  : (x.sweep).inflight = x.inflight := rfl
@[simp] theorem Tile.sweep_chan (x : Tile)  : (x.sweep).chan = x.chan := rfl
@[simp] theorem Tile.sweep_fifoA (x : Tile)  : (x.sweep).fifoA = x.fifoA := rfl
@[simp] theorem Tile.sweep_fifoB (x : Tile)  : (x.sweep).fifoB = x.fifoB := rfl
@[simp] theorem Tile.sweep_sqa (x : Tile)  : (x.sweep).sqa = x.sqa := rfl
@[simp] theorem Tile.sweep_sqb (x : Tile)  : (x.sweep).sqb = x.sqb := rfl
@[simp] theorem Tile.sweep_waiters (x : Tile)  : (x.sweep).waiters = x.waiters := rfl
@[simp] theorem Tile.sweep_pc (x : Tile)  : (x.sweep).pc = x.pc := rfl
@[simp] theorem Tile.sweep_sIn (x : Tile)  : (x.sweep).sIn = x.sIn := rfl
@[simp] theorem Tile.sweep_stop (x : Tile)  : (x.sweep).stop = x.stop := rfl
@[simp] theorem Tile.sweep_halted (x : Tile)  : (x.sweep).halted = x.halted := rfl
@[simp] theorem Tile.sweep_waits (x : Tile)  : (x.sweep).waits = x.waits := rfl
@[simp] theorem Tile.sweep_pcs (x : Tile)  : (x.sweep).pcs = x.pcs := rfl
@[simp] theorem Tile.sweep_fpNow (x : Tile)  : (x.sweep).fpNow = x.fpNow := rfl
@[simp] theorem Tile.sweep_bpFired (x : Tile)  : (x.sweep).bpFired = x.bpFired := rfl
@[simp] theorem Tile.sweep_codeOld (x : Tile)  : (x.sweep).codeOld = x.codeOld := rfl
@[simp] theorem Tile.sweep_late (x : Tile)  : (x.sweep).late = x.late := rfl
@[simp] theorem Tile.sweep_rowsOut (x : Tile)  : (x.sweep).rowsOut = x.rowsOut := rfl
@[simp] theorem Tile.sweep_rowsIn (x : Tile)  : (x.sweep).rowsIn = x.rowsIn := rfl
@[simp] theorem Tile.sweep_copies (x : Tile)  : (x.sweep).copies = x.copies := rfl
@[simp] theorem Tile.sweep_ran (x : Tile)  : (x.sweep).ran = x.ran := rfl
@[simp] theorem Tile.sweep_missed (x : Tile)  : (x.sweep).missed = x.missed := rfl
@[simp] theorem Tile.sweep_pcsPrev (x : Tile)  : (x.sweep).pcsPrev = x.pcsPrev := rfl

/-! ### A general register written (g0 discards) -/

@[simp] theorem Tile.writeG_point (x : Tile) (n : Nat) (v : W64) : (x.writeG n v).point = x.point := by unfold Tile.writeG; split <;> rfl
@[simp] theorem Tile.writeG_gEmpty (x : Tile) (n : Nat) (v : W64) : (x.writeG n v).gEmpty = x.gEmpty := by unfold Tile.writeG; split <;> rfl
@[simp] theorem Tile.writeG_c (x : Tile) (n : Nat) (v : W64) : (x.writeG n v).c = x.c := by unfold Tile.writeG; split <;> rfl
@[simp] theorem Tile.writeG_sw (x : Tile) (n : Nat) (v : W64) : (x.writeG n v).sw = x.sw := by unfold Tile.writeG; split <;> rfl
@[simp] theorem Tile.writeG_rb (x : Tile) (n : Nat) (v : W64) : (x.writeG n v).rb = x.rb := by unfold Tile.writeG; split <;> rfl
@[simp] theorem Tile.writeG_ks (x : Tile) (n : Nat) (v : W64) : (x.writeG n v).ks = x.ks := by unfold Tile.writeG; split <;> rfl
@[simp] theorem Tile.writeG_v (x : Tile) (n : Nat) (v : W64) : (x.writeG n v).v = x.v := by unfold Tile.writeG; split <;> rfl
@[simp] theorem Tile.writeG_vEmpty (x : Tile) (n : Nat) (v : W64) : (x.writeG n v).vEmpty = x.vEmpty := by unfold Tile.writeG; split <;> rfl
@[simp] theorem Tile.writeG_p (x : Tile) (n : Nat) (v : W64) : (x.writeG n v).p = x.p := by unfold Tile.writeG; split <;> rfl
@[simp] theorem Tile.writeG_m (x : Tile) (n : Nat) (v : W64) : (x.writeG n v).m = x.m := by unfold Tile.writeG; split <;> rfl
@[simp] theorem Tile.writeG_lg (x : Tile) (n : Nat) (v : W64) : (x.writeG n v).lg = x.lg := by unfold Tile.writeG; split <;> rfl
@[simp] theorem Tile.writeG_fp (x : Tile) (n : Nat) (v : W64) : (x.writeG n v).fp = x.fp := by unfold Tile.writeG; split <;> rfl
@[simp] theorem Tile.writeG_seed (x : Tile) (n : Nat) (v : W64) : (x.writeG n v).seed = x.seed := by unfold Tile.writeG; split <;> rfl
@[simp] theorem Tile.writeG_priv (x : Tile) (n : Nat) (v : W64) : (x.writeG n v).priv = x.priv := by unfold Tile.writeG; split <;> rfl
@[simp] theorem Tile.writeG_layout (x : Tile) (n : Nat) (v : W64) : (x.writeG n v).layout = x.layout := by unfold Tile.writeG; split <;> rfl
@[simp] theorem Tile.writeG_rings (x : Tile) (n : Nat) (v : W64) : (x.writeG n v).rings = x.rings := by unfold Tile.writeG; split <;> rfl
@[simp] theorem Tile.writeG_sp (x : Tile) (n : Nat) (v : W64) : (x.writeG n v).sp = x.sp := by unfold Tile.writeG; split <;> rfl
@[simp] theorem Tile.writeG_secs (x : Tile) (n : Nat) (v : W64) : (x.writeG n v).secs = x.secs := by unfold Tile.writeG; split <;> rfl
@[simp] theorem Tile.writeG_inflight (x : Tile) (n : Nat) (v : W64) : (x.writeG n v).inflight = x.inflight := by unfold Tile.writeG; split <;> rfl
@[simp] theorem Tile.writeG_chan (x : Tile) (n : Nat) (v : W64) : (x.writeG n v).chan = x.chan := by unfold Tile.writeG; split <;> rfl
@[simp] theorem Tile.writeG_fifoA (x : Tile) (n : Nat) (v : W64) : (x.writeG n v).fifoA = x.fifoA := by unfold Tile.writeG; split <;> rfl
@[simp] theorem Tile.writeG_fifoB (x : Tile) (n : Nat) (v : W64) : (x.writeG n v).fifoB = x.fifoB := by unfold Tile.writeG; split <;> rfl
@[simp] theorem Tile.writeG_sqa (x : Tile) (n : Nat) (v : W64) : (x.writeG n v).sqa = x.sqa := by unfold Tile.writeG; split <;> rfl
@[simp] theorem Tile.writeG_sqb (x : Tile) (n : Nat) (v : W64) : (x.writeG n v).sqb = x.sqb := by unfold Tile.writeG; split <;> rfl
@[simp] theorem Tile.writeG_waiters (x : Tile) (n : Nat) (v : W64) : (x.writeG n v).waiters = x.waiters := by unfold Tile.writeG; split <;> rfl
@[simp] theorem Tile.writeG_pc (x : Tile) (n : Nat) (v : W64) : (x.writeG n v).pc = x.pc := by unfold Tile.writeG; split <;> rfl
@[simp] theorem Tile.writeG_sIn (x : Tile) (n : Nat) (v : W64) : (x.writeG n v).sIn = x.sIn := by unfold Tile.writeG; split <;> rfl
@[simp] theorem Tile.writeG_stop (x : Tile) (n : Nat) (v : W64) : (x.writeG n v).stop = x.stop := by unfold Tile.writeG; split <;> rfl
@[simp] theorem Tile.writeG_halted (x : Tile) (n : Nat) (v : W64) : (x.writeG n v).halted = x.halted := by unfold Tile.writeG; split <;> rfl
@[simp] theorem Tile.writeG_waits (x : Tile) (n : Nat) (v : W64) : (x.writeG n v).waits = x.waits := by unfold Tile.writeG; split <;> rfl
@[simp] theorem Tile.writeG_pcs (x : Tile) (n : Nat) (v : W64) : (x.writeG n v).pcs = x.pcs := by unfold Tile.writeG; split <;> rfl
@[simp] theorem Tile.writeG_fpNow (x : Tile) (n : Nat) (v : W64) : (x.writeG n v).fpNow = x.fpNow := by unfold Tile.writeG; split <;> rfl
@[simp] theorem Tile.writeG_bpFired (x : Tile) (n : Nat) (v : W64) : (x.writeG n v).bpFired = x.bpFired := by unfold Tile.writeG; split <;> rfl
@[simp] theorem Tile.writeG_codeOld (x : Tile) (n : Nat) (v : W64) : (x.writeG n v).codeOld = x.codeOld := by unfold Tile.writeG; split <;> rfl
@[simp] theorem Tile.writeG_late (x : Tile) (n : Nat) (v : W64) : (x.writeG n v).late = x.late := by unfold Tile.writeG; split <;> rfl
@[simp] theorem Tile.writeG_rowsOut (x : Tile) (n : Nat) (v : W64) : (x.writeG n v).rowsOut = x.rowsOut := by unfold Tile.writeG; split <;> rfl
@[simp] theorem Tile.writeG_rowsIn (x : Tile) (n : Nat) (v : W64) : (x.writeG n v).rowsIn = x.rowsIn := by unfold Tile.writeG; split <;> rfl
@[simp] theorem Tile.writeG_copies (x : Tile) (n : Nat) (v : W64) : (x.writeG n v).copies = x.copies := by unfold Tile.writeG; split <;> rfl
@[simp] theorem Tile.writeG_ran (x : Tile) (n : Nat) (v : W64) : (x.writeG n v).ran = x.ran := by unfold Tile.writeG; split <;> rfl
@[simp] theorem Tile.writeG_missed (x : Tile) (n : Nat) (v : W64) : (x.writeG n v).missed = x.missed := by unfold Tile.writeG; split <;> rfl
@[simp] theorem Tile.writeG_pcsPrev (x : Tile) (n : Nat) (v : W64) : (x.writeG n v).pcsPrev = x.pcsPrev := by unfold Tile.writeG; split <;> rfl

/-! ### A general register marked (g0 stays full) -/

@[simp] theorem Tile.markG_point (x : Tile) (n : Nat) (e : Bool) : (x.markG n e).point = x.point := by unfold Tile.markG; split <;> rfl
@[simp] theorem Tile.markG_g (x : Tile) (n : Nat) (e : Bool) : (x.markG n e).g = x.g := by unfold Tile.markG; split <;> rfl
@[simp] theorem Tile.markG_c (x : Tile) (n : Nat) (e : Bool) : (x.markG n e).c = x.c := by unfold Tile.markG; split <;> rfl
@[simp] theorem Tile.markG_sw (x : Tile) (n : Nat) (e : Bool) : (x.markG n e).sw = x.sw := by unfold Tile.markG; split <;> rfl
@[simp] theorem Tile.markG_rb (x : Tile) (n : Nat) (e : Bool) : (x.markG n e).rb = x.rb := by unfold Tile.markG; split <;> rfl
@[simp] theorem Tile.markG_ks (x : Tile) (n : Nat) (e : Bool) : (x.markG n e).ks = x.ks := by unfold Tile.markG; split <;> rfl
@[simp] theorem Tile.markG_v (x : Tile) (n : Nat) (e : Bool) : (x.markG n e).v = x.v := by unfold Tile.markG; split <;> rfl
@[simp] theorem Tile.markG_vEmpty (x : Tile) (n : Nat) (e : Bool) : (x.markG n e).vEmpty = x.vEmpty := by unfold Tile.markG; split <;> rfl
@[simp] theorem Tile.markG_p (x : Tile) (n : Nat) (e : Bool) : (x.markG n e).p = x.p := by unfold Tile.markG; split <;> rfl
@[simp] theorem Tile.markG_m (x : Tile) (n : Nat) (e : Bool) : (x.markG n e).m = x.m := by unfold Tile.markG; split <;> rfl
@[simp] theorem Tile.markG_lg (x : Tile) (n : Nat) (e : Bool) : (x.markG n e).lg = x.lg := by unfold Tile.markG; split <;> rfl
@[simp] theorem Tile.markG_fp (x : Tile) (n : Nat) (e : Bool) : (x.markG n e).fp = x.fp := by unfold Tile.markG; split <;> rfl
@[simp] theorem Tile.markG_seed (x : Tile) (n : Nat) (e : Bool) : (x.markG n e).seed = x.seed := by unfold Tile.markG; split <;> rfl
@[simp] theorem Tile.markG_priv (x : Tile) (n : Nat) (e : Bool) : (x.markG n e).priv = x.priv := by unfold Tile.markG; split <;> rfl
@[simp] theorem Tile.markG_layout (x : Tile) (n : Nat) (e : Bool) : (x.markG n e).layout = x.layout := by unfold Tile.markG; split <;> rfl
@[simp] theorem Tile.markG_rings (x : Tile) (n : Nat) (e : Bool) : (x.markG n e).rings = x.rings := by unfold Tile.markG; split <;> rfl
@[simp] theorem Tile.markG_sp (x : Tile) (n : Nat) (e : Bool) : (x.markG n e).sp = x.sp := by unfold Tile.markG; split <;> rfl
@[simp] theorem Tile.markG_secs (x : Tile) (n : Nat) (e : Bool) : (x.markG n e).secs = x.secs := by unfold Tile.markG; split <;> rfl
@[simp] theorem Tile.markG_inflight (x : Tile) (n : Nat) (e : Bool) : (x.markG n e).inflight = x.inflight := by unfold Tile.markG; split <;> rfl
@[simp] theorem Tile.markG_chan (x : Tile) (n : Nat) (e : Bool) : (x.markG n e).chan = x.chan := by unfold Tile.markG; split <;> rfl
@[simp] theorem Tile.markG_fifoA (x : Tile) (n : Nat) (e : Bool) : (x.markG n e).fifoA = x.fifoA := by unfold Tile.markG; split <;> rfl
@[simp] theorem Tile.markG_fifoB (x : Tile) (n : Nat) (e : Bool) : (x.markG n e).fifoB = x.fifoB := by unfold Tile.markG; split <;> rfl
@[simp] theorem Tile.markG_sqa (x : Tile) (n : Nat) (e : Bool) : (x.markG n e).sqa = x.sqa := by unfold Tile.markG; split <;> rfl
@[simp] theorem Tile.markG_sqb (x : Tile) (n : Nat) (e : Bool) : (x.markG n e).sqb = x.sqb := by unfold Tile.markG; split <;> rfl
@[simp] theorem Tile.markG_waiters (x : Tile) (n : Nat) (e : Bool) : (x.markG n e).waiters = x.waiters := by unfold Tile.markG; split <;> rfl
@[simp] theorem Tile.markG_pc (x : Tile) (n : Nat) (e : Bool) : (x.markG n e).pc = x.pc := by unfold Tile.markG; split <;> rfl
@[simp] theorem Tile.markG_sIn (x : Tile) (n : Nat) (e : Bool) : (x.markG n e).sIn = x.sIn := by unfold Tile.markG; split <;> rfl
@[simp] theorem Tile.markG_stop (x : Tile) (n : Nat) (e : Bool) : (x.markG n e).stop = x.stop := by unfold Tile.markG; split <;> rfl
@[simp] theorem Tile.markG_halted (x : Tile) (n : Nat) (e : Bool) : (x.markG n e).halted = x.halted := by unfold Tile.markG; split <;> rfl
@[simp] theorem Tile.markG_waits (x : Tile) (n : Nat) (e : Bool) : (x.markG n e).waits = x.waits := by unfold Tile.markG; split <;> rfl
@[simp] theorem Tile.markG_pcs (x : Tile) (n : Nat) (e : Bool) : (x.markG n e).pcs = x.pcs := by unfold Tile.markG; split <;> rfl
@[simp] theorem Tile.markG_fpNow (x : Tile) (n : Nat) (e : Bool) : (x.markG n e).fpNow = x.fpNow := by unfold Tile.markG; split <;> rfl
@[simp] theorem Tile.markG_bpFired (x : Tile) (n : Nat) (e : Bool) : (x.markG n e).bpFired = x.bpFired := by unfold Tile.markG; split <;> rfl
@[simp] theorem Tile.markG_codeOld (x : Tile) (n : Nat) (e : Bool) : (x.markG n e).codeOld = x.codeOld := by unfold Tile.markG; split <;> rfl
@[simp] theorem Tile.markG_late (x : Tile) (n : Nat) (e : Bool) : (x.markG n e).late = x.late := by unfold Tile.markG; split <;> rfl
@[simp] theorem Tile.markG_rowsOut (x : Tile) (n : Nat) (e : Bool) : (x.markG n e).rowsOut = x.rowsOut := by unfold Tile.markG; split <;> rfl
@[simp] theorem Tile.markG_rowsIn (x : Tile) (n : Nat) (e : Bool) : (x.markG n e).rowsIn = x.rowsIn := by unfold Tile.markG; split <;> rfl
@[simp] theorem Tile.markG_copies (x : Tile) (n : Nat) (e : Bool) : (x.markG n e).copies = x.copies := by unfold Tile.markG; split <;> rfl
@[simp] theorem Tile.markG_ran (x : Tile) (n : Nat) (e : Bool) : (x.markG n e).ran = x.ran := by unfold Tile.markG; split <;> rfl
@[simp] theorem Tile.markG_missed (x : Tile) (n : Nat) (e : Bool) : (x.markG n e).missed = x.missed := by unfold Tile.markG; split <;> rfl
@[simp] theorem Tile.markG_pcsPrev (x : Tile) (n : Nat) (e : Bool) : (x.markG n e).pcsPrev = x.pcsPrev := by unfold Tile.markG; split <;> rfl

/-! ### A scalar predicate written (c0 discards) -/

@[simp] theorem Tile.writeC_point (x : Tile) (n : Nat) (b : Bool) : (x.writeC n b).point = x.point := by unfold Tile.writeC; split <;> rfl
@[simp] theorem Tile.writeC_g (x : Tile) (n : Nat) (b : Bool) : (x.writeC n b).g = x.g := by unfold Tile.writeC; split <;> rfl
@[simp] theorem Tile.writeC_gEmpty (x : Tile) (n : Nat) (b : Bool) : (x.writeC n b).gEmpty = x.gEmpty := by unfold Tile.writeC; split <;> rfl
@[simp] theorem Tile.writeC_sw (x : Tile) (n : Nat) (b : Bool) : (x.writeC n b).sw = x.sw := by unfold Tile.writeC; split <;> rfl
@[simp] theorem Tile.writeC_rb (x : Tile) (n : Nat) (b : Bool) : (x.writeC n b).rb = x.rb := by unfold Tile.writeC; split <;> rfl
@[simp] theorem Tile.writeC_ks (x : Tile) (n : Nat) (b : Bool) : (x.writeC n b).ks = x.ks := by unfold Tile.writeC; split <;> rfl
@[simp] theorem Tile.writeC_v (x : Tile) (n : Nat) (b : Bool) : (x.writeC n b).v = x.v := by unfold Tile.writeC; split <;> rfl
@[simp] theorem Tile.writeC_vEmpty (x : Tile) (n : Nat) (b : Bool) : (x.writeC n b).vEmpty = x.vEmpty := by unfold Tile.writeC; split <;> rfl
@[simp] theorem Tile.writeC_p (x : Tile) (n : Nat) (b : Bool) : (x.writeC n b).p = x.p := by unfold Tile.writeC; split <;> rfl
@[simp] theorem Tile.writeC_m (x : Tile) (n : Nat) (b : Bool) : (x.writeC n b).m = x.m := by unfold Tile.writeC; split <;> rfl
@[simp] theorem Tile.writeC_lg (x : Tile) (n : Nat) (b : Bool) : (x.writeC n b).lg = x.lg := by unfold Tile.writeC; split <;> rfl
@[simp] theorem Tile.writeC_fp (x : Tile) (n : Nat) (b : Bool) : (x.writeC n b).fp = x.fp := by unfold Tile.writeC; split <;> rfl
@[simp] theorem Tile.writeC_seed (x : Tile) (n : Nat) (b : Bool) : (x.writeC n b).seed = x.seed := by unfold Tile.writeC; split <;> rfl
@[simp] theorem Tile.writeC_priv (x : Tile) (n : Nat) (b : Bool) : (x.writeC n b).priv = x.priv := by unfold Tile.writeC; split <;> rfl
@[simp] theorem Tile.writeC_layout (x : Tile) (n : Nat) (b : Bool) : (x.writeC n b).layout = x.layout := by unfold Tile.writeC; split <;> rfl
@[simp] theorem Tile.writeC_rings (x : Tile) (n : Nat) (b : Bool) : (x.writeC n b).rings = x.rings := by unfold Tile.writeC; split <;> rfl
@[simp] theorem Tile.writeC_sp (x : Tile) (n : Nat) (b : Bool) : (x.writeC n b).sp = x.sp := by unfold Tile.writeC; split <;> rfl
@[simp] theorem Tile.writeC_secs (x : Tile) (n : Nat) (b : Bool) : (x.writeC n b).secs = x.secs := by unfold Tile.writeC; split <;> rfl
@[simp] theorem Tile.writeC_inflight (x : Tile) (n : Nat) (b : Bool) : (x.writeC n b).inflight = x.inflight := by unfold Tile.writeC; split <;> rfl
@[simp] theorem Tile.writeC_chan (x : Tile) (n : Nat) (b : Bool) : (x.writeC n b).chan = x.chan := by unfold Tile.writeC; split <;> rfl
@[simp] theorem Tile.writeC_fifoA (x : Tile) (n : Nat) (b : Bool) : (x.writeC n b).fifoA = x.fifoA := by unfold Tile.writeC; split <;> rfl
@[simp] theorem Tile.writeC_fifoB (x : Tile) (n : Nat) (b : Bool) : (x.writeC n b).fifoB = x.fifoB := by unfold Tile.writeC; split <;> rfl
@[simp] theorem Tile.writeC_sqa (x : Tile) (n : Nat) (b : Bool) : (x.writeC n b).sqa = x.sqa := by unfold Tile.writeC; split <;> rfl
@[simp] theorem Tile.writeC_sqb (x : Tile) (n : Nat) (b : Bool) : (x.writeC n b).sqb = x.sqb := by unfold Tile.writeC; split <;> rfl
@[simp] theorem Tile.writeC_waiters (x : Tile) (n : Nat) (b : Bool) : (x.writeC n b).waiters = x.waiters := by unfold Tile.writeC; split <;> rfl
@[simp] theorem Tile.writeC_pc (x : Tile) (n : Nat) (b : Bool) : (x.writeC n b).pc = x.pc := by unfold Tile.writeC; split <;> rfl
@[simp] theorem Tile.writeC_sIn (x : Tile) (n : Nat) (b : Bool) : (x.writeC n b).sIn = x.sIn := by unfold Tile.writeC; split <;> rfl
@[simp] theorem Tile.writeC_stop (x : Tile) (n : Nat) (b : Bool) : (x.writeC n b).stop = x.stop := by unfold Tile.writeC; split <;> rfl
@[simp] theorem Tile.writeC_halted (x : Tile) (n : Nat) (b : Bool) : (x.writeC n b).halted = x.halted := by unfold Tile.writeC; split <;> rfl
@[simp] theorem Tile.writeC_waits (x : Tile) (n : Nat) (b : Bool) : (x.writeC n b).waits = x.waits := by unfold Tile.writeC; split <;> rfl
@[simp] theorem Tile.writeC_pcs (x : Tile) (n : Nat) (b : Bool) : (x.writeC n b).pcs = x.pcs := by unfold Tile.writeC; split <;> rfl
@[simp] theorem Tile.writeC_fpNow (x : Tile) (n : Nat) (b : Bool) : (x.writeC n b).fpNow = x.fpNow := by unfold Tile.writeC; split <;> rfl
@[simp] theorem Tile.writeC_bpFired (x : Tile) (n : Nat) (b : Bool) : (x.writeC n b).bpFired = x.bpFired := by unfold Tile.writeC; split <;> rfl
@[simp] theorem Tile.writeC_codeOld (x : Tile) (n : Nat) (b : Bool) : (x.writeC n b).codeOld = x.codeOld := by unfold Tile.writeC; split <;> rfl
@[simp] theorem Tile.writeC_late (x : Tile) (n : Nat) (b : Bool) : (x.writeC n b).late = x.late := by unfold Tile.writeC; split <;> rfl
@[simp] theorem Tile.writeC_rowsOut (x : Tile) (n : Nat) (b : Bool) : (x.writeC n b).rowsOut = x.rowsOut := by unfold Tile.writeC; split <;> rfl
@[simp] theorem Tile.writeC_rowsIn (x : Tile) (n : Nat) (b : Bool) : (x.writeC n b).rowsIn = x.rowsIn := by unfold Tile.writeC; split <;> rfl
@[simp] theorem Tile.writeC_copies (x : Tile) (n : Nat) (b : Bool) : (x.writeC n b).copies = x.copies := by unfold Tile.writeC; split <;> rfl
@[simp] theorem Tile.writeC_ran (x : Tile) (n : Nat) (b : Bool) : (x.writeC n b).ran = x.ran := by unfold Tile.writeC; split <;> rfl
@[simp] theorem Tile.writeC_missed (x : Tile) (n : Nat) (b : Bool) : (x.writeC n b).missed = x.missed := by unfold Tile.writeC; split <;> rfl
@[simp] theorem Tile.writeC_pcsPrev (x : Tile) (n : Nat) (b : Bool) : (x.writeC n b).pcsPrev = x.pcsPrev := by unfold Tile.writeC; split <;> rfl

/-! ### A lane predicate written (p0 discards) -/

@[simp] theorem Tile.writeP_point (x : Tile) (n : Nat) (v : PMask) : (x.writeP n v).point = x.point := by unfold Tile.writeP; split <;> rfl
@[simp] theorem Tile.writeP_g (x : Tile) (n : Nat) (v : PMask) : (x.writeP n v).g = x.g := by unfold Tile.writeP; split <;> rfl
@[simp] theorem Tile.writeP_gEmpty (x : Tile) (n : Nat) (v : PMask) : (x.writeP n v).gEmpty = x.gEmpty := by unfold Tile.writeP; split <;> rfl
@[simp] theorem Tile.writeP_c (x : Tile) (n : Nat) (v : PMask) : (x.writeP n v).c = x.c := by unfold Tile.writeP; split <;> rfl
@[simp] theorem Tile.writeP_sw (x : Tile) (n : Nat) (v : PMask) : (x.writeP n v).sw = x.sw := by unfold Tile.writeP; split <;> rfl
@[simp] theorem Tile.writeP_rb (x : Tile) (n : Nat) (v : PMask) : (x.writeP n v).rb = x.rb := by unfold Tile.writeP; split <;> rfl
@[simp] theorem Tile.writeP_ks (x : Tile) (n : Nat) (v : PMask) : (x.writeP n v).ks = x.ks := by unfold Tile.writeP; split <;> rfl
@[simp] theorem Tile.writeP_v (x : Tile) (n : Nat) (v : PMask) : (x.writeP n v).v = x.v := by unfold Tile.writeP; split <;> rfl
@[simp] theorem Tile.writeP_vEmpty (x : Tile) (n : Nat) (v : PMask) : (x.writeP n v).vEmpty = x.vEmpty := by unfold Tile.writeP; split <;> rfl
@[simp] theorem Tile.writeP_m (x : Tile) (n : Nat) (v : PMask) : (x.writeP n v).m = x.m := by unfold Tile.writeP; split <;> rfl
@[simp] theorem Tile.writeP_lg (x : Tile) (n : Nat) (v : PMask) : (x.writeP n v).lg = x.lg := by unfold Tile.writeP; split <;> rfl
@[simp] theorem Tile.writeP_fp (x : Tile) (n : Nat) (v : PMask) : (x.writeP n v).fp = x.fp := by unfold Tile.writeP; split <;> rfl
@[simp] theorem Tile.writeP_seed (x : Tile) (n : Nat) (v : PMask) : (x.writeP n v).seed = x.seed := by unfold Tile.writeP; split <;> rfl
@[simp] theorem Tile.writeP_priv (x : Tile) (n : Nat) (v : PMask) : (x.writeP n v).priv = x.priv := by unfold Tile.writeP; split <;> rfl
@[simp] theorem Tile.writeP_layout (x : Tile) (n : Nat) (v : PMask) : (x.writeP n v).layout = x.layout := by unfold Tile.writeP; split <;> rfl
@[simp] theorem Tile.writeP_rings (x : Tile) (n : Nat) (v : PMask) : (x.writeP n v).rings = x.rings := by unfold Tile.writeP; split <;> rfl
@[simp] theorem Tile.writeP_sp (x : Tile) (n : Nat) (v : PMask) : (x.writeP n v).sp = x.sp := by unfold Tile.writeP; split <;> rfl
@[simp] theorem Tile.writeP_secs (x : Tile) (n : Nat) (v : PMask) : (x.writeP n v).secs = x.secs := by unfold Tile.writeP; split <;> rfl
@[simp] theorem Tile.writeP_inflight (x : Tile) (n : Nat) (v : PMask) : (x.writeP n v).inflight = x.inflight := by unfold Tile.writeP; split <;> rfl
@[simp] theorem Tile.writeP_chan (x : Tile) (n : Nat) (v : PMask) : (x.writeP n v).chan = x.chan := by unfold Tile.writeP; split <;> rfl
@[simp] theorem Tile.writeP_fifoA (x : Tile) (n : Nat) (v : PMask) : (x.writeP n v).fifoA = x.fifoA := by unfold Tile.writeP; split <;> rfl
@[simp] theorem Tile.writeP_fifoB (x : Tile) (n : Nat) (v : PMask) : (x.writeP n v).fifoB = x.fifoB := by unfold Tile.writeP; split <;> rfl
@[simp] theorem Tile.writeP_sqa (x : Tile) (n : Nat) (v : PMask) : (x.writeP n v).sqa = x.sqa := by unfold Tile.writeP; split <;> rfl
@[simp] theorem Tile.writeP_sqb (x : Tile) (n : Nat) (v : PMask) : (x.writeP n v).sqb = x.sqb := by unfold Tile.writeP; split <;> rfl
@[simp] theorem Tile.writeP_waiters (x : Tile) (n : Nat) (v : PMask) : (x.writeP n v).waiters = x.waiters := by unfold Tile.writeP; split <;> rfl
@[simp] theorem Tile.writeP_pc (x : Tile) (n : Nat) (v : PMask) : (x.writeP n v).pc = x.pc := by unfold Tile.writeP; split <;> rfl
@[simp] theorem Tile.writeP_sIn (x : Tile) (n : Nat) (v : PMask) : (x.writeP n v).sIn = x.sIn := by unfold Tile.writeP; split <;> rfl
@[simp] theorem Tile.writeP_stop (x : Tile) (n : Nat) (v : PMask) : (x.writeP n v).stop = x.stop := by unfold Tile.writeP; split <;> rfl
@[simp] theorem Tile.writeP_halted (x : Tile) (n : Nat) (v : PMask) : (x.writeP n v).halted = x.halted := by unfold Tile.writeP; split <;> rfl
@[simp] theorem Tile.writeP_waits (x : Tile) (n : Nat) (v : PMask) : (x.writeP n v).waits = x.waits := by unfold Tile.writeP; split <;> rfl
@[simp] theorem Tile.writeP_pcs (x : Tile) (n : Nat) (v : PMask) : (x.writeP n v).pcs = x.pcs := by unfold Tile.writeP; split <;> rfl
@[simp] theorem Tile.writeP_fpNow (x : Tile) (n : Nat) (v : PMask) : (x.writeP n v).fpNow = x.fpNow := by unfold Tile.writeP; split <;> rfl
@[simp] theorem Tile.writeP_bpFired (x : Tile) (n : Nat) (v : PMask) : (x.writeP n v).bpFired = x.bpFired := by unfold Tile.writeP; split <;> rfl
@[simp] theorem Tile.writeP_codeOld (x : Tile) (n : Nat) (v : PMask) : (x.writeP n v).codeOld = x.codeOld := by unfold Tile.writeP; split <;> rfl
@[simp] theorem Tile.writeP_late (x : Tile) (n : Nat) (v : PMask) : (x.writeP n v).late = x.late := by unfold Tile.writeP; split <;> rfl
@[simp] theorem Tile.writeP_rowsOut (x : Tile) (n : Nat) (v : PMask) : (x.writeP n v).rowsOut = x.rowsOut := by unfold Tile.writeP; split <;> rfl
@[simp] theorem Tile.writeP_rowsIn (x : Tile) (n : Nat) (v : PMask) : (x.writeP n v).rowsIn = x.rowsIn := by unfold Tile.writeP; split <;> rfl
@[simp] theorem Tile.writeP_copies (x : Tile) (n : Nat) (v : PMask) : (x.writeP n v).copies = x.copies := by unfold Tile.writeP; split <;> rfl
@[simp] theorem Tile.writeP_ran (x : Tile) (n : Nat) (v : PMask) : (x.writeP n v).ran = x.ran := by unfold Tile.writeP; split <;> rfl
@[simp] theorem Tile.writeP_missed (x : Tile) (n : Nat) (v : PMask) : (x.writeP n v).missed = x.missed := by unfold Tile.writeP; split <;> rfl
@[simp] theorem Tile.writeP_pcsPrev (x : Tile) (n : Nat) (v : PMask) : (x.writeP n v).pcsPrev = x.pcsPrev := by unfold Tile.writeP; split <;> rfl

/-! ### An event counted -/

@[simp] theorem Tile.count_point (x : Tile) (k n : Nat) : (x.count k n).point = x.point := by unfold Tile.count; split <;> rfl
@[simp] theorem Tile.count_g (x : Tile) (k n : Nat) : (x.count k n).g = x.g := by unfold Tile.count; split <;> rfl
@[simp] theorem Tile.count_gEmpty (x : Tile) (k n : Nat) : (x.count k n).gEmpty = x.gEmpty := by unfold Tile.count; split <;> rfl
@[simp] theorem Tile.count_c (x : Tile) (k n : Nat) : (x.count k n).c = x.c := by unfold Tile.count; split <;> rfl
@[simp] theorem Tile.count_sw (x : Tile) (k n : Nat) : (x.count k n).sw = x.sw := by unfold Tile.count; split <;> rfl
@[simp] theorem Tile.count_rb (x : Tile) (k n : Nat) : (x.count k n).rb = x.rb := by unfold Tile.count; split <;> rfl
@[simp] theorem Tile.count_ks (x : Tile) (k n : Nat) : (x.count k n).ks = x.ks := by unfold Tile.count; split <;> rfl
@[simp] theorem Tile.count_v (x : Tile) (k n : Nat) : (x.count k n).v = x.v := by unfold Tile.count; split <;> rfl
@[simp] theorem Tile.count_vEmpty (x : Tile) (k n : Nat) : (x.count k n).vEmpty = x.vEmpty := by unfold Tile.count; split <;> rfl
@[simp] theorem Tile.count_p (x : Tile) (k n : Nat) : (x.count k n).p = x.p := by unfold Tile.count; split <;> rfl
@[simp] theorem Tile.count_m (x : Tile) (k n : Nat) : (x.count k n).m = x.m := by unfold Tile.count; split <;> rfl
@[simp] theorem Tile.count_lg (x : Tile) (k n : Nat) : (x.count k n).lg = x.lg := by unfold Tile.count; split <;> rfl
@[simp] theorem Tile.count_fp (x : Tile) (k n : Nat) : (x.count k n).fp = x.fp := by unfold Tile.count; split <;> rfl
@[simp] theorem Tile.count_seed (x : Tile) (k n : Nat) : (x.count k n).seed = x.seed := by unfold Tile.count; split <;> rfl
@[simp] theorem Tile.count_priv (x : Tile) (k n : Nat) : (x.count k n).priv = x.priv := by unfold Tile.count; split <;> rfl
@[simp] theorem Tile.count_layout (x : Tile) (k n : Nat) : (x.count k n).layout = x.layout := by unfold Tile.count; split <;> rfl
@[simp] theorem Tile.count_rings (x : Tile) (k n : Nat) : (x.count k n).rings = x.rings := by unfold Tile.count; split <;> rfl
@[simp] theorem Tile.count_sp (x : Tile) (k n : Nat) : (x.count k n).sp = x.sp := by unfold Tile.count; split <;> rfl
@[simp] theorem Tile.count_secs (x : Tile) (k n : Nat) : (x.count k n).secs = x.secs := by unfold Tile.count; split <;> rfl
@[simp] theorem Tile.count_inflight (x : Tile) (k n : Nat) : (x.count k n).inflight = x.inflight := by unfold Tile.count; split <;> rfl
@[simp] theorem Tile.count_chan (x : Tile) (k n : Nat) : (x.count k n).chan = x.chan := by unfold Tile.count; split <;> rfl
@[simp] theorem Tile.count_fifoA (x : Tile) (k n : Nat) : (x.count k n).fifoA = x.fifoA := by unfold Tile.count; split <;> rfl
@[simp] theorem Tile.count_fifoB (x : Tile) (k n : Nat) : (x.count k n).fifoB = x.fifoB := by unfold Tile.count; split <;> rfl
@[simp] theorem Tile.count_sqa (x : Tile) (k n : Nat) : (x.count k n).sqa = x.sqa := by unfold Tile.count; split <;> rfl
@[simp] theorem Tile.count_sqb (x : Tile) (k n : Nat) : (x.count k n).sqb = x.sqb := by unfold Tile.count; split <;> rfl
@[simp] theorem Tile.count_waiters (x : Tile) (k n : Nat) : (x.count k n).waiters = x.waiters := by unfold Tile.count; split <;> rfl
@[simp] theorem Tile.count_pc (x : Tile) (k n : Nat) : (x.count k n).pc = x.pc := by unfold Tile.count; split <;> rfl
@[simp] theorem Tile.count_sIn (x : Tile) (k n : Nat) : (x.count k n).sIn = x.sIn := by unfold Tile.count; split <;> rfl
@[simp] theorem Tile.count_stop (x : Tile) (k n : Nat) : (x.count k n).stop = x.stop := by unfold Tile.count; split <;> rfl
@[simp] theorem Tile.count_halted (x : Tile) (k n : Nat) : (x.count k n).halted = x.halted := by unfold Tile.count; split <;> rfl
@[simp] theorem Tile.count_waits (x : Tile) (k n : Nat) : (x.count k n).waits = x.waits := by unfold Tile.count; split <;> rfl
@[simp] theorem Tile.count_fpNow (x : Tile) (k n : Nat) : (x.count k n).fpNow = x.fpNow := by unfold Tile.count; split <;> rfl
@[simp] theorem Tile.count_bpFired (x : Tile) (k n : Nat) : (x.count k n).bpFired = x.bpFired := by unfold Tile.count; split <;> rfl
@[simp] theorem Tile.count_codeOld (x : Tile) (k n : Nat) : (x.count k n).codeOld = x.codeOld := by unfold Tile.count; split <;> rfl
@[simp] theorem Tile.count_late (x : Tile) (k n : Nat) : (x.count k n).late = x.late := by unfold Tile.count; split <;> rfl
@[simp] theorem Tile.count_rowsOut (x : Tile) (k n : Nat) : (x.count k n).rowsOut = x.rowsOut := by unfold Tile.count; split <;> rfl
@[simp] theorem Tile.count_rowsIn (x : Tile) (k n : Nat) : (x.count k n).rowsIn = x.rowsIn := by unfold Tile.count; split <;> rfl
@[simp] theorem Tile.count_copies (x : Tile) (k n : Nat) : (x.count k n).copies = x.copies := by unfold Tile.count; split <;> rfl
@[simp] theorem Tile.count_ran (x : Tile) (k n : Nat) : (x.count k n).ran = x.ran := by unfold Tile.count; split <;> rfl
@[simp] theorem Tile.count_missed (x : Tile) (k n : Nat) : (x.count k n).missed = x.missed := by unfold Tile.count; split <;> rfl
@[simp] theorem Tile.count_pcsPrev (x : Tile) (k n : Nat) : (x.count k n).pcsPrev = x.pcsPrev := by unfold Tile.count; split <;> rfl


/-! ### The point has executed a word -/
@[simp] theorem Tile.hasRun_point (x : Tile) : x.hasRun.point = x.point := rfl
@[simp] theorem Tile.hasRun_g (x : Tile) : x.hasRun.g = x.g := rfl
@[simp] theorem Tile.hasRun_gEmpty (x : Tile) : x.hasRun.gEmpty = x.gEmpty := rfl
@[simp] theorem Tile.hasRun_c (x : Tile) : x.hasRun.c = x.c := rfl
@[simp] theorem Tile.hasRun_sw (x : Tile) : x.hasRun.sw = x.sw := rfl
@[simp] theorem Tile.hasRun_rb (x : Tile) : x.hasRun.rb = x.rb := rfl
@[simp] theorem Tile.hasRun_ks (x : Tile) : x.hasRun.ks = x.ks := rfl
@[simp] theorem Tile.hasRun_v (x : Tile) : x.hasRun.v = x.v := rfl
@[simp] theorem Tile.hasRun_vEmpty (x : Tile) : x.hasRun.vEmpty = x.vEmpty := rfl
@[simp] theorem Tile.hasRun_p (x : Tile) : x.hasRun.p = x.p := rfl
@[simp] theorem Tile.hasRun_m (x : Tile) : x.hasRun.m = x.m := rfl
@[simp] theorem Tile.hasRun_lg (x : Tile) : x.hasRun.lg = x.lg := rfl
@[simp] theorem Tile.hasRun_fp (x : Tile) : x.hasRun.fp = x.fp := rfl
@[simp] theorem Tile.hasRun_seed (x : Tile) : x.hasRun.seed = x.seed := rfl
@[simp] theorem Tile.hasRun_priv (x : Tile) : x.hasRun.priv = x.priv := rfl
@[simp] theorem Tile.hasRun_layout (x : Tile) : x.hasRun.layout = x.layout := rfl
@[simp] theorem Tile.hasRun_rings (x : Tile) : x.hasRun.rings = x.rings := rfl
@[simp] theorem Tile.hasRun_sp (x : Tile) : x.hasRun.sp = x.sp := rfl
@[simp] theorem Tile.hasRun_secs (x : Tile) : x.hasRun.secs = x.secs := rfl
@[simp] theorem Tile.hasRun_inflight (x : Tile) : x.hasRun.inflight = x.inflight := rfl
@[simp] theorem Tile.hasRun_chan (x : Tile) : x.hasRun.chan = x.chan := rfl
@[simp] theorem Tile.hasRun_fifoA (x : Tile) : x.hasRun.fifoA = x.fifoA := rfl
@[simp] theorem Tile.hasRun_fifoB (x : Tile) : x.hasRun.fifoB = x.fifoB := rfl
@[simp] theorem Tile.hasRun_sqa (x : Tile) : x.hasRun.sqa = x.sqa := rfl
@[simp] theorem Tile.hasRun_sqb (x : Tile) : x.hasRun.sqb = x.sqb := rfl
@[simp] theorem Tile.hasRun_waiters (x : Tile) : x.hasRun.waiters = x.waiters := rfl
@[simp] theorem Tile.hasRun_pc (x : Tile) : x.hasRun.pc = x.pc := rfl
@[simp] theorem Tile.hasRun_sIn (x : Tile) : x.hasRun.sIn = x.sIn := rfl
@[simp] theorem Tile.hasRun_stop (x : Tile) : x.hasRun.stop = x.stop := rfl
@[simp] theorem Tile.hasRun_halted (x : Tile) : x.hasRun.halted = x.halted := rfl
@[simp] theorem Tile.hasRun_pcs (x : Tile) : x.hasRun.pcs = x.pcs := rfl
@[simp] theorem Tile.hasRun_fpNow (x : Tile) : x.hasRun.fpNow = x.fpNow := rfl
@[simp] theorem Tile.hasRun_bpFired (x : Tile) : x.hasRun.bpFired = x.bpFired := rfl
@[simp] theorem Tile.hasRun_codeOld (x : Tile) : x.hasRun.codeOld = x.codeOld := rfl
@[simp] theorem Tile.hasRun_late (x : Tile) : x.hasRun.late = x.late := rfl
@[simp] theorem Tile.hasRun_rowsOut (x : Tile) : x.hasRun.rowsOut = x.rowsOut := rfl
@[simp] theorem Tile.hasRun_rowsIn (x : Tile) : x.hasRun.rowsIn = x.rowsIn := rfl
@[simp] theorem Tile.hasRun_copies (x : Tile) : x.hasRun.copies = x.copies := rfl
@[simp] theorem Tile.hasRun_missed (x : Tile) : x.hasRun.missed = x.missed := rfl
@[simp] theorem Tile.hasRun_pcsPrev (x : Tile) : x.hasRun.pcsPrev = x.pcsPrev := rfl
@[simp] theorem Tile.hasRun_waits (x : Tile) : x.hasRun.waits = x.waits := rfl
@[simp] theorem Tile.hasRun_ran (x : Tile) : x.hasRun.ran = true := rfl

end Sys2Proof.Machine
end

