-- ==== Sys2Proof/Laws/Tile.lean ====
section
/-! SUPPORT. A read after a write, for each kind of register and for the tiles and transfer dies of the module. -/

namespace Sys2Proof.Machine

theorem State.tile_setTile (s : State) (t u : Nat) (x : Tile) :
    (s.setTile t x).tile u = if u = t then x else s.tile u := Assoc.get_set ..

@[simp] theorem State.tile_setTile_self (s : State) (t : Nat) (x : Tile) : (s.setTile t x).tile t = x := by
  simp [State.tile_setTile]

theorem State.tile_setTile_ne (s : State) {t u : Nat} (x : Tile) (h : u ≠ t) : (s.setTile t x).tile u = s.tile u := by
  simp [State.tile_setTile, h]

theorem State.die_setDie (s : State) (d e : Nat) (x : Die) :
    (s.setDie d x).die e = if e = d then x else s.die e := Assoc.get_set ..

@[simp] theorem State.die_setTile (s : State) (t d : Nat) (x : Tile) : (s.setTile t x).die d = s.die d := rfl

@[simp] theorem State.tile_setDie (s : State) (d t : Nat) (x : Die) : (s.setDie d x).tile t = s.tile t := rfl

/-- A register read after a general register is written: g0 reads 0 whatever is written to it (R86). -/
theorem Tile.readG_writeG (x : Tile) (n k : Nat) (v : W64) :
    (x.writeG n v).readG k = if k = n ∧ n ≠ 0 then v else x.readG k := by
  unfold Tile.writeG Tile.readG
  by_cases hn : n = 0
  · subst hn
    by_cases hk : k = 0 <;> simp [hk]
  · by_cases hk : k = 0
    · simp [hk, hn, Ne.symm hn]
    · simp [hn, hk, Assoc.get_set]

theorem Tile.readV_writeV (x : Tile) (n k : Nat) (v : VReg) :
    (x.writeV n v).readV k = if k = n then v else x.readV k := Assoc.get_set ..

theorem Tile.readM_writeM (x : Tile) (n k : Nat) (v : Sys2Proof.Acc) :
    (x.writeM n v).readM k = if k = n then v else x.readM k := Assoc.get_set ..

/-- p0 reads all ones whatever is written to it (R48). -/
theorem Tile.readP_writeP (x : Tile) (n k : Nat) (v : PMask) :
    (x.writeP n v).readP k = if k = n ∧ n ≠ 0 then v else x.readP k := by
  unfold Tile.writeP Tile.readP
  by_cases hn : n = 0
  · subst hn
    by_cases hk : k = 0 <;> simp [hk]
  · by_cases hk : k = 0
    · simp [hk, hn, Ne.symm hn]
    · simp [hn, hk, Assoc.get_set]

/-- c0 reads 1 whatever is written to it (R48). -/
theorem Tile.readC_writeC (x : Tile) (n k : Nat) (b : Bool) (hk : k < 8) :
    (x.writeC n b).readC k = if k = n ∧ n ≠ 0 then b else x.readC k := by
  unfold Tile.writeC Tile.readC
  by_cases hn : n = 0
  · subst hn
    by_cases hk : k = 0 <;> simp [hk]
  · by_cases h0 : k = 0
    · subst h0; simp [Ne.symm hn]
    · have hx : (1#8 <<< n).getLsbD k = decide (k = n) := by
        simp only [BitVec.getLsbD_shiftLeft, BitVec.getLsbD_one]
        by_cases e : k = n
        · subst e; simp [hk]
        · by_cases l : k < n
          · simp [l, e]
          · have : k - n ≠ 0 := by omega
            simp [l, e, this]
      simp only [if_neg hn]
      cases b
      · simp only [Bool.false_eq_true, if_false, BitVec.getLsbD_and, BitVec.getLsbD_not, hx, hk, decide_true, Bool.true_and]
        by_cases e : k = n <;> simp [e, hn]
      · simp only [if_true, BitVec.getLsbD_or, hx]
        by_cases e : k = n <;> simp [e, hn]

@[simp] theorem Tile.readG_zero (x : Tile) : x.readG 0 = 0 := rfl
@[simp] theorem Tile.readP_zero (x : Tile) : x.readP 0 = BitVec.allOnes 1024 := rfl
@[simp] theorem Tile.readC_zero (x : Tile) : x.readC 0 = true := by simp [Tile.readC]
@[simp] theorem Tile.emptyG_zero (x : Tile) : x.emptyG 0 = false := by simp [Tile.emptyG]

theorem Tile.readLay_writeLay (x : Tile) (n k v : Nat) :
    (x.writeLay n v).readLay k = if k = n then v % 2 ^ 512 else x.readLay k := by
  unfold Tile.readLay Tile.writeLay
  simp only [Assoc.get_set]
  split <;> simp [BitVec.toNat_ofNat]

theorem Tile.readRing_writeRing (x : Tile) (n k v : Nat) :
    (x.writeRing n v).readRing k = if k = n then v % 2 ^ 128 else x.readRing k := by
  unfold Tile.readRing Tile.writeRing
  simp only [Assoc.get_set]
  split <;> simp [BitVec.toNat_ofNat]

/-- A register read depends on the registers alone. -/
theorem Tile.readG_of_g {x y : Tile} (h : x.g = y.g) (n : Nat) : x.readG n = y.readG n := by simp [Tile.readG, h]

/-- A scratchpad byte after bytes are written within a row (R203). -/
theorem Tile.read_writeBytes (x : Tile) (a b : Nat) (need : CodeNeed) (bs : List Byte) :
    Memory.read (x.writeBytes a need bs).sp b =
      if a ≤ b ∧ b < a + bs.length then bs.getD (b - a) 0 else Memory.read x.sp b := by
  have h : ∀ r on, (x.noteCode r on need).sp = x.sp := by intro r on; unfold Tile.noteCode; split <;> rfl
  simp only [Tile.writeBytes, h, Memory.read_writeN]

/-! ### What an acquire or a section's start makes of older contents (R294) -/

/-- An acquire by the S engine is the one of its whole tile. -/
@[simp] theorem Tile.acquiredBy_S (x : Tile) (q n scope : Nat) : x.acquiredBy .S q n scope = x.acquired n scope := if_pos rfl

/-- What was ended stays so, and an entry more ends its own accesses. -/
theorem OldCopy.endedFor_append (c : OldCopy) (rs : List Ended) (e : Engine) (p : Nat) :
    OldCopy.endedFor { c with ended := c.ended ++ rs } e p = (c.endedFor e p || OldCopy.endedFor { c with ended := rs } e p) := by
  simp [OldCopy.endedFor]

/-- A section that names the acquire's, and no other, ends its own accesses. -/
theorem OldCopy.endedFor_follow (named : List Nat) (r : Ended) (c : OldCopy) (e : Engine) (p : Nat) :
    (OldCopy.follow named r c).endedFor e p =
      (c.endedFor e p || (c.follows named && OldCopy.endedFor { c with ended := [r] } e p)) := by
  unfold OldCopy.follow
  cases h : c.follows named <;> simp [OldCopy.endedFor_append]

end Sys2Proof.Machine
end

