-- ==== Sys2Proof/Laws/Forms.lean ====
section
/-! SUPPORT. The canonical forms of tables and memories: each update of the module keeps them; a table entry set twice is set once;
and what a byte of module memory reads as after bytes have been written. -/

namespace Sys2Proof.Machine

open Sys2Proof.Safety

variable {α : Type}

/-! ### An entry set twice -/

theorem Assoc.erase_of_notMem {k : Nat} {l : List (Nat × α)} (h : ∀ y, (k, y) ∉ l) : Assoc.erase k l = l := by
  induction l with
  | nil => rfl
  | cons c t ih =>
    obtain ⟨i, y⟩ := c
    have hi : i ≠ k := fun e => h y (e ▸ List.mem_cons_self ..)
    simp [Assoc.erase, hi, ih fun z hz => h z (List.mem_cons_of_mem _ hz)]

theorem Assoc.erase_erase (k : Nat) (l : List (Nat × α)) : Assoc.erase k (Assoc.erase k l) = Assoc.erase k l :=
  Assoc.erase_of_notMem fun y => Assoc.notMem_erase k y l

theorem Assoc.erase_insert {k : Nat} {x : α} {l : List (Nat × α)} (h : ∀ y, (k, y) ∉ l) :
    Assoc.erase k (Assoc.insert k x l) = l := by
  induction l with
  | nil => simp [Assoc.insert, Assoc.erase]
  | cons c t ih =>
    obtain ⟨i, y⟩ := c
    have hi : i ≠ k := fun e => h y (e ▸ List.mem_cons_self ..)
    have ht : ∀ z, (k, z) ∉ t := fun z hz => h z (List.mem_cons_of_mem _ hz)
    by_cases hk : k < i
    · simp [Assoc.insert, hk, Assoc.erase, hi, Assoc.erase_of_notMem ht]
    · simp [Assoc.insert, hk, Assoc.erase, hi, ih ht]

theorem Assoc.erase_set [DecidableEq α] (d : α) (k : Nat) (x : α) (l : List (Nat × α)) :
    Assoc.erase k (Assoc.set d k x l) = Assoc.erase k l := by
  unfold Assoc.set
  split
  · exact Assoc.erase_erase k l
  · exact Assoc.erase_insert fun y => Assoc.notMem_erase k y l

theorem Assoc.set_set [DecidableEq α] (d : α) (k : Nat) (x y : α) (l : List (Nat × α)) :
    Assoc.set d k y (Assoc.set d k x l) = Assoc.set d k y l := by
  have h := Assoc.erase_set d k x l
  generalize Assoc.set d k x l = m at h
  simp only [Assoc.set, h]

@[simp] theorem State.setTile_setTile (s : State) (t : Nat) (x y : Tile) : (s.setTile t x).setTile t y = s.setTile t y := by
  simp [State.setTile, Assoc.set_set]

@[simp] theorem State.setDie_setDie (s : State) (d : Nat) (x y : Die) : (s.setDie d x).setDie d y = s.setDie d y := by
  simp [State.setDie, Assoc.set_set]

/-! ### Tables whose unlisted entries are absent -/

theorem Tab.wf_cons (j : Nat) (x : α) (l : List (Nat × α)) :
    Tab.wf ((j, x) :: l) = true ↔ Assoc.above j l ∧ Tab.wf l = true := by
  induction l generalizing j x with
  | nil => simp [Tab.wf, Assoc.above]
  | cons c t ih =>
    obtain ⟨k, y⟩ := c
    have h := ih k y
    simp only [Tab.wf, Bool.and_eq_true, decide_eq_true_eq] at h ⊢
    constructor
    · rintro ⟨hjk, hw⟩
      refine ⟨?_, hw⟩
      intro p hp
      rcases List.mem_cons.mp hp with rfl | hp
      · exact hjk
      · exact lt_trans hjk ((h.mp hw).1 p hp)
    · rintro ⟨ha, hw⟩
      exact ⟨ha (k, y) (List.mem_cons_self ..), hw⟩

theorem Tab.wf_erase {k : Nat} {l : List (Nat × α)} (h : Tab.wf l = true) : Tab.wf (Assoc.erase k l) = true := by
  induction l with
  | nil => rfl
  | cons c t ih =>
    obtain ⟨i, y⟩ := c
    obtain ⟨ha, hw⟩ := (Tab.wf_cons i y t).mp h
    by_cases hi : i = k
    · simpa [Assoc.erase, hi] using ih hw
    · simp only [Assoc.erase, hi, if_false]
      exact (Tab.wf_cons ..).mpr ⟨Assoc.above_erase ha, ih hw⟩

/-- Putting an entry keeps the keys rising. -/
theorem Tab.wf_put {k : Nat} {x : α} {l : List (Nat × α)} (h : Tab.wf l = true) : Tab.wf (Tab.put k x l) = true := by
  unfold Tab.put
  have hn : ∀ y, (k, y) ∉ Assoc.erase k l := fun y => Assoc.notMem_erase k y l
  have hw : Tab.wf (Assoc.erase k l) = true := Tab.wf_erase h
  revert hn hw
  generalize Assoc.erase k l = m
  intro hn hw
  induction m with
  | nil => rfl
  | cons c t ih =>
    obtain ⟨i, y⟩ := c
    obtain ⟨ha, ht⟩ := (Tab.wf_cons i y t).mp hw
    by_cases hi : k < i
    · simp only [Assoc.insert, hi, if_true]
      refine (Tab.wf_cons ..).mpr ⟨?_, hw⟩
      intro p hp
      rcases List.mem_cons.mp hp with rfl | hp
      · exact hi
      · exact lt_trans hi (ha p hp)
    · have hik : i < k := by
        rcases Nat.lt_or_ge i k with g | g
        · exact g
        · exact absurd (by rw [show k = i by omega]; exact List.mem_cons_self ..) (hn y)
      simp only [Assoc.insert, hi, if_false]
      exact (Tab.wf_cons ..).mpr ⟨Assoc.above_insert hik ha, ih (fun z hz => hn z (List.mem_cons_of_mem _ hz)) ht⟩

/-- What a table holds after one of its entries has been put. -/
theorem Tab.get?_put (k j : Nat) (x : α) (l : List (Nat × α)) :
    Tab.get? j (Tab.put k x l) = if j = k then some x else Tab.get? j l := by
  have he : ∀ m : List (Nat × α), j ≠ k → Tab.get? j (Assoc.erase k m) = Tab.get? j m := by
    intro m hj
    induction m with
    | nil => rfl
    | cons c t ih =>
      obtain ⟨i, y⟩ := c
      by_cases hi : i = k
      · simp [Assoc.erase, hi, Tab.get?, Ne.symm hj, ih]
      · simp [Assoc.erase, hi, Tab.get?, ih]
  have hi : ∀ m : List (Nat × α), (∀ y, (k, y) ∉ m) → Tab.get? j (Assoc.insert k x m) = if j = k then some x else Tab.get? j m := by
    intro m
    induction m with
    | nil => intro _; by_cases h : k = j <;> simp [Assoc.insert, Tab.get?, h, eq_comm]
    | cons c t ih =>
      intro hm
      obtain ⟨i, y⟩ := c
      have hik : i ≠ k := fun e => hm y (e ▸ List.mem_cons_self ..)
      have ht := ih fun z hz => hm z (List.mem_cons_of_mem _ hz)
      by_cases h : j = k
      · subst h
        by_cases hl : j < i
        · simp [Assoc.insert, hl, Tab.get?]
        · simp [Assoc.insert, hl, Tab.get?, hik, ht]
      · by_cases hl : k < i
        · simp [Assoc.insert, hl, Tab.get?, h, Ne.symm h]
        · simp only [Assoc.insert, hl, if_false, Tab.get?, ht, if_neg h]
  unfold Tab.put
  rw [hi _ fun y => Assoc.notMem_erase k y l]
  by_cases h : j = k
  · simp [h]
  · simp [h, he l h]

/-! ### The forms and the module's updates -/

theorem memoriesOk_reset : MemoriesOk State.reset := ⟨rfl, rfl, rfl⟩

theorem tablesOk_reset : TablesOk State.reset := ⟨rfl, rfl⟩

theorem memoriesOk_setTile {s : State} (t : Nat) (x : Tile) (h : MemoriesOk s) : MemoriesOk (s.setTile t x) := h

theorem memoriesOk_setDie {s : State} (d : Nat) (x : Die) (h : MemoriesOk s) : MemoriesOk (s.setDie d x) := h

theorem tablesOk_setTile {s : State} (t : Nat) (x : Tile) (h : TablesOk s) : TablesOk (s.setTile t x) :=
  ⟨Assoc.wf_set t x h.1, h.2⟩

theorem tablesOk_setDie {s : State} (d : Nat) (x : Die) (h : TablesOk s) : TablesOk (s.setDie d x) :=
  ⟨h.1, Assoc.wf_set d x h.2⟩

theorem memoriesOk_writePA1 {s : State} (pa : Nat) (b : Byte) (h : MemoriesOk s) : MemoriesOk (s.writePA1 pa b) := by
  unfold State.writePA1
  simp only
  split
  · exact h
  · split
    · exact ⟨Memory.wf_write _ _ h.1, h.2⟩
    · exact h

theorem tablesOk_writePA1 {s : State} (pa : Nat) (b : Byte) (h : TablesOk s) : TablesOk (s.writePA1 pa b) := by
  unfold State.writePA1
  simp only
  split
  · exact tablesOk_setDie _ _ h
  · split <;> exact h

theorem memoriesOk_pokePA {s : State} (pa : Nat) (bs : List Byte) (h : MemoriesOk s) : MemoriesOk (s.pokePA pa bs) := by
  induction bs generalizing s pa with
  | nil => exact h
  | cons b bs ih => exact ih _ (memoriesOk_writePA1 pa b h)

theorem tablesOk_pokePA {s : State} (pa : Nat) (bs : List Byte) (h : TablesOk s) : TablesOk (s.pokePA pa bs) := by
  induction bs generalizing s pa with
  | nil => exact h
  | cons b bs ih => exact ih _ (tablesOk_writePA1 pa b h)

end Sys2Proof.Machine
end

