-- ==== Sys2Proof/Laws/Ops.lean ====
section
/-! SUPPORT. What each shared operation of a word answers, said once: guards, full and empty registers, retirement, waiting, and
the traps of a word. The meanings of words are instances of these. -/

namespace Sys2Proof.Machine

open Sys2Proof.Safety

/-! ### Guards and gates -/

theorem sWord_on {s : State} {g : Guard} {k : Tile → Ending} (h : (here s).guardS g = true) :
    sWord s g k = finish s (k (here s)) := by
  unfold here at h
  simp [sWord, here, h]

theorem sWord_void {s : State} {g : Guard} {k : Tile → Ending} (h : (here s).guardS g = false) :
    sWord s g k = finish s .void := by
  unfold here at h
  simp [sWord, h]

theorem eWord_on {s : State} {g : Guard} {k : Tile → Ending} (h : (here s).guard0 s.issue.eng s.issue.cap g = true) :
    eWord s g k = finish s (k (here s)) := by
  unfold here at h
  simp [eWord, here, h]

theorem engWord_on {s : State} {e : Engine} {g : Guard} {k : Tile → Ending} (h : (here s).guard0 e s.issue.cap g = true) :
    engWord s e g k = finish s (k (here s)) := by
  unfold here at h
  simp [engWord, here, h]

/-- The lanes of a word are those of its guard, but for a load whose lanes an earlier turn has fixed (R210, R213). -/
theorem Tile.lanesNow_eq {x : Tile} {w : Issue} (g : Guard) (h : w.eng = .L → x.loadFix = none) : x.lanesNow w g = x.lanes w.cap g := by
  unfold Tile.lanesNow
  by_cases e : w.eng = .L <;> simp [e, h]

theorem laneWord_on {s : State} {g : Guard} {k : Tile → PMask → Ending} {en : PMask}
    (h : (here s).lanesNow s.issue g = en) (hn : en ≠ 0) : laneWord s g k = finish s (k (here s) en) := by
  unfold here at h
  simp only [laneWord, here, h]
  rw [if_neg hn]

theorem laneWord_void {s : State} {g : Guard} {k : Tile → PMask → Ending}
    (h : (here s).lanesNow s.issue g = 0) : laneWord s g k = finish s .void := by
  unfold here at h
  simp [laneWord, h]

/-- With every general register full, nothing traps and nothing waits (R64). -/
theorem Tile.gateG_full {x : Tile} {s : State} {srcs : List GSrc} {full : List Nat} {k : Ending}
    (hs : ∀ r ∈ srcs, x.emptyG r.n = false) (hf : ∀ n ∈ full, x.emptyG n = false) : x.gateG s srcs full k = k := by
  have h1 : srcs.find? (fun r => r.fe && x.emptyG r.n) = none := by
    simp only [List.find?_eq_none]
    intro r hr
    simp [hs r hr]
  have h2 : (srcs.any fun r => x.emptyG r.n) = false := by
    simp only [List.any_eq_false]
    intro r hr
    simp [hs r hr]
  have h3 : full.any x.emptyG = false := by
    simp only [List.any_eq_false]
    intro n hn
    simp [hf n hn]
  simp [Tile.gateG, h1, h2, h3]

/-- With every vector register full, nothing traps and nothing waits (R64). -/
theorem Tile.gateV_full {x : Tile} {s : State} {srcs : List VSrc} {full : List Nat} {k : Ending}
    (hs : ∀ r ∈ srcs, x.emptyV r.phys = false) (hf : ∀ n ∈ full, x.emptyV n = false) : x.gateV s srcs full k = k := by
  have h1 : srcs.find? (fun r => r.fe && x.emptyV r.phys) = none := by
    simp only [List.find?_eq_none]
    intro r hr
    simp [hs r hr]
  have h2 : (srcs.any fun r => x.emptyV r.phys) = false := by
    simp only [List.any_eq_false]
    intro r hr
    simp [hs r hr]
  have h3 : full.any x.emptyV = false := by
    simp only [List.any_eq_false]
    intro n hn
    simp [hf n hn]
  simp [Tile.gateV, h1, h2, h3]

/-- The first empty source whose fe bit is set traps before anything else (R64). -/
theorem Tile.gateG_trap {x : Tile} {s : State} {srcs : List GSrc} {full : List Nat} {k : Ending} {r : GSrc}
    (h : srcs.find? (fun r => r.fe && x.emptyG r.n) = some r) :
    x.gateG s srcs full k = .trap s 4 (emptyData r.n true r.opnd) := by
  simp [Tile.gateG, h]

/-! ### Counters and waits -/

@[simp] theorem Tile.count_pcs_ext (x : Tile) (code n : Nat) :
    { x.count code n with pcs := [] } = { x with pcs := [] } := by
  unfold Tile.count
  split <;> rfl

theorem Tile.count_eq (x : Tile) (code n : Nat) : ∃ p, x.count code n = { x with pcs := p } := by
  unfold Tile.count
  split
  · exact ⟨x.pcs, rfl⟩
  · exact ⟨_, rfl⟩

theorem Tile.count_pcs_congr {x y : Tile} (h : x.pcs = y.pcs) (hs : x.perfSel = y.perfSel) (code n : Nat) :
    (x.count code n).pcs = (y.count code n).pcs := by
  unfold Tile.count
  split
  · exact h
  · simp [h, hs]

theorem Tile.waitWhy_setWait (x : Tile) (e : Engine) (why : Nat) : (x.setWait e why).waitWhy e = why := by
  simp [Tile.setWait, Tile.waitWhy, Assoc.get_set]

/-! ### Retirement of an S word -/

/-- The tile of a retired S word: what the word left, but for fetch, waiting and the counters. -/
theorem Tile.retireS_eq (x : Tile) (pc : Nat) (leave : Bool) (chunk : Nat) :
    ∃ w p, x.retireS pc leave false chunk =
        { x with pc := BitVec.ofNat 20 pc, sIn := x.sIn && !leave && pc != x.sEnd, chunk := chunk, atLoop := false,
                 bpPassed := false, standing := none, ran := true, waits := w, pcs := p } ∧
      p = (x.count 2 1).pcs ∧ Assoc.get 0 0 w = 0 := by
  refine ⟨(x.setWait .S 0).waits, (x.count 2 1).pcs, ?_, rfl, ?_⟩
  · obtain ⟨p, hp⟩ := Tile.count_eq (Tile.setWait { x with pc := BitVec.ofNat 20 pc, sIn := x.sIn && !leave && pc != x.sEnd, chunk := chunk, atLoop := false, bpPassed := false, standing := none, ran := true } .S 0) 2 1
    have hq : p = (x.count 2 1).pcs := by
      have := Tile.count_pcs_congr (x := Tile.setWait { x with pc := BitVec.ofNat 20 pc, sIn := x.sIn && !leave && pc != x.sEnd, chunk := chunk, atLoop := false, bpPassed := false, standing := none, ran := true } .S 0) (y := x) rfl rfl 2 1
      rw [hp] at this
      exact this
    simp only [Tile.retireS, Bool.false_eq_true, if_false, hp, hq]
    rfl
  · have := Tile.waitWhy_setWait x .S 0
    simpa [Tile.waitWhy, Engine.code] using this

theorem State.readPA1_setTile (s : State) (t : Nat) (x : Tile) (a : Nat) : (s.setTile t x).readPA1 a = s.readPA1 a := rfl

/-- A state whose tiles alone were changed, at one tile. -/
theorem onlyTile_setTile (s : State) (k : Nat) (x : Tile) : OnlyTile k s (s.setTile k x) :=
  ⟨rfl, fun _ hj => State.tile_setTile_ne s x hj, fun _ => rfl⟩

/-- Two changes of one tile are one. -/
theorem onlyTile_trans {k : Nat} {s t u : State} (h1 : OnlyTile k s t) (h2 : OnlyTile k t u) : OnlyTile k s u := by
  refine ⟨?_, fun j hj => (h2.2.1 j hj).trans (h1.2.1 j hj), fun a => (h2.2.2 a).trans (h1.2.2 a)⟩
  exact (congrArg (fun v : State => { v with tiles := s.tiles, trail := s.trail }) h2.1).trans h1.1

/-- What an item notes of its accesses is no change of a tile. -/
theorem onlyTile_note {k : Nat} {s t : State} (ws : List Trail) (h : OnlyTile k s t) : OnlyTile k s (t.note ws) := h

/-- What an S word that changes its tile to y and then retires answers. -/
theorem finish_retireS {s : State} {y : Tile} (he : s.issue.eng = .S) (hp : y.pcs = (here s).pcs) (hs : y.perfSel = (here s).perfSel) :
    ∃ t, finish s (.retire (s.putTile y)) = .next t ∧ SNext s t (s.issue.addr + 1) ∧ fixedS (here t) = fixedS y := by
  obtain ⟨w, p, e1, e2, e3⟩ := Tile.retireS_eq y (s.issue.addr + 1) false (y.chunk + 1)
  refine ⟨(s.putTile y).retire false, rfl, ⟨?_, ?_, ?_, ?_⟩, ?_⟩
  · refine onlyTile_trans (onlyTile_setTile s s.issue.tile y) ?_
    have : (s.putTile y).retire false = (s.putTile y).setTile s.issue.tile (((s.putTile y).tile s.issue.tile).retireS (s.issue.addr + 1) false false (((s.putTile y).tile s.issue.tile).chunk + 1)) := by
      simp [State.retire, State.putTile, he]
    rw [this]
    exact onlyTile_setTile _ _ _
  all_goals
    have ht : here ((s.putTile y).retire false) = y.retireS (s.issue.addr + 1) false false (y.chunk + 1) := by
      simp [here, State.retire, State.putTile, he]
    rw [ht, e1]
  · rw [e2]; exact Tile.count_pcs_congr hp hs 2 1
  · simpa [Tile.waitWhy, Engine.code] using e3
  · rfl

end Sys2Proof.Machine
end

