-- ==== Sys2Proof/Laws/PerInstr.lean ====
section
/-! SUPPORT. One lemma for each instruction: its word is of an engine's class, so that no engine word is read as a section header. -/

namespace Sys2Proof.Laws.EngineClass

/-- A word of the instruction names an engine class (R47), and is no header (R67). -/
def Statement (i : Instr) : Prop := ∀ w, encode i = some w → slotClass w ≤ 5 ∧ decodeHeader w = .error 5

theorem of_word {i : Instr} {c : BitVec 3} {fn : BitVec 7} {g : Guard} {x : BitVec 66} (h : encode i = some (wordOf c fn g x))
    (hc : c.toNat ≤ 5) : Statement i := by
  intro w hw
  obtain rfl := Option.some.inj (h.symm.trans hw)
  have e : (wordOf c fn g x).extractLsb' 93 3 = c := by
    ext k hk
    simp only [wordOf, BitVec.getElem_extractLsb', BitVec.getLsbD_append]
    rw [if_neg (by omega), if_neg (by omega), if_neg (by omega), if_neg (by omega), if_neg (by omega), if_neg (by omega)]
    rw [show 93 + k - 66 - 4 - 4 - 4 - 8 - 7 = k by omega]
    exact BitVec.getLsbD_eq_getElem hk
  refine ⟨by simpa [slotClass, e] using hc, ?_⟩
  have n : (wordOf c fn g x).extractLsb' 64 32 ≠ 0xE0000000 := by
    intro hz
    have h7 : (wordOf c fn g x).extractLsb' 93 3 = ((wordOf c fn g x).extractLsb' 64 32).extractLsb' 29 3 := by
      ext k hk
      simp only [BitVec.getElem_extractLsb', BitVec.getLsbD_extractLsb']
      simp [show 29 + k < 32 by omega, show 64 + (29 + k) = 93 + k by omega]
    rw [e, hz] at h7
    rw [h7] at hc
    exact absurd hc (by decide)
  simp only [decodeHeader]
  exact if_pos (by simpa using n)

theorem of_none {i : Instr} (h : encode i = none) : Statement i := fun w hw => by rw [h] at hw; cases hw

theorem add (g : Guard) (f : FmtS) : Statement (.add g f) := of_word rfl (by decide)
theorem addi (g : Guard) (f : FmtS) : Statement (.addi g f) := of_word rfl (by decide)
theorem sub (g : Guard) (f : FmtS) : Statement (.sub g f) := of_word rfl (by decide)
theorem mul (g : Guard) (f : FmtS) : Statement (.mul g f) := of_word rfl (by decide)
theorem muli (g : Guard) (f : FmtS) : Statement (.muli g f) := of_word rfl (by decide)
theorem mulh (g : Guard) (f : FmtS) : Statement (.mulh g f) := of_word rfl (by decide)
theorem mulhn (g : Guard) (f : FmtS) : Statement (.mulhn g f) := of_word rfl (by decide)
theorem div (g : Guard) (f : FmtS) : Statement (.div g f) := of_word rfl (by decide)
theorem divn (g : Guard) (f : FmtS) : Statement (.divn g f) := of_word rfl (by decide)
theorem rem (g : Guard) (f : FmtS) : Statement (.rem g f) := of_word rfl (by decide)
theorem remn (g : Guard) (f : FmtS) : Statement (.remn g f) := of_word rfl (by decide)
theorem and (g : Guard) (f : FmtS) : Statement (.and g f) := of_word rfl (by decide)
theorem andi (g : Guard) (f : FmtS) : Statement (.andi g f) := of_word rfl (by decide)
theorem or (g : Guard) (f : FmtS) : Statement (.or g f) := of_word rfl (by decide)
theorem ori (g : Guard) (f : FmtS) : Statement (.ori g f) := of_word rfl (by decide)
theorem xor (g : Guard) (f : FmtS) : Statement (.xor g f) := of_word rfl (by decide)
theorem xori (g : Guard) (f : FmtS) : Statement (.xori g f) := of_word rfl (by decide)
theorem andn (g : Guard) (f : FmtS) : Statement (.andn g f) := of_word rfl (by decide)
theorem shl (g : Guard) (f : FmtS) : Statement (.shl g f) := of_word rfl (by decide)
theorem shli (g : Guard) (f : FmtS) : Statement (.shli g f) := of_word rfl (by decide)
theorem shr (g : Guard) (f : FmtS) : Statement (.shr g f) := of_word rfl (by decide)
theorem shri (g : Guard) (f : FmtS) : Statement (.shri g f) := of_word rfl (by decide)
theorem sar (g : Guard) (f : FmtS) : Statement (.sar g f) := of_word rfl (by decide)
theorem sari (g : Guard) (f : FmtS) : Statement (.sari g f) := of_word rfl (by decide)
theorem rol (g : Guard) (f : FmtS) : Statement (.rol g f) := of_word rfl (by decide)
theorem roli (g : Guard) (f : FmtS) : Statement (.roli g f) := of_word rfl (by decide)
theorem min (g : Guard) (f : FmtS) : Statement (.min g f) := of_word rfl (by decide)
theorem minn (g : Guard) (f : FmtS) : Statement (.minn g f) := of_word rfl (by decide)
theorem max (g : Guard) (f : FmtS) : Statement (.max g f) := of_word rfl (by decide)
theorem maxn (g : Guard) (f : FmtS) : Statement (.maxn g f) := of_word rfl (by decide)
theorem clz (g : Guard) (f : FmtS) : Statement (.clz g f) := of_word rfl (by decide)
theorem ctz (g : Guard) (f : FmtS) : Statement (.ctz g f) := of_word rfl (by decide)
theorem popc (g : Guard) (f : FmtS) : Statement (.popc g f) := of_word rfl (by decide)
theorem bfx (g : Guard) (f : FmtS) : Statement (.bfx g f) := of_word rfl (by decide)
theorem bfi (g : Guard) (f : FmtS) : Statement (.bfi g f) := of_word rfl (by decide)
theorem sel (g : Guard) (f : FmtS) : Statement (.sel g f) := of_word rfl (by decide)
theorem movi (g : Guard) (f : FmtS) : Statement (.movi g f) := of_word rfl (by decide)
theorem movhi (g : Guard) (f : FmtS) : Statement (.movhi g f) := of_word rfl (by decide)
theorem cmp (g : Guard) (f : FmtS) : Statement (.cmp g f) := of_word rfl (by decide)
theorem cmpi (g : Guard) (f : FmtS) : Statement (.cmpi g f) := of_word rfl (by decide)
theorem plog (g : Guard) (f : FmtS) : Statement (.plog g f) := of_word rfl (by decide)
theorem pmovPack (g : Guard) (f : FmtS) : Statement (.pmovPack g f) := of_word rfl (by decide)
theorem pmovUnpack (g : Guard) (f : FmtS) : Statement (.pmovUnpack g f) := of_word rfl (by decide)
theorem br (g : Guard) (f : FmtB) : Statement (.br g f) := of_word rfl (by decide)
theorem brx (g : Guard) (f : FmtB) : Statement (.brx g f) := of_word rfl (by decide)
theorem call (g : Guard) (f : FmtB) : Statement (.call g f) := of_word rfl (by decide)
theorem ret (g : Guard) (f : FmtB) : Statement (.ret g f) := of_word rfl (by decide)
theorem lrec (g : Guard) (f : FmtLrec) : Statement (.lrec g f) := of_word rfl (by decide)
theorem loop (g : Guard) (f : FmtS) : Statement (.loop g f) := of_word rfl (by decide)
theorem lfor (g : Guard) (f : FmtB) : Statement (.lfor g f) := of_word rfl (by decide)
theorem lnext (g : Guard) (f : FmtB) : Statement (.lnext g f) := of_word rfl (by decide)
theorem lidx (g : Guard) (f : FmtS) : Statement (.lidx g f) := of_word rfl (by decide)
theorem pfld (g : Guard) (f : FmtS) : Statement (.pfld g f) := of_word rfl (by decide)
theorem pfldW (g : Guard) (f : FmtS) : Statement (.pfldW g f) := of_word rfl (by decide)
theorem halt (g : Guard) (f : FmtS) : Statement (.halt g f) := of_word rfl (by decide)
theorem trap (g : Guard) (f : FmtS) : Statement (.trap g f) := of_word rfl (by decide)
theorem nop (g : Guard) (f : FmtS) : Statement (.nop g f) := of_word rfl (by decide)
theorem sld (g : Guard) (f : FmtSM) : Statement (.sld g f) := of_word rfl (by decide)
theorem sst (g : Guard) (f : FmtSM) : Statement (.sst g f) := of_word rfl (by decide)
theorem crd (g : Guard) (f : FmtS) : Statement (.crd g f) := of_word rfl (by decide)
theorem cwr (g : Guard) (f : FmtS) : Statement (.cwr g f) := of_word rfl (by decide)
theorem tmark (g : Guard) (f : FmtS) : Statement (.tmark g f) := of_word rfl (by decide)
theorem lset (g : Guard) (f : FmtT) : Statement (.lset g f) := of_word rfl (by decide)
theorem lget (g : Guard) (f : FmtT) : Statement (.lget g f) := of_word rfl (by decide)
theorem rinit (g : Guard) (f : FmtT) : Statement (.rinit g f) := of_word rfl (by decide)
theorem racq (g : Guard) (f : FmtT) : Statement (.racq g f) := of_word rfl (by decide)
theorem rrel (g : Guard) (f : FmtT) : Statement (.rrel g f) := of_word rfl (by decide)
theorem rrelComplete (tile ring slot : Nat) : Statement (.rrelComplete tile ring slot) := of_none rfl
theorem launch (g : Guard) (f : FmtT) : Statement (.launch g f) := of_word rfl (by decide)
theorem sems (g : Guard) (f : FmtSY) : Statement (.sems g f) := of_word rfl (by decide)
theorem semw (g : Guard) (f : FmtSY) : Statement (.semw g f) := of_word rfl (by decide)
theorem semr (g : Guard) (f : FmtSY) : Statement (.semr g f) := of_word rfl (by decide)
theorem semsEngine (e : Engine) (g : Guard) (f : FmtSY) : Statement (.semsEngine e g f) := of_word rfl (by cases e <;> decide)
theorem semwEngine (e : Engine) (g : Guard) (f : FmtSY) : Statement (.semwEngine e g f) := of_word rfl (by cases e <;> decide)
theorem wpop (g : Guard) (f : FmtS) : Statement (.wpop g f) := of_word rfl (by decide)
theorem cyc (g : Guard) (f : FmtS) : Statement (.cyc g f) := of_word rfl (by decide)
theorem fence (g : Guard) (f : FmtFN) : Statement (.fence g f) := of_word rfl (by decide)
theorem fenceEngine (e : Engine) (g : Guard) (f : FmtFN) : Statement (.fenceEngine e g f) := of_word rfl (by cases e <;> decide)
theorem xfence (g : Guard) (f : FmtFN) : Statement (.xfence g f) := of_word rfl (by decide)
theorem ifence (g : Guard) (f : FmtFN) : Statement (.ifence g f) := of_word rfl (by decide)
theorem drain (g : Guard) (f : FmtFN) : Statement (.drain g f) := of_word rfl (by decide)
theorem vadd (g : Guard) (f : FmtV3) : Statement (.vadd g f) := of_word rfl (by decide)
theorem vaddi (g : Guard) (f : FmtVI) : Statement (.vaddi g f) := of_word rfl (by decide)
theorem vsub (g : Guard) (f : FmtV3) : Statement (.vsub g f) := of_word rfl (by decide)
theorem vadds (g : Guard) (f : FmtV3) : Statement (.vadds g f) := of_word rfl (by decide)
theorem vsubs (g : Guard) (f : FmtV3) : Statement (.vsubs g f) := of_word rfl (by decide)
theorem vmul (g : Guard) (f : FmtV3) : Statement (.vmul g f) := of_word rfl (by decide)
theorem vmulh (g : Guard) (f : FmtV3) : Statement (.vmulh g f) := of_word rfl (by decide)
theorem vmad (g : Guard) (f : FmtV3) : Statement (.vmad g f) := of_word rfl (by decide)
theorem vmin (g : Guard) (f : FmtV3) : Statement (.vmin g f) := of_word rfl (by decide)
theorem vmax (g : Guard) (f : FmtV3) : Statement (.vmax g f) := of_word rfl (by decide)
theorem vabs (g : Guard) (f : FmtV3) : Statement (.vabs g f) := of_word rfl (by decide)
theorem vand (g : Guard) (f : FmtV3) : Statement (.vand g f) := of_word rfl (by decide)
theorem vor (g : Guard) (f : FmtV3) : Statement (.vor g f) := of_word rfl (by decide)
theorem vxor (g : Guard) (f : FmtV3) : Statement (.vxor g f) := of_word rfl (by decide)
theorem vandn (g : Guard) (f : FmtV3) : Statement (.vandn g f) := of_word rfl (by decide)
theorem vshl (g : Guard) (f : FmtV3) : Statement (.vshl g f) := of_word rfl (by decide)
theorem vshr (g : Guard) (f : FmtV3) : Statement (.vshr g f) := of_word rfl (by decide)
theorem vsar (g : Guard) (f : FmtV3) : Statement (.vsar g f) := of_word rfl (by decide)
theorem vclz (g : Guard) (f : FmtV3) : Statement (.vclz g f) := of_word rfl (by decide)
theorem vpopc (g : Guard) (f : FmtV3) : Statement (.vpopc g f) := of_word rfl (by decide)
theorem vfadd (g : Guard) (f : FmtV3) : Statement (.vfadd g f) := of_word rfl (by decide)
theorem vfsub (g : Guard) (f : FmtV3) : Statement (.vfsub g f) := of_word rfl (by decide)
theorem vfmul (g : Guard) (f : FmtV3) : Statement (.vfmul g f) := of_word rfl (by decide)
theorem vfma (g : Guard) (f : FmtV3) : Statement (.vfma g f) := of_word rfl (by decide)
theorem vfnma (g : Guard) (f : FmtV3) : Statement (.vfnma g f) := of_word rfl (by decide)
theorem vfmin (g : Guard) (f : FmtV3) : Statement (.vfmin g f) := of_word rfl (by decide)
theorem vfmax (g : Guard) (f : FmtV3) : Statement (.vfmax g f) := of_word rfl (by decide)
theorem vfabs (g : Guard) (f : FmtV3) : Statement (.vfabs g f) := of_word rfl (by decide)
theorem vfneg (g : Guard) (f : FmtV3) : Statement (.vfneg g f) := of_word rfl (by decide)
theorem vfrcp (g : Guard) (f : FmtV3) : Statement (.vfrcp g f) := of_word rfl (by decide)
theorem vfrsq (g : Guard) (f : FmtV3) : Statement (.vfrsq g f) := of_word rfl (by decide)
theorem vfsqrt (g : Guard) (f : FmtV3) : Statement (.vfsqrt g f) := of_word rfl (by decide)
theorem vfdiv (g : Guard) (f : FmtV3) : Statement (.vfdiv g f) := of_word rfl (by decide)
theorem vfexp2 (g : Guard) (f : FmtV3) : Statement (.vfexp2 g f) := of_word rfl (by decide)
theorem vflog2 (g : Guard) (f : FmtV3) : Statement (.vflog2 g f) := of_word rfl (by decide)
theorem vftanh (g : Guard) (f : FmtV3) : Statement (.vftanh g f) := of_word rfl (by decide)
theorem vfexpo (g : Guard) (f : FmtV3) : Statement (.vfexpo g f) := of_word rfl (by decide)
theorem longLatencyComplete (tile k : Nat) : Statement (.longLatencyComplete tile k) := of_none rfl
theorem vcmp (g : Guard) (f : FmtVP) : Statement (.vcmp g f) := of_word rfl (by decide)
theorem vcmpi (g : Guard) (f : FmtVPI) : Statement (.vcmpi g f) := of_word rfl (by decide)
theorem vfcmp (g : Guard) (f : FmtVP) : Statement (.vfcmp g f) := of_word rfl (by decide)
theorem vfclass (g : Guard) (f : FmtVP) : Statement (.vfclass g f) := of_word rfl (by decide)
theorem vcvt (g : Guard) (f : FmtVC) : Statement (.vcvt g f) := of_word rfl (by decide)
theorem vfcvt (g : Guard) (f : FmtVC) : Statement (.vfcvt g f) := of_word rfl (by decide)
theorem vqnt (g : Guard) (f : FmtVC) : Statement (.vqnt g f) := of_word rfl (by decide)
theorem vdqnt (g : Guard) (f : FmtVC) : Statement (.vdqnt g f) := of_word rfl (by decide)
theorem vmov (g : Guard) (f : FmtV3) : Statement (.vmov g f) := of_word rfl (by decide)
theorem vbcst (g : Guard) (f : FmtV3) : Statement (.vbcst g f) := of_word rfl (by decide)
theorem viota (g : Guard) (f : FmtV3) : Statement (.viota g f) := of_word rfl (by decide)
theorem vperm (g : Guard) (f : FmtV3) : Statement (.vperm g f) := of_word rfl (by decide)
theorem vrmrg (g : Guard) (f : FmtV3) : Statement (.vrmrg g f) := of_word rfl (by decide)
theorem vsel (g : Guard) (f : FmtV3) : Statement (.vsel g f) := of_word rfl (by decide)
theorem vtog (g : Guard) (f : FmtV3) : Statement (.vtog g f) := of_word rfl (by decide)
theorem vtogComplete (tile k : Nat) : Statement (.vtogComplete tile k) := of_none rfl
theorem vred (g : Guard) (f : FmtV3) : Statement (.vred g f) := of_word rfl (by decide)
theorem vfred (g : Guard) (f : FmtV3) : Statement (.vfred g f) := of_word rfl (by decide)
theorem vscan (g : Guard) (f : FmtV3) : Statement (.vscan g f) := of_word rfl (by decide)
theorem vfscan (g : Guard) (f : FmtV3) : Statement (.vfscan g f) := of_word rfl (by decide)
theorem vspcmp (g : Guard) (f : FmtV3) : Statement (.vspcmp g f) := of_word rfl (by decide)
theorem vspexp (g : Guard) (f : FmtV3) : Statement (.vspexp g f) := of_word rfl (by decide)
theorem vplog (g : Guard) (f : FmtVP) : Statement (.vplog g f) := of_word rfl (by decide)
theorem vpcnt (g : Guard) (f : FmtVP) : Statement (.vpcnt g f) := of_word rfl (by decide)
theorem vpfind (g : Guard) (f : FmtVP) : Statement (.vpfind g f) := of_word rfl (by decide)
theorem vpmov (g : Guard) (f : FmtVP) : Statement (.vpmov g f) := of_word rfl (by decide)
theorem vld (g : Guard) (f : FmtVM) : Statement (.vld g f) := of_word rfl (by decide)
theorem vldx (g : Guard) (f : FmtVM) : Statement (.vldx g f) := of_word rfl (by decide)
theorem vldb (g : Guard) (f : FmtVM) : Statement (.vldb g f) := of_word rfl (by decide)
theorem pld (g : Guard) (f : FmtVM) : Statement (.pld g f) := of_word rfl (by decide)
theorem vfeed (g : Guard) (f : FmtVM) : Statement (.vfeed g f) := of_word rfl (by decide)
theorem scld (g : Guard) (f : FmtVM) : Statement (.scld g f) := of_word rfl (by decide)
theorem vst (g : Guard) (f : FmtVM) : Statement (.vst g f) := of_word rfl (by decide)
theorem vstx (g : Guard) (f : FmtVM) : Statement (.vstx g f) := of_word rfl (by decide)
theorem pst (g : Guard) (f : FmtVM) : Statement (.pst g f) := of_word rfl (by decide)
theorem vstc (g : Guard) (f : FmtVM) : Statement (.vstc g f) := of_word rfl (by decide)
theorem queuePush (tile : Nat) (cslot : Option Nat) : Statement (.queuePush tile cslot) := of_none rfl
theorem mzero (g : Guard) (f : FmtMX) : Statement (.mzero g f) := of_word rfl (by decide)
theorem mma (g : Guard) (f : FmtMX) : Statement (.mma g f) := of_word rfl (by decide)
theorem mmas (g : Guard) (f : FmtMX) : Statement (.mmas g f) := of_word rfl (by decide)
theorem mmaStep (tile : Nat) : Statement (.mmaStep tile) := of_none rfl
theorem mdrain (g : Guard) (f : FmtMX) : Statement (.mdrain g f) := of_word rfl (by decide)
theorem mdrainRegisterFull (tile k : Nat) : Statement (.mdrainRegisterFull tile k) := of_none rfl
theorem mload (g : Guard) (f : FmtMX) : Statement (.mload g f) := of_word rfl (by decide)
theorem xcopy (g : Guard) (f : FmtXC) : Statement (.xcopy g f) := of_word rfl (by decide)
theorem xgath (g : Guard) (f : FmtXC) : Statement (.xgath g f) := of_word rfl (by decide)
theorem xscat (g : Guard) (f : FmtXC) : Statement (.xscat g f) := of_word rfl (by decide)
theorem xtran (g : Guard) (f : FmtXC) : Statement (.xtran g f) := of_word rfl (by decide)
theorem xconv (g : Guard) (f : FmtXC) : Statement (.xconv g f) := of_word rfl (by decide)
theorem xmcst (g : Guard) (f : FmtXC) : Statement (.xmcst g f) := of_word rfl (by decide)
theorem xred (g : Guard) (f : FmtXC) : Statement (.xred g f) := of_word rfl (by decide)
theorem xatom (g : Guard) (f : FmtXC) : Statement (.xatom g f) := of_word rfl (by decide)
theorem xapnd (g : Guard) (f : FmtXC) : Statement (.xapnd g f) := of_word rfl (by decide)
theorem xsig (g : Guard) (f : FmtXC) : Statement (.xsig g f) := of_word rfl (by decide)
theorem xwait (g : Guard) (f : FmtXC) : Statement (.xwait g f) := of_word rfl (by decide)
theorem xpref (g : Guard) (f : FmtXC) : Statement (.xpref g f) := of_word rfl (by decide)
theorem xcomp (g : Guard) (f : FmtXC) : Statement (.xcomp g f) := of_word rfl (by decide)
theorem xmrg (g : Guard) (f : FmtXC) : Statement (.xmrg g f) := of_word rfl (by decide)
theorem xsnap (g : Guard) (f : FmtXC) : Statement (.xsnap g f) := of_word rfl (by decide)
theorem xhdr (g : Guard) (f : FmtXC) : Statement (.xhdr g f) := of_word rfl (by decide)
theorem xtld (g : Guard) (f : FmtXC) : Statement (.xtld g f) := of_word rfl (by decide)
theorem xfst (g : Guard) (f : FmtXC) : Statement (.xfst g f) := of_word rfl (by decide)
theorem sectionForward (tile : Nat) : Statement (.sectionForward tile) := of_none rfl
theorem sectionStart (tile : Nat) (e : Engine) : Statement (.sectionStart tile e) := of_none rfl
theorem commandAccept (tile : Nat) : Statement (.commandAccept tile) := of_none rfl
theorem elementPerform (tile cslot : Nat) : Statement (.elementPerform tile cslot) := of_none rfl
theorem faultRecordEnter (die : Nat) : Statement (.faultRecordEnter die) := of_none rfl
theorem migrationRewalk (who : StallRef) : Statement (.migrationRewalk who) := of_none rfl
theorem commandRetire (tile : Nat) : Statement (.commandRetire tile) := of_none rfl
theorem writeQueueOperation (die k : Nat) : Statement (.writeQueueOperation die k) := of_none rfl
theorem writeQueueDrain (die line : Nat) : Statement (.writeQueueDrain die line) := of_none rfl
theorem eccCorrected (line : Nat) : Statement (.eccCorrected line) := of_none rfl
theorem uncorrectableSoftError (site : ErrSite) : Statement (.uncorrectableSoftError site) := of_none rfl
theorem shootdownAck (die : Nat) : Statement (.shootdownAck die) := of_none rfl
theorem bar2Write (m off : Nat) (data : List Byte) : Statement (.bar2Write m off data) := of_none rfl
theorem bar2Read (m off len : Nat) : Statement (.bar2Read m off len) := of_none rfl
theorem bar4Write (m off : Nat) (data : List Byte) (be : List Bool) : Statement (.bar4Write m off data be) := of_none rfl
theorem bar4Read (m off len : Nat) : Statement (.bar4Read m off len) := of_none rfl
theorem orderingPointRelease (k : Nat) : Statement (.orderingPointRelease k) := of_none rfl
theorem claim (m : Nat) : Statement (.claim m) := of_none rfl
theorem handover (m : Nat) (v : W64) : Statement (.handover m v) := of_none rfl
theorem submit (m : Nat) (v : W64) : Statement (.submit m v) := of_none rfl
theorem gangSubmit (m : Nat) (v : W64) : Statement (.gangSubmit m v) := of_none rfl
theorem shootCtlStart (m : Nat) (v : W64) : Statement (.shootCtlStart m v) := of_none rfl
theorem shootCtlClearLost (m : Nat) (v : W64) : Statement (.shootCtlClearLost m v) := of_none rfl
theorem resumeRetry (m : Nat) (v : W64) : Statement (.resumeRetry m v) := of_none rfl
theorem resumeFail (m : Nat) (v : W64) : Statement (.resumeFail m v) := of_none rfl
theorem resumeClearStray (m : Nat) (v : W64) : Statement (.resumeClearStray m v) := of_none rfl
theorem slotCtlResume (m slot : Nat) (v : W64) : Statement (.slotCtlResume m slot v) := of_none rfl
theorem slotCtlKill (m slot : Nat) (v : W64) : Statement (.slotCtlKill m slot v) := of_none rfl
theorem slotCtlPark (m slot : Nat) (v : W64) : Statement (.slotCtlPark m slot v) := of_none rfl
theorem ringCfgWrite (m : Nat) (ring : RingName) (v : W64) : Statement (.ringCfgWrite m ring v) := of_none rfl
theorem ringHeadWrite (m : Nat) (ring : RingName) (v : W64) : Statement (.ringHeadWrite m ring v) := of_none rfl
theorem lcReqReset (m : Nat) (v : W64) : Statement (.lcReqReset m v) := of_none rfl
theorem lcReqAdvance (m : Nat) (v : W64) : Statement (.lcReqAdvance m v) := of_none rfl
theorem lcStateTripClear (m : Nat) (v : W64) : Statement (.lcStateTripClear m v) := of_none rfl
theorem attest (m : Nat) (v : W64) : Statement (.attest m v) := of_none rfl
theorem pwrCap (m : Nat) (v : W64) : Statement (.pwrCap m v) := of_none rfl
theorem thresh (m die : Nat) (v : W64) : Statement (.thresh m die v) := of_none rfl
theorem perfCtl (m : Nat) (v : W64) : Statement (.perfCtl m v) := of_none rfl
theorem replayCtl (m : Nat) (v : W64) : Statement (.replayCtl m v) := of_none rfl
theorem quenchCtl (m : Nat) (v : W64) : Statement (.quenchCtl m v) := of_none rfl
theorem temper (m : Nat) (v : W64) : Statement (.temper m v) := of_none rfl
theorem blazeCtl (m : Nat) (v : W64) : Statement (.blazeCtl m v) := of_none rfl
theorem controlWrite (m off : Nat) (v : List Byte) : Statement (.controlWrite m off v) := of_none rfl
theorem launchSlotFree (slot : Nat) : Statement (.launchSlotFree slot) := of_none rfl
theorem listLaunchStart (slot : Nat) (tiles : List Nat) : Statement (.listLaunchStart slot tiles) := of_none rfl
theorem pointFire (slot tile : Nat) : Statement (.pointFire slot tile) := of_none rfl
theorem pointStart (tile : Nat) : Statement (.pointStart tile) := of_none rfl
theorem pointComplete (tile : Nat) : Statement (.pointComplete tile) := of_none rfl
theorem clearing (slot : Nat) : Statement (.clearing slot) := of_none rfl
theorem workListDeadlock (slot : Nat) : Statement (.workListDeadlock slot) := of_none rfl
theorem contextSave (slot : Nat) : Statement (.contextSave slot) := of_none rfl
theorem contextRestore (k tile : Nat) : Statement (.contextRestore k tile) := of_none rfl
theorem checkpointMark : Statement .checkpointMark := of_none rfl
theorem prepare (gang : Nat) : Statement (.prepare gang) := of_none rfl
theorem ready (gang member : Nat) : Statement (.ready gang member) := of_none rfl
theorem refuse (gang member : Nat) : Statement (.refuse gang member) := of_none rfl
theorem commit (gang : Nat) : Statement (.commit gang) := of_none rfl
theorem abort (gang : Nat) : Statement (.abort gang) := of_none rfl
theorem gangPrepareTimeout (gang : Nat) : Statement (.gangPrepareTimeout gang) := of_none rfl
theorem gangMemberLost (gang member : Nat) : Statement (.gangMemberLost gang member) := of_none rfl
theorem mark (gang : Nat) : Statement (.mark gang) := of_none rfl
theorem marked (gang member : Nat) : Statement (.marked gang member) := of_none rfl
theorem gangResume (gang : Nat) : Statement (.gangResume gang) := of_none rfl
theorem blazeMarker (die link : Nat) : Statement (.blazeMarker die link) := of_none rfl
theorem quenchEdge : Statement .quenchEdge := of_none rfl
theorem temperRestart : Statement .temperRestart := of_none rfl
theorem inflightWrite (tile k : Nat) : Statement (.inflightWrite tile k) := of_none rfl
theorem powerOn : Statement .powerOn := of_none rfl
theorem perst (port : Nat) : Statement (.perst port) := of_none rfl
theorem functionLevelReset (port : Nat) : Statement (.functionLevelReset port) := of_none rfl
theorem clockStep : Statement .clockStep := of_none rfl
theorem thermalThrottle (die : Nat) : Statement (.thermalThrottle die) := of_none rfl
theorem thermalTrip (die : Nat) : Statement (.thermalTrip die) := of_none rfl
theorem linkDown (link : Nat) : Statement (.linkDown link) := of_none rfl
theorem linkUp (link peer : Nat) : Statement (.linkUp link peer) := of_none rfl
theorem scheduleCycleTick : Statement .scheduleCycleTick := of_none rfl
theorem powerOff : Statement .powerOff := of_none rfl
theorem wipeEnd : Statement .wipeEnd := of_none rfl
theorem thermalRelease : Statement .thermalRelease := of_none rfl
theorem attestationReport : Statement .attestationReport := of_none rfl
theorem gangCompletion (gang member : Nat) : Statement (.gangCompletion gang member) := of_none rfl
theorem remotePageAccess (link : Nat) (pa : Nat) (data : Option (List Byte)) (len : Nat) : Statement (.remotePageAccess link pa data len) := of_none rfl
theorem completionTimeout (tile cslot : Nat) : Statement (.completionTimeout tile cslot) := of_none rfl

end Sys2Proof.Laws.EngineClass
end

