-- ==== Sys2Proof/Laws/Retire.lean ====
section
/-! SUPPORT. What a retiring, waiting, void or trapping word of any engine answers, and what an event counter holds after a count. -/

namespace Sys2Proof.Machine

open Sys2Proof.Safety

/-- A counter after a count: the counters whose event byte is the code have gone on by n (R336). -/
theorem Tile.get_count (x : Tile) (code n k : Nat) (hk : k < 8) (hc : code ≠ 0) :
    Assoc.get 0 k (x.count code n).pcs =
      if bits x.perfSel.toNat (8 * k) 8 = code then Assoc.get 0 k x.pcs + BitVec.ofNat 48 n else Assoc.get 0 k x.pcs := by
  have key : ∀ (ks : List Nat), ks.Nodup → Assoc.get 0 k (ks.foldr (fun j l =>
      if bits x.perfSel.toNat (8 * j) 8 = code then
        Assoc.set 0 j (Assoc.get 0 j l + BitVec.ofNat 48 n) l else l) x.pcs) =
      if k ∈ ks ∧ bits x.perfSel.toNat (8 * k) 8 = code then Assoc.get 0 k x.pcs + BitVec.ofNat 48 n
      else Assoc.get 0 k x.pcs := by
    intro ks hn
    induction ks with
    | nil => simp
    | cons j js ih =>
      obtain ⟨hj, hs⟩ := List.nodup_cons.mp hn
      have := ih hs
      by_cases hc : bits x.perfSel.toNat (8 * j) 8 = code
      · by_cases hkj : k = j
        · subst hkj
          rw [List.foldr_cons, if_pos hc, Assoc.get_set, if_pos rfl, this]
          simp [hc, hj]
        · rw [List.foldr_cons, if_pos hc, Assoc.get_set, if_neg hkj, this]
          simp [hkj]
      · by_cases hkj : k = j
        · subst hkj
          rw [List.foldr_cons, if_neg hc, this]
          simp [hc, hj]
        · simp only [List.foldr_cons, if_neg hc, this, List.mem_cons, hkj, false_or]
  unfold Tile.count
  rw [if_neg hc]
  rw [key _ List.nodup_range]
  simp [hk]

/-- A word that waits answers a state in which its engine alone stands at it (R370). -/
theorem finish_wait {s s' : State} (why : Nat) : finish s (.wait s' why) = .next (s'.stay why) := rfl

theorem finish_trap {s : State} (cause data : Nat) : finish s (.trap s cause data) = .next (s.takeTrap s.issue false cause data) := rfl

/-- The sections left after one has gone on depend on the sections, the results and words in flight and the channel alone. -/
theorem Tile.sweep_secs_congr {x y : Tile} (h1 : x.secs = y.secs) (h2 : x.inflight = y.inflight) (h3 : x.chan = y.chan)
    (h4 : x.late = y.late) (q : Nat) (f : Section → Section) : (x.setSec q f).sweep.secs = (y.setSec q f).sweep.secs := by
  have he : ∀ c, (x.setSec q f).ended c = (y.setSec q f).ended c := by
    intro c
    simp only [Tile.ended, Tile.setSec_inflight, Tile.setSec_chan, Tile.setSec_late, h2, h3, h4]
  simp only [Tile.sweep, he]
  simp only [Tile.setSec, h1]

/-- A section gone on by one word. -/
def Section.on (c : Section) : Section := { c with idx := c.idx + 1 }

theorem Tile.retireE_eq (x : Tile) (e : Engine) (q : Nat) :
    x.retireE e q false = (x.passE e q).count (retireEvent e) 1 := by
  simp only [Tile.retireE, Bool.false_eq_true, if_false]

theorem Tile.passE_eq (x : Tile) (e : Engine) (q : Nat) : x.passE e q = (((x.setSec q Section.on).sweep).setWait e 0).hasRun := rfl

@[simp] theorem Tile.passE_secs (x : Tile) (e : Engine) (q : Nat) : (x.passE e q).secs = (x.setSec q Section.on).sweep.secs := by
  rw [Tile.passE_eq, Tile.hasRun_secs, Tile.setWait_secs]
@[simp] theorem Tile.passE_inflight (x : Tile) (e : Engine) (q : Nat) : (x.passE e q).inflight = x.inflight := by
  rw [Tile.passE_eq, Tile.hasRun_inflight, Tile.setWait_inflight, Tile.sweep_inflight, Tile.setSec_inflight]
@[simp] theorem Tile.passE_chan (x : Tile) (e : Engine) (q : Nat) : (x.passE e q).chan = x.chan := by
  rw [Tile.passE_eq, Tile.hasRun_chan, Tile.setWait_chan, Tile.sweep_chan, Tile.setSec_chan]
@[simp] theorem Tile.passE_late (x : Tile) (e : Engine) (q : Nat) : (x.passE e q).late = x.late := by
  rw [Tile.passE_eq, Tile.hasRun_late, Tile.setWait_late, Tile.sweep_late, Tile.setSec_late]
@[simp] theorem Tile.passE_pcs (x : Tile) (e : Engine) (q : Nat) : (x.passE e q).pcs = x.pcs := by
  rw [Tile.passE_eq, Tile.hasRun_pcs, Tile.setWait_pcs, Tile.sweep_pcs, Tile.setSec_pcs]

theorem Tile.perfSel_setSec (x : Tile) (q : Nat) (f : Section → Section) : (x.setSec q f).perfSel = x.perfSel := rfl
theorem Tile.perfSel_sweep (x : Tile) : x.sweep.perfSel = x.perfSel := rfl
theorem Tile.perfSel_setWait (x : Tile) (e : Engine) (n : Nat) : (x.setWait e n).perfSel = x.perfSel := rfl
theorem Tile.perfSel_hasRun (x : Tile) : x.hasRun.perfSel = x.perfSel := rfl

@[simp] theorem Tile.passE_perfSel (x : Tile) (e : Engine) (q : Nat) : (x.passE e q).perfSel = x.perfSel := by
  rw [Tile.passE_eq, Tile.perfSel_hasRun, Tile.perfSel_setWait, Tile.perfSel_sweep, Tile.perfSel_setSec]

theorem Tile.passE_waitWhy (x : Tile) (e : Engine) (q : Nat) : (x.passE e q).waitWhy e = 0 := by
  rw [Tile.passE_eq, Tile.waitWhy, Tile.hasRun_waits]
  exact Tile.waitWhy_setWait ..

theorem Tile.passE_fixedE (x : Tile) (e : Engine) (q : Nat) : fixedE (x.passE e q) = fixedE x := by
  have h0 : ∀ z : Tile, fixedE z.hasRun = fixedE z := fun _ => rfl
  have h1 : ∀ z : Tile, fixedE (z.setWait e 0) = fixedE z := fun _ => rfl
  have h2 : ∀ z : Tile, fixedE z.sweep = fixedE z := fun _ => rfl
  have h3 : fixedE (x.setSec q Section.on) = fixedE x := rfl
  rw [Tile.passE_eq, h0, h1, h2, h3]

theorem Tile.fixedE_count (x : Tile) (code n : Nat) : fixedE (x.count code n) = fixedE x := by
  obtain ⟨p, h⟩ := Tile.count_eq x code n
  rw [h]
  rfl

theorem Tile.retireE_secs (x y : Tile) (h : x.secs = y.secs) (e : Engine) (q : Nat) :
    (x.retireE e q false).secs =
      ({ x.retireE e q false with secs := y.secs }.setSec q fun c => { c with idx := c.idx + 1 }).sweep.secs := by
  have hi : (x.retireE e q false).inflight = x.inflight := by rw [Tile.retireE_eq, Tile.count_inflight, Tile.passE_inflight]
  have hc : (x.retireE e q false).chan = x.chan := by rw [Tile.retireE_eq, Tile.count_chan, Tile.passE_chan]
  have hl : (x.retireE e q false).late = x.late := by rw [Tile.retireE_eq, Tile.count_late, Tile.passE_late]
  have hs : (x.retireE e q false).secs = (x.setSec q Section.on).sweep.secs := by
    rw [Tile.retireE_eq, Tile.count_secs, Tile.passE_secs]
  rw [hs]
  generalize x.retireE e q false = z at hi hc hl
  exact Tile.sweep_secs_congr (y := { z with secs := y.secs }) h hi.symm hc.symm hl.symm q Section.on

theorem Tile.retireE_pcs (x y : Tile) (h : x.pcs = y.pcs) (hp : x.perfSel = y.perfSel) (e : Engine) (q : Nat) :
    (x.retireE e q false).pcs = (y.count (retireEvent e) 1).pcs := by
  rw [Tile.retireE_eq]
  exact Tile.count_pcs_congr ((Tile.passE_pcs x e q).trans h) ((Tile.passE_perfSel x e q).trans hp) _ _

theorem Tile.retireE_waitWhy (x : Tile) (e : Engine) (q : Nat) : (x.retireE e q false).waitWhy e = 0 := by
  rw [Tile.retireE_eq, Tile.waitWhy, Tile.count_waits]
  exact Tile.passE_waitWhy x e q

theorem Tile.retireE_fixedE (x : Tile) (e : Engine) (q : Nat) : fixedE (x.retireE e q false) = fixedE x := by
  rw [Tile.retireE_eq, Tile.fixedE_count, Tile.passE_fixedE]

/-- What a word of another engine that changes its tile to y, and leaves sections and counters as they are, answers. -/
theorem finish_retireE {s : State} {y : Tile} (he : s.issue.eng ≠ .S) (hc : y.secs = (here s).secs)
    (hp : y.pcs = (here s).pcs) (hs : y.perfSel = (here s).perfSel) :
    ∃ t, finish s (.retire (s.putTile y)) = .next t ∧ ENext s t ∧ fixedE (here t) = fixedE y := by
  have h1 : (s.putTile y).tile s.issue.tile = y := State.tile_setTile_self ..
  have ht : (s.putTile y).retire false = s.setTile s.issue.tile (y.retireE s.issue.eng s.issue.seq false) := by
    have e : (s.putTile y).retire false =
        (s.putTile y).setTile s.issue.tile (((s.putTile y).tile s.issue.tile).retireE s.issue.eng s.issue.seq false) := by
      unfold State.retire
      exact if_neg he
    rw [e, h1]
    exact State.setTile_setTile ..
  have hh : here (s.setTile s.issue.tile (y.retireE s.issue.eng s.issue.seq false)) =
      y.retireE s.issue.eng s.issue.seq false := State.tile_setTile_self ..
  refine ⟨s.setTile s.issue.tile (y.retireE s.issue.eng s.issue.seq false), congrArg _ ht, ⟨onlyTile_setTile .., ?_⟩, ?_⟩
  · rw [hh]
    exact ⟨Tile.retireE_secs _ _ hc _ _, Tile.retireE_pcs _ _ hp hs _ _, Tile.retireE_waitWhy ..⟩
  · rw [hh]
    exact Tile.retireE_fixedE ..

end Sys2Proof.Machine
end

