-- ==== Sys2Proof/Machine/Assembly.lean ====
section
/-! DEFINITION. The values of an assembler source (R77, R78, R80, R82): guards, expressions, real literals, liveness lists, structures
by key, and data. Each function answers none where the spec names an assembly error. -/

namespace Sys2Proof.Machine

/-! ### Guards (R77) -/

/-- A predicate name of a guard. -/
inductive PredName where
  | c (n : BitVec 3)
  | p (n : BitVec 3)
  | s (n : BitVec 3)
  deriving DecidableEq, Repr

/-- The number of a name in an engine's name space (Table 03-13). -/
def PredName.num (e : Engine) : PredName → Option Nat
  | .s n => some (8 + n.toNat)
  | .c n => if e = .S ∨ e = .M ∨ e = .X then some n.toNat else none
  | .p n => if e = .L ∨ e = .A ∨ e = .W then some n.toNat else none

/-- A guard expression. -/
inductive GExpr where
  | name (p : PredName)
  | const (b : Bool)
  | not (x : GExpr)
  | and (x y : GExpr)
  | or (x y : GExpr)
  | xor (x y : GExpr)
  deriving DecidableEq, Repr

/-- The names of an expression, from the left. -/
def GExpr.names : GExpr → List PredName
  | .name p => [p]
  | .const _ => []
  | .not x => x.names
  | .and x y => x.names ++ y.names
  | .or x y => x.names ++ y.names
  | .xor x y => x.names ++ y.names

/-- The value of an expression for the values of its names. -/
def GExpr.eval (v : PredName → Bool) : GExpr → Bool
  | .name p => v p
  | .const b => b
  | .not x => !x.eval v
  | .and x y => x.eval v && y.eval v
  | .or x y => x.eval v || y.eval v
  | .xor x y => x.eval v ^^ y.eval v

/-- The truth table of an expression over its distinct names A, B, C. -/
def GExpr.table (x : GExpr) (ns : List PredName) : Nat :=
  maskOf (fun i => x.eval fun p => i.testBit (2 - ns.idxOf p)) 8

/-- The guard of an expression in a word of an engine. -/
def encodeGuard (e : Engine) (x : GExpr) : Option Guard :=
  let ns := x.names.eraseDups
  let t := x.table ns
  if ns.length > 3 || (ns.any fun p => (p.num e).isNone) || t = 0 then none
  else if t = 255 then some ⟨255, 0, 0, 0⟩
  else
    let f (k : Nat) : BitVec 4 := BitVec.ofNat 4 (((ns[k]?).bind fun p => p.num e).getD 0)
    some ⟨BitVec.ofNat 8 t, f 0, f 1, f 2⟩

/-- The raw form: a truth table and up to three names; missing names are 0. -/
def rawGuard (e : Engine) (tt : BitVec 8) (ns : List PredName) : Option Guard :=
  if ns.length > 3 || (ns.any fun p => (p.num e).isNone) then none
  else
    let f (k : Nat) : BitVec 4 := BitVec.ofNat 4 (((ns[k]?).bind fun p => p.num e).getD 0)
    some ⟨tt, f 0, f 1, f 2⟩

/-! ### Expressions (R78) -/

/-- The operators of an expression. -/
inductive AOp where
  | add | sub | mul | div | mod | shl | shr | and | or | xor
  deriving DecidableEq, Repr

/-- An expression. -/
inductive AExpr where
  | lit (n : Nat)
  | sym (x : String)
  | neg (x : AExpr)
  | inv (x : AExpr)
  | bin (op : AOp) (x y : AExpr)
  deriving DecidableEq, Repr

/-- A value that fits 64-bit two's complement. -/
def in64 (x : Int) : Option Int := if -(2 ^ 63 : Int) ≤ x ∧ x < 2 ^ 63 then some x else none

/-- A bitwise operator on 64-bit patterns. -/
def bitwise64 (f : W64 → W64 → W64) (x y : Int) : Int := (f (BitVec.ofInt 64 x) (BitVec.ofInt 64 y)).toInt

/-- An operator: overflow is an error; a division truncates, a remainder has the sign of the dividend. DESIGN CHOICE (log 52): a zero
divisor and a shift amount outside 0 to 63 are errors, and >> of a negative value is arithmetic: it rounds down. -/
def AOp.apply (op : AOp) (x y : Int) : Option Int :=
  match op with
  | .add => in64 (x + y)
  | .sub => in64 (x - y)
  | .mul => in64 (x * y)
  | .div => if y = 0 then none else in64 (x.tdiv y)
  | .mod => if y = 0 then none else in64 (x.tmod y)
  | .shl => if y < 0 ∨ y > 63 then none else in64 (x * 2 ^ y.toNat)
  | .shr => if y < 0 ∨ y > 63 then none else some (x / 2 ^ y.toNat)
  | .and => some (bitwise64 (· &&& ·) x y)
  | .or => some (bitwise64 (· ||| ·) x y)
  | .xor => some (bitwise64 (· ^^^ ·) x y)

/-- The value of an expression, given what its symbols stand for. A literal of 64 bits is taken as its pattern (log 52). -/
def AExpr.eval (v : String → Option Int) : AExpr → Option Int
  | .lit n => if n < 2 ^ 64 then some (BitVec.ofNat 64 n).toInt else none
  | .sym x => v x
  | .neg x => (x.eval v).bind fun a => in64 (-a)
  | .inv x => (x.eval v).map fun a => -a - 1
  | .bin op x y => match x.eval v, y.eval v with | some a, some b => op.apply a b | _, _ => none

/-- A real literal, a sign and n / 10^k or n * 10^k, rounded RNE to a floating type (R76, R78): its bit pattern. -/
def realBits (t : Fmt) (neg : Bool) (n k : Nat) (up : Bool) : Nat :=
  if n = 0 then t.zeroBits neg
  else if up then (t.round 0 0 false neg (n * 10 ^ k) 0 false).1
  else
    let sh := 64 + lg2 (10 ^ k) + 1
    (t.round 0 0 false neg (n * 2 ^ sh / 10 ^ k) (-(sh : Int)) (n * 2 ^ sh % 10 ^ k != 0)).1

/-! ### Liveness lists (R82) -/

/-- A register named in a liveness list (R82). -/
inductive LiveReg where
  | g (n : BitVec 6)
  | p (n : BitVec 3)
  | m (n : BitVec 2)
  | c (n : BitVec 3)
  | v (n : Nat)
  deriving DecidableEq, Repr

/-- A register's slot and bit (Table 03-12). -/
def LiveReg.place : LiveReg → Nat × Nat
  | .g n => (2, n.toNat)
  | .p n => (2, 64 + n.toNat)
  | .m n => (2, 72 + n.toNat)
  | .c n => (2, 76 + n.toNat)
  | .v n => (n / 96, n % 96)

/-- Whether a register exists. -/
def LiveReg.ok : LiveReg → Bool
  | .v n => n < 192
  | _ => true

/-- The three liveness slots: of a list, or, without one, with every bit 1. -/
def liveSlots (l : Option (List LiveReg)) : List Slot :=
  match l with
  | none => List.replicate 3 (BitVec.allOnes 96)
  | some rs => (List.range 3).map fun k => BitVec.ofNat 96 (maskOf (fun b => rs.any fun r => r.place == (k, b)) 96)

/-- x as a w-bit pattern, where it lies in a range. -/
def inRange (w : Nat) (lo hi x : Int) : Option Nat := if lo ≤ x ∧ x < hi then some (wrap w x) else none

/-! ### Code rows -/

/-- Slots laid out in code rows, 21 to a row, padded with zero slots to n rows (R46, R84). -/
def codeRowBytes (ws : List Slot) : (n : Nat) → List Byte
  | 0 => []
  | n + 1 => padTo 256 ((ws.take 21).flatMap bytesOfSlot) ++ codeRowBytes (ws.drop 21) n

/-! ### Structures by key (R80) -/

/-- A field of a structure: its name, lowest bit, width, and whether it is signed. -/
structure AKey where
  name : String
  lo : Nat
  wid : Nat
  signed : Bool := false
  deriving DecidableEq, Repr

/-- The fields of a layout entry (Table 10-2). -/
def layoutKeys : List AKey :=
  [⟨"base", 0, 64, false⟩, ⟨"hbase", 64, 64, false⟩, ⟨"ext0", 128, 16, false⟩, ⟨"ext1", 144, 16, false⟩, ⟨"ext2", 160, 16, false⟩,
   ⟨"ext3", 176, 16, false⟩, ⟨"stride0", 192, 32, true⟩, ⟨"stride1", 224, 32, true⟩, ⟨"stride2", 256, 32, true⟩,
   ⟨"stride3", 288, 32, true⟩, ⟨"fmt", 320, 8, false⟩, ⟨"desc", 328, 1, false⟩, ⟨"space", 329, 2, false⟩, ⟨"rank", 331, 2, false⟩,
   ⟨"bkey", 336, 5, false⟩, ⟨"slot", 358, 4, false⟩, ⟨"bn", 362, 4, false⟩, ⟨"side", 366, 1, false⟩, ⟨"bound", 367, 1, false⟩]

/-- The fields of a buffer-ring entry, C the low word (Table 10-3). -/
def ringKeys : List AKey :=
  [⟨"brow", 0, 14, false⟩, ⟨"srows", 14, 14, false⟩, ⟨"nm1", 28, 4, false⟩, ⟨"st", 64, 32, false⟩, ⟨"pend", 96, 16, false⟩,
   ⟨"dr", 112, 4, false⟩, ⟨"da", 116, 4, false⟩, ⟨"fr", 120, 4, false⟩, ⟨"fa", 124, 4, false⟩]

/-- The fields of a launch header (Table 10-5). -/
def launchKeys : List AKey :=
  [⟨"kind", 0, 1, false⟩, ⟨"prio", 1, 3, false⟩, ⟨"slip", 4, 4, false⟩, ⟨"ndep", 8, 3, false⟩, ⟨"priv", 11, 3, false⟩,
   ⟨"mint", 14, 10, false⟩, ⟨"maxt", 24, 10, false⟩, ⟨"widths", 64, 42, false⟩, ⟨"roles", 106, 18, false⟩, ⟨"ext0", 128, 17, false⟩,
   ⟨"ext1", 145, 17, false⟩, ⟨"extz", 162, 24, false⟩, ⟨"deps", 192, 48, false⟩, ⟨"entry", 256, 20, false⟩, ⟨"code", 276, 14, false⟩,
   ⟨"ncode", 290, 14, false⟩, ⟨"wl", 320, 14, false⟩, ⟨"nwl", 334, 14, false⟩, ⟨"livemap", 384, 64, false⟩, ⟨"layimg", 448, 64, false⟩,
   ⟨"ringimg", 512, 64, false⟩, ⟨"params", 576, 64, false⟩, ⟨"done", 640, 64, false⟩, ⟨"seed", 704, 32, false⟩, ⟨"ckpt", 736, 32, false⟩,
   ⟨"ctx", 768, 64, false⟩, ⟨"tctx", 832, 16, false⟩]

/-- The fields of a graph node (Table 10-6). -/
def nodeKeys : List AKey :=
  [⟨"kind", 0, 4, false⟩, ⟨"nsucc", 8, 8, false⟩, ⟨"pending", 16, 16, false⟩, ⟨"reload", 32, 16, false⟩, ⟨"arg", 64, 64, false⟩,
   ⟨"succ0", 128, 64, false⟩, ⟨"succ1", 192, 64, false⟩, ⟨"succ2", 256, 64, false⟩, ⟨"succ3", 320, 64, false⟩, ⟨"succ4", 384, 64, false⟩,
   ⟨"succ5", 448, 64, false⟩]

/-- A value of a key: a number, or va(sym) as the segment kind and the byte offset of the symbol (R79). -/
inductive AVal where
  | num (x : Int)
  | va (kind off : Nat)
  deriving DecidableEq, Repr

/-- A value that fits a field; one of 64 bits takes every pattern (log 52). va(sym) stands in a field of 64 bits, which holds the
symbol's offset until the load address is added. -/
def AKey.fit (k : AKey) : AVal → Option Nat
  | .num x =>
    if k.wid = 64 then some (wrap 64 x)
    else if k.signed then inRange k.wid (-(2 ^ (k.wid - 1) : Int)) (2 ^ (k.wid - 1)) x
    else inRange k.wid 0 (2 ^ k.wid) x
  | .va _ off => if k.wid = 64 then some off else none

/-- A structure from its keys: an omitted key is 0, and one value stands for each (R80); keys are case-sensitive (log 52). -/
def packKeys (ks : List AKey) (kv : List (String × AVal)) : Option Nat :=
  if kv.all (fun p => ks.any fun k => k.name == p.1) then
    ks.foldr (fun k acc =>
      match acc, (match kv.lookup k.name with | some v => k.fit v | none => some 0) with
      | some n, some x => some (n + x * 2 ^ k.lo)
      | _, _ => none) (some 0)
  else none

/-- The relocations of a structure that stands at a byte offset of a segment of a kind. -/
def relocsOf (ks : List AKey) (kv : List (String × AVal)) (kind base : Nat) : List Reloc :=
  ks.filterMap fun k =>
    match kv.lookup k.name with
    | some (.va t _) => some { fld := kind, tgt := t, off := base + k.lo / 8 }
    | _ => none

/-! ### Data (R80) -/

/-- A value of `.data`: an expression's value, a real literal n / 10^k or n * 10^k, or va(sym). -/
inductive AData where
  | num (x : Int)
  | real (neg : Bool) (n k : Nat) (up : Bool)
  | va (kind off : Nat)
  deriving DecidableEq, Repr

/-- The bit pattern of a value of an element type: an integer in the type's signed or unsigned range; the
signed range of w bits for .bfp-w, stored sign-extended (R29, Table 02-1); for a floating type a real literal rounded, or a pattern
that fits; va(sym) for a type of 64 bits, its field holding the symbol's offset. -/
def dataElem (ty : Nat) : AData → Option Nat
  | .num x =>
    let b := WellFormed.typeWidth ty
    if ty ≤ 7 then (if b = 64 then some (wrap 64 x) else inRange b (-(2 ^ (b - 1) : Int)) (2 ^ b) x)
    else if 16 ≤ ty then inRange 8 (-(2 ^ (ty - 15) : Int)) (2 ^ (ty - 15)) x
    else inRange b 0 (if ty = 13 || ty = 14 then 64 else 2 ^ b) x
  | .real neg n k up => (Fmt.ofType? ty).map fun t => realBits t neg n k up
  | .va _ off => if ty = 3 || ty = 7 then some off else none

/-- The bytes of a `.data` directive: elements packed as R29 packs them, the last byte filled with zero bits. -/
def dataBytes (ty : Nat) (vs : List AData) : Option (List Byte) :=
  let w := WellFormed.typeWidth ty
  (vs.mapM (dataElem ty)).map fun xs => toBytes (ceilDiv (w * xs.length) 8) (packElems w xs)

/-- The relocations of a `.data` directive whose first byte lies at an offset of the parameter block. -/
def dataRelocs (base : Nat) (vs : List AData) : List Reloc :=
  vs.zipIdx.filterMap fun v => match v.1 with
    | .va kind _ => some { fld := 6, tgt := kind, off := base + 8 * v.2 }
    | _ => none

/-- Zero bytes that `.align` adds after len bytes, up to a boundary of n bytes, a power of two from 1 to 4,096. -/
def alignPad (n : Int) (len : Nat) : Option Nat :=
  let k := n.toNat
  if 1 ≤ n && n ≤ 4096 && k == 2 ^ lg2 k then some (ceilDiv len k * k - len) else none

end Sys2Proof.Machine
end

