-- ==== Sys2Proof/Machine/AsmText.lean ====
section
/-! DEFINITION. The text of an assembler source (R74, R77, R78): characters to tokens, a line to its label and its word or directive,
and the grammar of expressions and guards. Where the spec gives no precedence of operators, that of C is taken (log 52). -/

namespace Sys2Proof.Machine

/-! ### Tokens -/

/-- A token of a line. A real literal is n / 10^k, or n * 10^k. -/
inductive Tok where
  | name (x : String)
  | num (n : Nat)
  | real (n k : Nat) (up : Bool)
  | sym (x : String)
  deriving DecidableEq, Repr

/-- The lower-case form of a name: mnemonics, suffixes, register names and directives are case-insensitive (R74). -/
def lowName (x : String) : String := String.ofList (x.toList.map Char.toLower)

def isName0 (c : Char) : Bool := c.isAlpha || c == '_'
def isNameChar (c : Char) : Bool := c.isAlpha || c.isDigit || c == '_'

/-- The value of a digit; 16 where the character is none. -/
def digitOf (c : Char) : Nat :=
  if '0' ≤ c ∧ c ≤ '9' then c.toNat - 48
  else if 'a' ≤ c ∧ c ≤ 'f' then c.toNat - 87
  else if 'A' ≤ c ∧ c ≤ 'F' then c.toNat - 55
  else 16

/-- Digits of a base, underscores between them allowed; none where there is no digit or a character is none. -/
def digitsOf (b : Nat) (cs : List Char) : Option Nat :=
  let ds := cs.filter (· != '_')
  if ds.isEmpty then none
  else ds.foldl (fun r c => r.bind fun n => if digitOf c < b then some (b * n + digitOf c) else none) (some 0)

/-- An exponent after a decimal literal: its sign, its digits, and what follows. -/
def exponentOf : List Char → Option (Bool × List Char × List Char)
  | e :: r =>
    if e == 'e' || e == 'E' then
      let (neg, r1) := match r with | '-' :: q => (true, q) | '+' :: q => (false, q) | _ => (false, r)
      let ds := r1.takeWhile fun c => c.isDigit || c == '_'
      if !ds.any Char.isDigit then none else some (neg, ds, r1.drop ds.length)
    else none
  | [] => none

/-- A literal at a digit, and what follows it (R78): hexadecimal, binary, decimal, or real with a point, an exponent or both. A
real literal without a digit before or after its point (`.5`, `1.`) is no literal (log 52). -/
def lexNumber (cs : List Char) : Option (Tok × List Char) :=
  let run := cs.takeWhile isNameChar
  match run with
  | '0' :: x :: ds =>
    if x == 'x' || x == 'X' then (digitsOf 16 ds).map fun n => (.num n, cs.drop run.length)
    else if x == 'b' || x == 'B' then (digitsOf 2 ds).map fun n => (.num n, cs.drop run.length)
    else decimal
  | _ => decimal
where
  decimal : Option (Tok × List Char) :=
    let ip := cs.takeWhile fun c => c.isDigit || c == '_'
    let r := cs.drop ip.length
    let fs := match r with | '.' :: q => q.takeWhile fun (c : Char) => c.isDigit || c == '_' | _ => []
    let fp := fs.filter (· != '_')
    let r1 := if fp.isEmpty then r else r.drop (fs.length + 1)
    let (neg, ds, r2) := (exponentOf r1).getD (false, [], r1)
    match digitsOf 10 (ip ++ fp), r2 with
    | some n, rest =>
      if (rest.head?.map isNameChar).getD false then none
      else if fp.isEmpty && ds.isEmpty then some (.num n, rest)
      else
        let e := (digitsOf 10 ds).getD 0
        let up := !neg && fp.length ≤ e
        some (.real n (if up then e - fp.length else if neg then fp.length + e else fp.length - e) up, rest)
    | none, _ => none

/-- The tokens of a line up to its comment (R74). -/
def lexLine : (fuel : Nat) → List Char → Option (List Tok)
  | 0, _ => none
  | _ + 1, [] => some []
  | f + 1, c :: r =>
    if c == ' ' || c == '\t' || c == '\r' then lexLine f r
    else if c == ';' || (c == '/' && r.head? == some '/') then some []
    else if c.isDigit then (lexNumber (c :: r)).bind fun p => (lexLine f p.2).map (p.1 :: ·)
    else if isName0 c then
      let x := (c :: r).takeWhile isNameChar
      (lexLine f ((c :: r).drop x.length)).map (.name (String.ofList x) :: ·)
    else if (c == '<' || c == '>') && r.head? == some c then (lexLine f (r.drop 1)).map (.sym (String.ofList [c, c]) :: ·)
    else if ":?(),.+-*/%&|^~!=".toList.contains c then (lexLine f r).map (.sym (String.ofList [c]) :: ·)
    else none

/-! ### Expressions -/

/-- A name with a dot in it, such as a label that `.loop` names. -/
def dotted (x : String) : List Tok → String × List Tok
  | .sym "." :: .name y :: r => (x ++ "." ++ y, r)
  | r => (x, r)

/-- The operators of a level, loosest first. -/
def binOps : Nat → List (String × AOp)
  | 0 => [("|", .or)]
  | 1 => [("^", .xor)]
  | 2 => [("&", .and)]
  | 3 => [("<<", .shl), (">>", .shr)]
  | 4 => [("+", .add), ("-", .sub)]
  | _ => [("*", .mul), ("/", .div), ("%", .mod)]

/-- Where a parser stands: at an operand of a level, or after one. -/
inductive PMode (α : Type) where
  | at (lvl : Nat)
  | after (lvl : Nat) (x : α)

/-- An expression and the tokens that follow it. -/
def parseGo : (fuel : Nat) → PMode AExpr → List Tok → Option (AExpr × List Tok)
  | 0, _, _ => none
  | f + 1, .after lvl x, ts =>
    match ts with
    | .sym o :: r => match (binOps lvl).lookup o with
      | some op => (parseGo f (.at (lvl + 1)) r).bind fun p => parseGo f (.after lvl (.bin op x p.1)) p.2
      | none => some (x, ts)
    | _ => some (x, ts)
  | f + 1, .at lvl, ts =>
    if lvl < 6 then (parseGo f (.at (lvl + 1)) ts).bind fun p => parseGo f (.after lvl p.1) p.2
    else match ts with
      | .num n :: r => some (.lit n, r)
      | .name x :: r => let p := dotted x r; some (.sym p.1, p.2)
      | .sym "-" :: r => (parseGo f (.at 6) r).map fun p => (.neg p.1, p.2)
      | .sym "+" :: r => parseGo f (.at 6) r
      | .sym "~" :: r => (parseGo f (.at 6) r).map fun p => (.inv p.1, p.2)
      | .sym "(" :: r => (parseGo f (.at 0) r).bind fun p => match p.2 with | .sym ")" :: q => some (p.1, q) | _ => none
      | _ => none

/-- An expression at the head of a list of tokens. -/
def parseExpr (ts : List Tok) : Option (AExpr × List Tok) := parseGo (16 * ts.length + 16) (.at 0) ts

/-- A whole operand that is an expression. -/
def wholeExpr (ts : List Tok) : Option AExpr := (parseExpr ts).bind fun p => if p.2.isEmpty then some p.1 else none

/-- A whole operand that is a real literal: its sign and its digits. -/
def wholeReal : List Tok → Option (Bool × Nat × Nat × Bool)
  | [.real n k up] => some (false, n, k, up)
  | [.sym "-", .real n k up] => some (true, n, k, up)
  | [.sym "+", .real n k up] => some (false, n, k, up)
  | _ => none

/-- Tokens cut at the commas outside parentheses; the last piece is the one being read. -/
def cutCommas : (depth : Nat) → (cur : List Tok) → List Tok → List (List Tok)
  | _, cur, [] => [cur.reverse]
  | d, cur, t :: r =>
    match t with
    | .sym "(" => cutCommas (d + 1) (t :: cur) r
    | .sym ")" => cutCommas (d - 1) (t :: cur) r
    | .sym "," => if d = 0 then cur.reverse :: cutCommas 0 [] r else cutCommas d (t :: cur) r
    | _ => cutCommas d (t :: cur) r

/-- The operands of a line. -/
def operands (ts : List Tok) : List (List Tok) := if ts.isEmpty then [] else cutCommas 0 [] ts

/-! ### Registers and guards -/

/-- The number after a prefix in a name, below a bound. -/
def numbered (pre : String) (bound : Nat) (x : String) : Option Nat :=
  let cs := (lowName x).toList
  let ps := pre.toList
  if cs.take ps.length == ps then
    let ds := cs.drop ps.length
    if ds.all Char.isDigit then (digitsOf 10 ds).bind fun n => if n < bound then some n else none else none
  else none

/-- A predicate name. -/
def predName (x : String) : Option PredName :=
  match numbered "p" 8 x, numbered "c" 8 x, numbered "s" 8 x with
  | some n, _, _ => some (.p (BitVec.ofNat 3 n))
  | _, some n, _ => some (.c (BitVec.ofNat 3 n))
  | _, _, some n => some (.s (BitVec.ofNat 3 n))
  | _, _, _ => none

/-- A guard expression and the tokens that follow it: levels | ^ & from the loosest. -/
def parseGuardGo : (fuel : Nat) → PMode GExpr → List Tok → Option (GExpr × List Tok)
  | 0, _, _ => none
  | f + 1, .after lvl x, ts =>
    let next (mk : GExpr → GExpr → GExpr) (r : List Tok) : Option (GExpr × List Tok) :=
      (parseGuardGo f (.at (lvl + 1)) r).bind fun p => parseGuardGo f (.after lvl (mk x p.1)) p.2
    match lvl, ts with
    | 0, .sym "|" :: r => next .or r
    | 1, .sym "^" :: r => next .xor r
    | 2, .sym "&" :: r => next .and r
    | _, _ => some (x, ts)
  | f + 1, .at lvl, ts =>
    if lvl < 3 then (parseGuardGo f (.at (lvl + 1)) ts).bind fun p => parseGuardGo f (.after lvl p.1) p.2
    else match ts with
      | .num n :: r => if n ≤ 1 then some (.const (n == 1), r) else none
      | .name x :: r => (predName x).map fun p => (.name p, r)
      | .sym "!" :: r => (parseGuardGo f (.at 3) r).map fun p => (.not p.1, p.2)
      | .sym "(" :: r => (parseGuardGo f (.at 0) r).bind fun p => match p.2 with | .sym ")" :: q => some (p.1, q) | _ => none
      | _ => none

/-- A guard expression at the head of a list of tokens. -/
def parseGuard (ts : List Tok) : Option (GExpr × List Tok) := parseGuardGo (16 * ts.length + 16) (.at 0) ts

/-- A guard as it is written: none, an expression, or the raw form. -/
inductive AGuard where
  | none
  | expr (x : GExpr)
  | raw (tt : Nat) (ns : List PredName)
  deriving DecidableEq, Repr

/-- Names in parentheses, cut by commas. -/
def nameList : List Tok → Option (List PredName × List Tok)
  | .sym "(" :: .sym ")" :: r => some ([], r)
  | .sym "(" :: .name a :: .sym ")" :: r => (predName a).map fun x => ([x], r)
  | .sym "(" :: .name a :: .sym "," :: .name b :: .sym ")" :: r =>
    (predName a).bind fun x => (predName b).map fun y => ([x, y], r)
  | .sym "(" :: .name a :: .sym "," :: .name b :: .sym "," :: .name c :: .sym ")" :: r =>
    (predName a).bind fun x => (predName b).bind fun y => (predName c).map fun z => ([x, y, z], r)
  | .sym "(" :: _ => .none
  | r => some ([], r)

/-- The raw form of a table, `tt=0x80(p1,p2,s0)`. -/
def rawTable : List Tok → Option ((Nat × List PredName) × List Tok)
  | .name x :: .sym "=" :: .num n :: r =>
    if lowName x == "tt" && n < 256 then (nameList r).map fun p => ((n, p.1), p.2) else none
  | _ => none

/-- The guard of a word (R77): its truth table and names in the word's engine. -/
def AGuard.encode (e : Engine) : AGuard → Option Guard
  | .none => some ⟨255, 0, 0, 0⟩
  | .expr x => encodeGuard e x
  | .raw tt ns => rawGuard e (BitVec.ofNat 8 tt) ns

/-! ### Lines (R74) -/

/-- A word as it is written: guard, mnemonic, suffixes, operands. -/
structure AWord where
  guard : AGuard := .none
  mnem : String
  sufs : List String := []
  ops : List (List Tok) := []
  deriving DecidableEq, Repr

/-- What a line holds, label first. -/
inductive AStmt where
  | label (x : String)
  | word (w : AWord)
  | dir (d : String) (args : List Tok)
  deriving DecidableEq, Repr

/-- Suffixes after a mnemonic, and the tokens that follow. -/
def suffixesOf : List Tok → List String × List Tok
  | .sym "." :: .name x :: r => let p := suffixesOf r; (lowName x :: p.1, p.2)
  | r => ([], r)

/-- A word with its guard given. Every part of a line is optional (R74): a guard alone is no word, and it gives no slot. -/
def wordOf (g : AGuard) : List Tok → Option (List AStmt)
  | .name m :: r =>
    let p := suffixesOf r
    some [.word { guard := g, mnem := lowName m, sufs := p.1, ops := operands p.2 }]
  | [] => some []
  | _ => none

/-- The part of a line after its label. -/
def bodyOf (ts : List Tok) : Option (List AStmt) :=
  match ts with
  | [] => some []
  | .sym "." :: .name d :: r => some [.dir (lowName d) r]
  | .sym "?" :: .sym "(" :: r => (parseGuard r).bind fun p => match p.2 with
    | .sym ")" :: q => wordOf (.expr p.1) q
    | _ => none
  | .sym "?" :: r => (rawTable r).bind fun p => wordOf (.raw p.1.1 p.1.2) p.2
  | _ => wordOf .none ts

/-- The statements of a line. -/
def stmtsOf (ts : List Tok) : Option (List AStmt) :=
  match ts with
  | .name x :: .sym ":" :: r => (bodyOf r).map (.label x :: ·)
  | .name x :: .sym "." :: .name y :: .sym ":" :: r => (bodyOf r).map (.label (x ++ "." ++ y) :: ·)
  | _ => bodyOf ts

/-- The statements of lines up to the one that holds `.end`: what follows it is no part of the source (Table 04-3). -/
def parseLines : List (List Char) → Option (List AStmt)
  | [] => some []
  | l :: ls => ((lexLine (l.length + 1) l).bind stmtsOf).bind fun sts =>
      if sts.any (fun st => match st with | .dir d _ => d == "end" | _ => false) then some sts
      else (parseLines ls).map (sts ++ ·)

/-- The statements of a source. -/
def parseSource (src : List Char) : Option (List AStmt) := parseLines (src.splitOn '\n')

end Sys2Proof.Machine
end

