-- ==== Sys2Proof/Machine/AsmWord.lean ====
section
/-! DEFINITION. How the assembler encodes a word (R75, R76, R79): the suffix classes and operand forms, the table of mnemonics with
their operands in order, and the checks that make a line an error. -/

namespace Sys2Proof.Machine.Asm

/-! ### Symbols (R78, R79) -/

/-- What a symbol of a source stands for. -/
inductive ASym where
  | label (a : Nat)
  | kernel (a : Nat)
  | equ (x : AExpr)
  | layout (n : Nat)
  | ring (n : Nat)
  | data (off : Nat)
  deriving DecidableEq, Repr

/-- The value of a symbol; the depth bounds a chain of `.equ`, so that one defined through itself has none. -/
def symValue (tab : List (String × ASym)) : (depth : Nat) → String → Option Int
  | 0, _ => none
  | d + 1, x => match tab.lookup x with
    | some (.label a) => some a
    | some (.kernel a) => some a
    | some (.layout n) => some n
    | some (.ring n) => some n
    | some (.data off) => some off
    | some (.equ e) => e.eval (symValue tab d)
    | none => none

/-- The value of an expression over a table of symbols. -/
def evalIn (tab : List (String × ASym)) (e : AExpr) : Option Int := e.eval (symValue tab (tab.length + 1))

/-- va(sym): the kind of the segment that holds the symbol and its byte offset there (R79). -/
def vaOfSym (tab : List (String × ASym)) (x : String) : Option (Nat × Nat) :=
  match tab.lookup x with
  | some (.data off) => some (6, off)
  | some (.label a) | some (.kernel a) => some (1, 256 * (a / 21) + 12 * (a % 21))
  | some (.layout n) => some (2, 64 * n)
  | some (.ring n) => some (3, 16 * n)
  | some (.equ _) | none => none

/-- What an operand is read with: the symbols, the header slots, the section's engine, the word's own address, its type. -/
structure AEnv where
  tab : List (String × ASym)
  headers : List Nat
  eng : Engine
  addr : Nat
  ty : Option Nat := none
  deriving DecidableEq, Repr

/-- A whole operand's value. -/
def AEnv.value (s : AEnv) (ts : List Tok) : Option Int := (wholeExpr ts).bind (evalIn s.tab)

/-! ### Operand forms (Table 04-2) -/

/-- An operand form with the word bits it fills: `lo` is a field's lowest bit and `wid` its width. -/
inductive OpForm where
  /-- a general register; the fe bit that `^` sets, where it has one -/
  | g (lo : Nat) (fe : Option Nat)
  /-- a vector register, with the bits of its modifier and its fe bit where it has them -/
  | v (lo : Nat) (md fe : Option Nat)
  /-- a name of a prefix and a number below a bound -/
  | num (pre : String) (bound lo : Nat)
  /-- a predicate name of the engine's name space -/
  | name (lo : Nat)
  /-- a layout coordinate: its entry, its registers with their fe bits, and its signed immediate -/
  | coord (lay : Nat) (regs : List (Nat × Option Nat)) (imm : Option (Nat × Nat))
  /-- a layout entry alone, and one with a word number -/
  | lay (lo : Nat)
  | layWord (lay wd : Nat)
  /-- a buffer ring -/
  | ring (lo : Nat)
  /-- an expression from min to max, less a bias -/
  | imm (lo wid : Nat) (min max bias : Int)
  /-- an expression or a real literal as a bit pattern; `typed` bounds it by the word's type -/
  | pat (lo wid : Nat) (typed : Bool)
  /-- a target, as its offset from the word -/
  | target (lo wid : Nat)
  /-- a power of two, as its logarithm -/
  | pow2 (lo wid : Nat)
  /-- a keyword, and one followed by an expression from min to max, less min -/
  | kw (lo : Nat) (ws : List (String × Nat))
  | kwImm (w : String) (lo wid : Nat) (min max : Int)
  /-- a truth table over three names -/
  | table (tt a b c : Nat)
  /-- the count of a semaphore word -/
  | count (fe : Option Nat)
  /-- the predicates c0 to c7 -/
  | preds
  /-- ordering classes, or `all`: every operand that is left -/
  | classes
  deriving DecidableEq, Repr

/-- A field's value placed. -/
def put (lo n : Nat) : Nat := n * 2 ^ lo

/-- The rest of an operand is nothing, or `^` where the operand has an fe bit (R76). -/
def caret (fe : Option Nat) : List Tok → Option Nat
  | [] => some 0
  | [.sym "^"] => fe.map fun b => put b 1
  | _ => none

/-- A register operand. -/
def regForm (pre : String) (bound lo : Nat) (fe : Option Nat) : List Tok → Option Nat
  | .name x :: r => (numbered pre bound x).bind fun n => (caret fe r).map (put lo n + ·)
  | _ => none

/-- log2 of a power of two. -/
def exactLog (x : Int) : Option Nat := let n := x.toNat; if 1 ≤ x && n == 2 ^ lg2 n then some (lg2 n) else none

/-- The number of a source modifier's class (Table 03-14). -/
def modClass (x : String) : Option Nat := [("rot", 1), ("bfly", 2), ("bcst", 3)].lookup (lowName x)

/-- A source modifier's 12 bits: its class, its segment, and its distance, span or index. -/
def AEnv.modifier (s : AEnv) (m : String) (args : List (List Tok)) : Option Nat :=
  match modClass m, args with
  | some cls, [a, b] => (s.value a).bind fun sg => (s.value b).bind fun d => (exactLog sg).bind fun k =>
      if k ≤ 10 && 0 ≤ d && d < 64 then some (cls * 2 ^ 10 + k * 2 ^ 6 + d.toNat) else none
  | _, _ => none

/-- Tokens up to the parenthesis that closes at depth 0, and those after it. -/
def closing : (depth : Nat) → (cur : List Tok) → List Tok → Option (List Tok × List Tok)
  | _, _, [] => none
  | d, cur, t :: r =>
    match t with
    | .sym "(" => closing (d + 1) (t :: cur) r
    | .sym ")" => if d = 0 then some (cur.reverse, r) else closing (d - 1) (t :: cur) r
    | _ => closing d (t :: cur) r

/-- A vector source or destination. -/
def AEnv.vector (s : AEnv) (lo : Nat) (md fe : Option Nat) : List Tok → Option Nat
  | .name x :: .sym "." :: .name m :: .sym "(" :: r =>
    match md, closing 0 [] r with
    | some b, some (args, rest) => (numbered "v" 192 x).bind fun n => (s.modifier m (operands args)).bind fun k =>
        (caret fe rest).map (put lo n + put b k + ·)
    | _, _ => none
  | ts => regForm "v" 192 lo fe ts

/-- A layout entry: L and a number, or a `.layout` symbol. -/
def AEnv.layoutNum (s : AEnv) (x : String) : Option Nat :=
  match s.tab.lookup x with
  | some (.layout n) => some n
  | _ => numbered "l" 256 x

/-- A buffer ring: b and a number, or a `.ring` symbol. -/
def AEnv.ringNum (s : AEnv) (x : String) : Option Nat :=
  match s.tab.lookup x with
  | some (.ring n) => some n
  | _ => numbered "b" 16 x

/-- The list of a layout coordinate: registers left out from the right are g0, and the immediate is known by its sign. -/
def AEnv.coords (s : AEnv) (imm : Option (Nat × Nat)) : List (Nat × Option Nat) → List (List Tok) → Option Nat
  | _, [] => some 0
  | regs, a :: as =>
    match a with
    | .sym "+" :: _ | .sym "-" :: _ => match imm with
      | some (lo, wid) => if as.isEmpty then (s.value a).bind fun x => (inRange wid (-(2 ^ (wid - 1) : Int)) (2 ^ (wid - 1)) x).map (put lo) else none
      | none => none
    | _ => match regs with
      | (lo, fe) :: rs => (regForm "g" 64 lo fe a).bind fun n => (AEnv.coords s imm rs as).map (n + ·)
      | [] => none

/-- The offset of a target from a word's own address: a header slot within 2^(wid-1) words (R79). -/
def AEnv.offset (s : AEnv) (wid : Nat) (ts : List Tok) : Option Nat :=
  (s.value ts).bind fun t =>
    if 0 ≤ t && s.headers.contains t.toNat then inRange wid (-(2 ^ (wid - 1) : Int)) (2 ^ (wid - 1)) (t - s.addr) else none

/-- A bit pattern of wid bits: a real literal rounded to the word's floating type, or an expression that is the pattern itself,
signed or unsigned; for a word with an integer type it fits that type, and a negative one is sign-extended (R76, R133, log 52). -/
def AEnv.pattern (s : AEnv) (wid : Nat) (typed : Bool) (ts : List Tok) : Option Nat :=
  match wholeReal ts with
  | some (neg, n, k, up) => (s.ty.bind Fmt.ofType?).map fun t => realBits t neg n k up
  | none =>
    let w := if typed then min wid (WellFormed.typeWidth (s.ty.getD 2)) else wid
    (s.value ts).bind fun x => inRange wid (-(2 ^ (w - 1) : Int)) (2 ^ w) x

/-- A truth table over up to three names, from an expression or raw (R107, R161). -/
def AEnv.truth (s : AEnv) (tt a b c : Nat) (ts : List Tok) : Option Nat :=
  let place (g : Guard) : Nat := put tt g.tt.toNat + put a g.ga.toNat + put b g.gb.toNat + put c g.gc.toNat
  match rawTable ts with
  | some ((t, ns), []) => (rawGuard s.eng (BitVec.ofNat 8 t) ns).map place
  | _ => (parseGuard ts).bind fun p =>
    if !p.2.isEmpty then none
    else if p.1.table p.1.names.eraseDups = 0 then
      (encodeGuard s.eng (.not p.1)).map fun _ => 0
    else (encodeGuard s.eng p.1).map place

/-- The count of a semaphore word: a register, an expression, or both (R324). -/
def AEnv.semCount (s : AEnv) (fe : Option Nat) (ts : List Tok) : Option Nat :=
  let reg (x : String) (r : List Tok) : Option Nat := regForm "g" 64 52 fe (.name x :: r)
  let off (e : List Tok) : Option Nat := (s.value e).bind fun x => (inRange 32 (-(2 ^ 31 : Int)) (2 ^ 32) x).map (put 20)
  match ts with
  | [.name x] => match reg x [] with | some n => some n | none => off ts
  | [.name x, .sym "^"] => reg x [.sym "^"]
  | .name x :: .sym "+" :: r => match reg x [], off r with | some n, some k => some (n + k) | _, _ => off ts
  | .name x :: .sym "^" :: .sym "+" :: r => match reg x [.sym "^"], off r with | some n, some k => some (n + k) | _, _ => none
  | _ => off ts

/-- Selectors of the system registers (Table 05-3). -/
def sysNames : List (String × Nat) :=
  [("tile_id", 0), ("point_id", 1), ("launch_id", 2), ("bound", 3), ("fp_flags", 4), ("rand_seed", 5), ("priv", 6), ("scyc", 7),
   ("rb", 8), ("trap_cause", 0x10), ("trap_engine", 0x11), ("trap_section", 0x12), ("trap_word", 0x13), ("trap_data", 0x14),
   ("waitlog_head", 0x18), ("bp0", 0x100), ("bp1", 0x101), ("bp2", 0x102), ("bp3", 0x103), ("wp0", 0x104), ("wp1", 0x105),
   ("wp2", 0x106), ("wp3", 0x107), ("trace_ctl", 0x108)]

/-- An operand's bits in the word. -/
def AEnv.form (s : AEnv) (k : OpForm) (ts : List Tok) : Option Nat :=
  match k with
  | .g lo fe => regForm "g" 64 lo fe ts
  | .v lo md fe => s.vector lo md fe ts
  | .num pre bound lo => regForm pre bound lo none ts
  | .name lo => match ts with
    | [.name x] => (predName x).bind fun p => (p.num s.eng).map (put lo)
    | _ => none
  | .coord lay regs imm => match ts with
    | .name x :: .sym "(" :: r => match closing 0 [] r with
      | some (args, []) => (s.layoutNum x).bind fun n => (s.coords imm regs (operands args)).map (put lay n + ·)
      | _ => none
    | _ => none
  | .lay lo => match ts with
    | [.name x] => (s.layoutNum x).map (put lo)
    | _ => none
  | .layWord lay wd => match ts with
    | [.name x, .sym ".", .num n] => if n < 8 then (s.layoutNum x).map fun k => put lay k + put wd n else none
    | _ => none
  | .ring lo => match ts with
    | [.name x] => (s.ringNum x).map (put lo)
    | _ => none
  | .imm lo wid mn mx bias => (s.value ts).bind fun x => if mn ≤ x && x ≤ mx then some (put lo (wrap wid (x - bias))) else none
  | .pat lo wid typed => (s.pattern wid typed ts).map (put lo)
  | .target lo wid => (s.offset wid ts).map (put lo)
  | .pow2 lo wid => (s.value ts).bind fun x => (exactLog x).bind fun n => if n < 2 ^ wid then some (put lo n) else none
  | .kw lo ws => match ts with
    | [.name x] => (ws.lookup (lowName x)).map (put lo)
    | _ => none
  | .kwImm w lo wid mn mx => match ts with
    | .name x :: r => if lowName x == w then (s.value r).bind fun n => if mn ≤ n && n ≤ mx then some (put lo (wrap wid (n - mn))) else none else none
    | _ => none
  | .table tt a b c => s.truth tt a b c ts
  | .count fe => s.semCount fe ts
  | .preds => match ts with
    | [.name a, .sym "-", .name b] => if lowName a == "c0" && lowName b == "c7" then some 0 else none
    | _ => none
  | .classes => match ts with
    | [.name x] => if lowName x == "all" then some (put 50 0xFFFF) else (numbered "o" 16 x).map fun n => put (50 + n) 1
    | _ => none

/-- The operands of a word against its forms, an optional one left out where what stands there is another's. A list of classes takes
all that is left. -/
def AEnv.forms (s : AEnv) : List (OpForm × Bool) → List (List Tok) → Option Nat
  | [], [] => some 0
  | [], _ :: _ => none
  | (.classes, _) :: _, os =>
    if os.isEmpty then none
    else os.foldr (fun o r => match s.form .classes o, r with | some a, some b => some (a ||| b) | _, _ => none) (some 0)
  | (k, opt) :: ks, os =>
    match os with
    | [] => if opt then AEnv.forms s ks [] else none
    | o :: rest => match s.form k o with
      | some n => (AEnv.forms s ks rest).map (n + ·)
      | none => if opt then AEnv.forms s ks os else none

/-! ### Suffix classes (Table 04-1) -/

/-- A class of suffixes in a word: their values, the fields they fill in the order written, and the default where they may be left
out. -/
structure SufClass where
  vals : List (String × Nat)
  los : List Nat
  dflt : Option Nat := none
  deriving DecidableEq, Repr

/-- The bits of a class: every field given its suffix, or the default. -/
def SufClass.bits (c : SufClass) (sufs : List String) : Option Nat :=
  let us := sufs.filterMap fun x => c.vals.lookup x
  if us.length = c.los.length then some ((us.zip c.los).foldl (fun n p => n + put p.2 p.1) 0)
  else if us.isEmpty then c.dflt.map fun n => put (c.los.headD 0) n
  else none

/-- Names with consecutive values. -/
def counted (xs : List String) : List (String × Nat) := xs.zipIdx

def typeNames : List (String × Nat) :=
  counted ["i8", "i16", "i32", "i64", "n8", "n16", "n32", "n64", "bf16", "f16", "f32", "e4m3", "e5m2", "e3m2", "e2m3", "e2m1",
    "bfp2", "bfp3", "bfp4", "bfp5", "bfp6", "bfp7", "bfp8"]

/-- The types of a word of format V3: `bfp` where .bfp2 to .bfp8 stand for .i8 (R150); `dflt` where the type may be left out. -/
def typeClass (lo : Nat) (bfp : Bool := false) (dflt : Option Nat := none) : SufClass :=
  { vals := typeNames.filterMap fun p => if p.2 < 16 then some p else if bfp then some (p.1, 0) else none, los := [lo], dflt }

/-- The two types of a conversion, destination first. -/
def convClass : SufClass := { vals := typeNames, los := [13, 3] }

def condClass (lo : Nat) : SufClass :=
  { vals := counted ["eq", "ne", "lt", "le", "gt", "ge", "ltn", "len", "gtn", "gen", "uo", "ord"], los := [lo] }
def rndClass (lo : Nat) : SufClass := { vals := counted ["rne", "rtz", "rpos", "rneg", "rsto"], los := [lo], dflt := some 0 }
def flagClass (x : String) (lo : Nat) : SufClass := { vals := [(x, 1)], los := [lo], dflt := some 0 }
def orderClass (lo : Nat) : SufClass :=
  { vals := (List.range 16).map fun n => ("o" ++ toString n, n), los := [lo], dflt := some 0 }
def rowsClass : SufClass := { vals := (List.range 16).map fun n => ("rows" ++ toString (n + 1), (n + 1) % 16), los := [8], dflt := some 0 }
def scopes : List (String × Nat) := counted ["tile", "die", "mod", "sys"]
def scopeClass (lo : Nat) : SufClass := { vals := scopes, los := [lo] }
def sizeClass : SufClass := { vals := counted ["n8", "n16", "n32", "b64", "i8", "i16", "i32"], los := [9] }
def sideClass : SufClass := { vals := counted ["f", "d"], los := [38] }

/-- The suffixes of a word: each belongs to one of its classes (R75). -/
def sufBits (cs : List SufClass) (sufs : List String) : Option Nat :=
  if sufs.all fun x => cs.any fun c => (c.vals.lookup x).isSome then
    cs.foldr (fun c r => match c.bits sufs, r with | some a, some b => some (a + b) | _, _ => none) (some 0)
  else none

/-! ### The words -/

/-- A way to write a word: its mnemonic, engines, code, operands in order (true for one that may be left out), suffix classes, and the
bits that the form itself sets. -/
structure WordForm where
  mnem : String
  engs : List Engine
  code : Nat
  ops : List (OpForm × Bool) := []
  sufs : List SufClass := []
  fixed : Nat := 0
  deriving DecidableEq, Repr

def req (ks : List OpForm) : List (OpForm × Bool) := ks.map fun k => (k, false)
def opt (k : OpForm) : OpForm × Bool := (k, true)

/-- Words whose codes run on from a first one, written alike. -/
def runOf (first : Nat) (names : List String) (f : String → Nat → WordForm) : List WordForm :=
  names.zipIdx.map fun p => f p.1 (first + p.2)

/-- Operands of format S. -/
def gd : OpForm := .g 60 none
def ga : OpForm := .g 54 (some 15)
def gb : OpForm := .g 48 (some 14)
def imm32 : OpForm := .pat 16 32 false

def sWord (code : Nat) (mnem : String) (ops : List OpForm) (sufs : List SufClass := []) (fixed : Nat := 0) : WordForm :=
  { mnem, engs := [.S], code, ops := req ops, sufs, fixed }

/-- Integer words (Table 06-1). -/
def intForms : List WordForm :=
  let three (c : Nat) (m : String) := sWord c m [gd, ga, gb]
  let withImm (c : Nat) (m : String) := sWord c m [gd, ga, imm32]
  let shift (c : Nat) (m : String) := sWord c m [gd, ga, .imm 16 6 0 63 0]
  [three 0x01 "add", withImm 0x02 "addi", three 0x03 "sub", three 0x04 "mul", withImm 0x05 "muli", three 0x06 "mulh", three 0x07 "mulhn",
   three 0x08 "div", three 0x09 "divn", three 0x0A "rem", three 0x0B "remn", three 0x0C "and", withImm 0x0D "andi", three 0x0E "or",
   withImm 0x0F "ori", three 0x10 "xor", withImm 0x11 "xori", three 0x12 "andn", three 0x13 "shl", shift 0x14 "shli", three 0x15 "shr",
   shift 0x16 "shri", three 0x17 "sar", shift 0x18 "sari", three 0x19 "rol", shift 0x1A "roli", three 0x1B "min", three 0x1C "minn",
   three 0x1D "max", three 0x1E "maxn", sWord 0x1F "clz" [gd, ga], sWord 0x20 "ctz" [gd, ga], sWord 0x21 "popc" [gd, ga],
   sWord 0x22 "bfx" [gd, ga, .imm 16 6 0 63 0, .imm 22 7 1 64 0], sWord 0x23 "bfi" [gd, ga, .imm 16 6 0 63 0, .imm 22 7 1 64 0],
   sWord 0x24 "sel" [gd, .num "c" 8 6, ga, gb], sWord 0x25 "movi" [gd, imm32], sWord 0x26 "movhi" [gd, imm32]]

/-- Compares, predicates, control transfer, loops, point fields and the rest of format S and B (Tables 06-2, 06-3, R105 to R127). -/
def ctlForms : List WordForm :=
  let cmp := [condClass 9, flagClass "z" 13]
  let bGa : OpForm := .g 22 (some 15)
  [sWord 0x28 "cmp" [.num "c" 8 6, .num "c" 8 3, ga, gb] cmp, sWord 0x29 "cmpi" [.num "c" 8 6, .num "c" 8 3, ga, imm32] cmp,
   sWord 0x2A "plog" [.num "c" 8 6, .table 16 24 28 32], sWord 0x2B "pmov" [gd, .preds], sWord 0x2B "pmov" [.preds, ga] [] (put 16 1),
   sWord 0x30 "br" [.target 34 32], { mnem := "brx", engs := [.S], code := 0x31, ops := [(bGa, false), opt (.imm 34 32 (-(2 ^ 31)) (2 ^ 31 - 1) 0)] },
   sWord 0x32 "call" [.g 28 none, .target 34 32], sWord 0x33 "ret" [bGa],
   sWord 0x34 "lrec" [.g 12 none, .imm 9 3 1 8 1, .target 50 16, .target 34 16, .target 18 16],
   sWord 0x35 "loop" [], sWord 0x36 "lfor" [bGa, .target 34 32], sWord 0x37 "lnext" [.target 34 32], sWord 0x38 "lidx" [gd, .num "k" 6 16],
   sWord 0x39 "pfld" [gd, .imm 16 3 0 5 0] [flagClass "w" 19], sWord 0x3A "halt" [], sWord 0x3B "trap" [imm32], sWord 0x3C "nop" [],
   sWord 0x40 "sld" [gd, .coord 40 [(54, some 15), (48, some 14)] (some (16, 20))] [sizeClass, orderClass 36],
   sWord 0x41 "sst" [gd, .coord 40 [(54, some 15), (48, some 14)] (some (16, 20))] [sizeClass, orderClass 36],
   sWord 0x48 "lset" [.layWord 58 55, .g 49 (some 37)], sWord 0x49 "lget" [.g 43 none, .layWord 58 55], sWord 0x4A "rinit" [.ring 39, .g 49 (some 37)],
   sWord 0x4B "racq" [.lay 58, .ring 39] [sideClass], sWord 0x4C "rrel" [.ring 39] [sideClass], sWord 0x4D "launch" [.g 49 (some 37)],
   sWord 0x52 "semr" [.g 12 none, .num "sem" 256 58], sWord 0x53 "wpop" [], sWord 0x54 "cyc" [gd, .num "pc" 8 16],
   sWord 0x60 "crd" [gd, .kw 16 sysNames], sWord 0x61 "cwr" [.kw 16 sysNames, ga], sWord 0x62 "tmark" [ga, .pat 16 16 false],
   sWord 0x58 "fence" [.classes], sWord 0x59 "xfence" [] [] (put 50 0xFFFF), sWord 0x59 "xfence" [.classes], sWord 0x5A "ifence" [], sWord 0x5B "drain" []]

/-- The words that engines other than S share: SEMW, SEMS and FENCE; the scope is an operand or a suffix (Tables 15-4, 17-2). -/
def syncForms : List WordForm :=
  let sem (m : String) (es : List Engine) (code : Nat) (fe : Option Nat) : List WordForm :=
    [{ mnem := m, engs := es, code, ops := req [.num "sem" 256 58, .count fe, .kw 18 scopes] },
     { mnem := m, engs := es, code, ops := req [.num "sem" 256 58, .count fe], sufs := [scopeClass 18] }]
  sem "sems" [.S] 0x50 (some 11) ++ sem "semw" [.S] 0x51 (some 11) ++ sem "semw" [.L, .A, .W, .M] 0x70 none ++
    sem "sems" [.L, .A, .W, .M] 0x71 none ++ [{ mnem := "fence", engs := [.L, .A, .W], code := 0x78, ops := req [.classes] }]

/-- Operands of format V3. -/
def vd : OpForm := .v 58 none none
def va : OpForm := .v 50 (some 38) (some 9)
def vb : OpForm := .v 30 (some 18) (some 8)
def vc : OpForm := .v 10 none (some 7)

/-- A word of format V3 (Table 03-2). -/
def v3Word (code : Nat) (mnem : String) (ops : List OpForm) (bfp : Bool := false) : WordForm :=
  { mnem, engs := [.A], code, ops := req ops, sufs := [typeClass 3 bfp, rndClass 0] }

/-- Words of format V3 and VI (Tables 07-1, 07-2, 08-1, R151 to R160). -/
def vecForms : List WordForm :=
  let two (c : Nat) (m : String) := v3Word c m [vd, va, vb]
  let one (c : Nat) (m : String) := v3Word c m [vd, va]
  let fold (m : String) (c : Nat) : WordForm :=
    v3Word c m [vd, va, .kw 10 (counted ["add", "min", "max", "and", "or", "xor"]), .pow2 14 4]
  [two 0x01 "vadd", { mnem := "vaddi", engs := [.A], code := 0x02, ops := req [vd, .v 50 (some 38) (some 5), .pat 6 32 true], sufs := [typeClass 1] },
   two 0x03 "vsub", two 0x04 "vadds", two 0x05 "vsubs", two 0x06 "vmul", two 0x07 "vmulh", v3Word 0x08 "vmad" [vd, va, vb, vc], two 0x09 "vmin",
   two 0x0A "vmax", one 0x0B "vabs", two 0x0C "vand", two 0x0D "vor", two 0x0E "vxor", two 0x0F "vandn", two 0x10 "vshl", two 0x11 "vshr",
   two 0x12 "vsar", one 0x13 "vclz", one 0x14 "vpopc", two 0x20 "vfadd", two 0x21 "vfsub", two 0x22 "vfmul", v3Word 0x23 "vfma" [vd, va, vb, vc],
   v3Word 0x24 "vfnma" [vd, va, vb, vc], two 0x25 "vfmin", two 0x26 "vfmax", one 0x27 "vfabs", one 0x28 "vfneg", one 0x29 "vfrcp",
   one 0x2A "vfrsq", one 0x2B "vfsqrt", two 0x2C "vfdiv", one 0x2D "vfexp2", one 0x2E "vflog2", one 0x2F "vftanh", one 0x30 "vfexpo"] ++
  [v3Word 0x48 "vmov" [vd, va] true, v3Word 0x49 "vbcst" [vd, va, .pow2 30 8, .imm 18 12 0 4095 0] true, v3Word 0x4A "viota" [vd],
   two 0x4B "vperm", v3Word 0x4C "vrmrg" [vd, va, vb, vc], v3Word 0x4D "vsel" [vd, .num "p" 8 10, va, vb] true,
   v3Word 0x4E "vtog" [.g 58 none, va], fold "vred" 0x50, fold "vfred" 0x51, fold "vscan" 0x52, fold "vfscan" 0x53,
   v3Word 0x58 "vspcmp" [vd, .v 30 none none, va] true, v3Word 0x59 "vspexp" [vd, va, vb] true]

/-- Words of formats VP, VPI and VC (R138 to R145, Table 08-3); a VFCMP without a type suffix has the one type it
takes, .f32, as R427's listing writes it (log 52). -/
def predForms : List WordForm :=
  let pt : OpForm := .num "p" 8 63
  let pf : OpForm := .num "p" 8 60
  let z := flagClass "z" 59
  let a (code : Nat) (mnem : String) (ops : List OpForm) (sufs : List SufClass) (fixed : Nat := 0) : WordForm :=
    { mnem, engs := [.A], code, ops := req (pt :: pf :: ops), sufs, fixed }
  let cv (code : Nat) (mnem : String) (ops : List OpForm) : WordForm :=
    { mnem, engs := [.A], code, ops := req ops, sufs := [convClass, flagClass "sat" 12, rndClass 0] }
  [a 0x38 "vcmp" [va, vb] [condClass 10, typeClass 3, z], a 0x39 "vcmpi" [.v 50 (some 38) (some 5), .pat 10 28 false] [condClass 6, typeClass 1, z],
   a 0x3A "vfcmp" [va, vb] [condClass 10, typeClass 3 (dflt := some 10), z], a 0x3B "vfclass" [va, .imm 10 8 0 255 0] [typeClass 3, z],
   a 0x60 "vplog" [.table 10 26 22 18] [z], a 0x61 "vpcnt" [.name 26, va] [z],
   a 0x62 "vpfind" [.name 26] [z, { vals := counted ["first", "last"], los := [10] }],
   a 0x63 "vpmov" [va, .imm 10 6 0 31 0] [z], a 0x63 "vpmov" [va, .kw 16 [("nz", 1)]] [z],
   cv 0x40 "vcvt" [vd, va], cv 0x41 "vfcvt" [vd, va], cv 0x42 "vqnt" [vd, .v 30 none none, va], cv 0x43 "vdqnt" [vd, va, vb]]

/-- Words of format VM (Table 11-3): `.oN` and `.rowsN` where the rows field is named; PLD and PST have rows 1. -/
def memForms : List WordForm :=
  let at4 : OpForm := .coord 50 [(44, none), (38, none), (32, none)] (some (16, 16))
  let v : OpForm := .v 58 none none
  let ix : OpForm := .v 0 none none
  let m (e : Engine) (code : Nat) (mnem : String) (ops : List OpForm) : WordForm :=
    { mnem, engs := [e], code, ops := req ops, sufs := [orderClass 12, rowsClass] }
  let one (e : Engine) (code : Nat) (mnem : String) : WordForm :=
    { mnem, engs := [e], code, ops := req [.num "p" 8 58, at4], sufs := [orderClass 12, { vals := [("rows1", 1)], los := [8], dflt := some 1 }] }
  let feed (code : Nat) (mnem : String) (qs : List String) : WordForm :=
    { mnem, engs := [.L], code, ops := req [.kw 7 (counted qs), at4, .imm 0 7 1 128 0] }
  [m .L 0x01 "vld" [v, at4], m .L 0x02 "vldx" [v, at4, ix], m .L 0x03 "vldb" [v, at4], one .L 0x04 "pld", feed 0x05 "vfeed" ["a", "b"],
   feed 0x06 "scld" ["sqa", "sqb"], m .W 0x01 "vst" [v, at4], m .W 0x02 "vstx" [v, at4, ix], one .W 0x03 "pst", m .W 0x04 "vstc" [v, at4]]

/-- Words of format MX (Table 09-1). -/
def matForms : List WordForm :=
  let acc : OpForm := .num "m" 4 64
  let int := opt (.kw 29 [("int", 1)])
  let m (code : Nat) (mnem : String) (ops : List (OpForm × Bool)) : WordForm := { mnem, engs := [.M], code, ops }
  [m 0x01 "mzero" (req [acc]), m 0x02 "mma" (req [acc, .imm 34 16 1 65535 0] ++ [int]),
   m 0x03 "mmas" (req [acc, .v 54 none none, .imm 50 4 0 15 0, .imm 34 16 1 16 0] ++ [int]), m 0x04 "mdrain" (req [.v 54 none none, acc]),
   m 0x05 "mload" (req [acc, .v 54 none none])]

/-- A word of format XC without and with a fused signal, which needs a semaphore and a scope (R240, R241). -/
def xWord (code : Nat) (mnem : String) (ops : List (OpForm × Bool)) (sufs : List SufClass := []) (fixed : Nat := 0) : List WordForm :=
  [{ mnem, engs := [.X], code, ops, sufs, fixed },
   { mnem, engs := [.X], code, ops := ops ++ req [.num "sem" 256 12], sufs := scopeClass 10 :: sufs, fixed := fixed + put 5 1 }]

/-- Words of format XC (Tables 13-1, 13-3). -/
def moveForms : List WordForm :=
  let src : OpForm := .coord 58 [(44, none), (38, none)] none
  let dst : OpForm := .coord 50 [(32, none), (26, none)] none
  let src1 : OpForm := .coord 58 [(44, none)] none
  let dst1 : OpForm := .coord 50 [(32, none)] none
  let gc : OpForm := .g 20 none
  let sy : OpForm := .g 38 none
  let sdc := req [src, dst, gc]
  let gather (code : Nat) (mnem : String) : List WordForm :=
    xWord code mnem (sdc ++ req [.kwImm "stride" 0 5 1 32]) ++ xWord code mnem (sdc ++ req [.kw 9 [("index", 1)]])
  let point : OpForm := .kw 6 (counted ["mc", "me", "cd", "fifo"])
  xWord 0x01 "xcopy" sdc ++ gather 0x02 "xgath" ++ gather 0x03 "xscat" ++ xWord 0x04 "xtran" sdc ++ xWord 0x05 "xconv" sdc [rndClass 6] ++
  xWord 0x06 "xmcst" sdc ++
  xWord 0x07 "xred" (sdc ++ req [.kw 6 (counted ["add", "min", "max"]), .imm 8 2 1 4 1] ++ [opt (.kw 0 [("acc", 1)])]) ++
  xWord 0x08 "xatom" (sdc ++ req [.kw 6 (counted ["add", "min", "max", "and", "or", "xor", "swap"])] ++ [opt (.kw 0 [("ret", 1)])]) ++
  xWord 0x09 "xapnd" sdc ++
  [{ mnem := "xsig", engs := [.X], code := 0x0A, ops := req [dst, gc, .num "sem" 256 12], sufs := [scopeClass 10], fixed := put 5 1 },
   { mnem := "xwait", engs := [.X], code := 0x0B, ops := req [gc, .num "sem" 256 12], sufs := [scopeClass 10] }] ++
  xWord 0x0C "xpref" (req [src, gc, .kw 0 (counted ["xlate", "data"])]) ++
  xWord 0x10 "xcomp" (req [src1, dst1, gc, .kw 8 (counted ["none", "zd", "ds"]), point]) ++
  xWord 0x10 "xcomp" (req [src1, dst1, gc, .kw 8 [("xd", 3)], point, sy]) ++
  xWord 0x11 "xmrg" (req [dst1, gc]) ++ xWord 0x12 "xsnap" (req [src1, dst1, gc, sy]) ++ xWord 0x13 "xhdr" (req [src1, dst1]) ++
  xWord 0x18 "xtld" (req [src1, gc, .g 32 none]) ++ xWord 0x19 "xfst" (req [src1, dst1, gc, sy])

/-- Every way to write a word. -/
def wordForms : List WordForm :=
  intForms ++ ctlForms ++ syncForms ++ vecForms ++ predForms ++ memForms ++ matForms ++ moveForms

/-- A type suffix of a word, where it has one. -/
def wordType (sufs : List String) : Option Nat := (sufs.filterMap fun x => typeNames.lookup x).head?

/-- A word in one of its forms: suffixes and operands that fit, and bits that R72 allows. -/
def AEnv.tryForm (s : AEnv) (g : Guard) (w : AWord) (f : WordForm) : Option Slot :=
  match sufBits f.sufs w.sufs, ({ s with ty := wordType w.sufs } : AEnv).forms f.ops w.ops with
  | some a, some b =>
    let n := s.eng.code * 2 ^ 93 + f.code * 2 ^ 86 + g.tt.toNat * 2 ^ 78 + g.ga.toNat * 2 ^ 74 + g.gb.toNat * 2 ^ 70 + g.gc.toNat * 2 ^ 66 +
      f.fixed + a + b
    let x := BitVec.ofNat 96 n
    match decode x with
    | .ok _ => some x
    | .error _ => none
  | _, _ => none

/-- A word of a section: the first form that it fits among those of its mnemonic in the section's engine; none is an assembly error
(R75, R76, R81). -/
def AEnv.word (s : AEnv) (w : AWord) : Option Slot :=
  (w.guard.encode s.eng).bind fun g =>
    (wordForms.filter fun f => f.mnem == w.mnem && f.engs.contains s.eng).findSome? (s.tryForm g w)

end Sys2Proof.Machine.Asm
end

