-- ==== Sys2Proof/Machine/Hxas.lean ====
section
/-! DEFINITION. The assembler `hxas` (R74 to R84): a source read line by line into sections, symbols and directives, then its slots,
tables, parameter block and relocations, and the launch image. Each step answers none where the spec names an assembly error. -/

namespace Sys2Proof.Machine.Asm

/-! ### Reading a source (R80, R81) -/

/-- A word of a section at its address; the liveness list of an LREC, where one is written. -/
structure AItem where
  addr : Nat
  word : AWord
  live : Option (List LiveReg) := none
  deriving DecidableEq, Repr

/-- A section: engine, address of its header slot, its number and dependences as written, its words. -/
structure ASec where
  eng : Engine
  addr : Nat
  num : Option (List Tok) := none
  after : List Tok := []
  items : List AItem := []
  deriving DecidableEq, Repr

/-- What has been read of a source: the next slot's address, the open section, the sections closed, the symbols that need no other
directive, the directives that fill tables, whether the next slot must be a header, and whether an LREC has just been read. -/
structure ASrc where
  started : Bool := false
  ended : Bool := false
  addr : Nat := 0
  cur : Option ASec := none
  secs : List ASec := []
  tab : List (String × ASym) := []
  dirs : List (String × List Tok) := []
  wantHeader : Bool := false
  lrec : Bool := false
  deriving DecidableEq, Repr

/-- A symbol added to a table; one defined already is an error (DESIGN CHOICE, log 52: the spec does not speak of it). -/
def define (tab : List (String × ASym)) (x : String) (v : ASym) : Option (List (String × ASym)) :=
  if (tab.lookup x).isSome then none else some (tab ++ [(x, v)])

/-- The open section closes: its number given, its length 1 to 1,023 slots. -/
def ASrc.close (p : ASrc) : Option ASrc :=
  match p.cur with
  | none => some p
  | some c => if c.num.isSome && 1 ≤ p.addr - c.addr - 1 && p.addr - c.addr - 1 ≤ 1023 then some { p with cur := none, secs := p.secs ++ [c] } else none

/-- Slots a word takes: an LREC is followed by its three liveness slots (R56). -/
def wordSize (w : AWord) : Nat := if w.mnem == "lrec" then 4 else 1

/-- A word joins the open section, which has its number by then. -/
def ASrc.addWord (p : ASrc) (w : AWord) : Option ASrc :=
  p.cur.bind fun c =>
    if c.num.isNone then none
    else some { p with cur := some { c with items := c.items ++ [{ addr := p.addr, word := w }] }, addr := p.addr + wordSize w, lrec := w.mnem == "lrec" }

/-- An engine's letter. -/
def engineOf (x : String) : Option Engine :=
  [("s", Engine.S), ("l", .L), ("a", .A), ("w", .W), ("m", .M), ("x", .X)].lookup (lowName x)

/-- The registers of a liveness list by prefix. -/
def liveKinds : List (String × Nat × (Nat → LiveReg)) :=
  [("v", 192, .v), ("g", 64, fun n => .g (BitVec.ofNat 6 n)), ("p", 8, fun n => .p (BitVec.ofNat 3 n)),
   ("m", 4, fun n => .m (BitVec.ofNat 2 n)), ("c", 8, fun n => .c (BitVec.ofNat 3 n))]

/-- A register or a range of a liveness list. -/
def liveItem (ts : List Tok) : Option (List LiveReg) :=
  let run (a b : String) : Option (List LiveReg) := liveKinds.findSome? fun k =>
    match numbered k.1 k.2.1 a, numbered k.1 k.2.1 b with
    | some i, some j => if i ≤ j then some ((List.range (j + 1 - i)).map fun d => k.2.2 (i + d)) else none
    | _, _ => none
  match ts with
  | [.name a] => run a a
  | [.name a, .sym "-", .name b] => run a b
  | _ => none

/-- The operands of `.live`: a list, or `none`. -/
def liveList (ts : List Tok) : Option (List LiveReg) :=
  match operands ts with
  | [] => none
  | [[.name x]] => if lowName x == "none" then some [] else liveItem [.name x]
  | os => (os.mapM liveItem).map List.flatten

/-- The last word of the open section gets its liveness list. -/
def ASrc.setLive (p : ASrc) (rs : List LiveReg) : Option ASrc :=
  p.cur.bind fun c => (c.items.getLast?).map fun i =>
    { p with cur := some { c with items := c.items.dropLast ++ [{ i with live := some rs }] }, lrec := false }

/-- The directives that are read once every section is known. -/
def tableDirs : List String := ["layout", "ring", "launch", "graph", "data", "align"]

/-- A directive in its context (Table 04-3). -/
def ASrc.readDir (p : ASrc) (d : String) (args : List Tok) : Option ASrc :=
  let p := { p with lrec := p.lrec && d == "live" }
  if d == "kernel" then
    match args with
    | [.name x] => p.close.bind fun q => (define q.tab x (.kernel q.addr)).map fun t => { q with tab := t, wantHeader := true }
    | _ => none
  else if d == "engine" then
    match args with
    | [.name x] => (engineOf x).bind fun e => p.close.map fun q =>
        { q with cur := some { eng := e, addr := q.addr }, addr := q.addr + 1, wantHeader := false }
    | _ => none
  else if d == "sec" then
    p.cur.bind fun c => if c.num.isSome || !c.items.isEmpty || args.isEmpty then none else some { p with cur := some { c with num := some args } }
  else if d == "after" then
    p.cur.bind fun c => if args.isEmpty then none else some { p with cur := some { c with after := c.after ++ args } }
  else if d == "loop" then
    match operands args with
    | [[.name x], r, n] =>
      p.addWord { mnem := "lrec", ops := [r, n, [.name x, .sym ".", .name "pro"], [.name x, .sym ".", .name "ker"], [.name x, .sym ".", .name "epi"]] }
    | _ => none
  else if d == "live" then
    if p.lrec then (liveList args).bind p.setLive else none
  else if d == "equ" then
    match operands args with
    | [[.name x], e] => (wholeExpr e).bind fun v => (define p.tab x (.equ v)).map fun t => { p with tab := t }
    | _ => none
  else if d == "end" then
    if p.wantHeader || !args.isEmpty then none else p.close.map fun q => { q with ended := true }
  else if tableDirs.contains d then some { p with dirs := p.dirs ++ [(d, args)] }
  else none

/-- One statement: `.module` first and once; what follows `.end` is no part of the source; a label takes the address of the next slot
(R74), and may stand between an LREC and its `.live` (R82, log 52). -/
def ASrc.read (p : ASrc) (st : AStmt) : Option ASrc :=
  if p.ended then some p
  else match st with
    | .dir d args =>
      if d == "module" then
        match args with
        | [.name _] => if p.started then none else some { p with started := true }
        | _ => none
      else if p.started then p.readDir d args else none
    | .label x => if p.started then (define p.tab x (.label p.addr)).map fun t => { p with tab := t } else none
    | .word w => if p.started then p.addWord w else none

/-- A whole source, which `.end` ends; one without it is refused (log 52). -/
def readSource (sts : List AStmt) : Option ASrc :=
  (sts.foldl (fun p st => p.bind fun q => q.read st) (some { started := false })).bind fun p => if p.ended then some p else none

/-! ### Symbols of the table directives (R78) -/

/-- A `.layout` or `.ring` entry: the directive, its number, and its keys as written. -/
structure AEntry where
  dir : String
  num : Nat
  keys : List Tok
  deriving DecidableEq, Repr

/-- The element type a `.data` operand names. -/
def dataType (ts : List Tok) : Option Nat :=
  match ts with
  | [.sym ".", .name x] => typeNames.lookup (lowName x)
  | _ => none

/-- The bytes that `.data` adds to the parameter block. -/
def dataSize (ty : List Tok) (vs : List (List Tok)) : Option Nat :=
  (dataType ty).map fun t => ceilDiv (WellFormed.typeWidth t * vs.length) 8

/-- The symbols of the table directives whose values the symbols of `tab` give, in the directives' order; `off` is the offset in the parameter
block, where it is known. -/
def roundSyms (tab : List (String × ASym)) (off : Option Nat) : List (String × List Tok) → List (String × ASym)
  | [] => []
  | (d, args) :: r =>
    let num (n : List Tok) : Option Nat := ((wholeExpr n).bind (evalIn tab)).map Int.toNat
    if d == "layout" || d == "ring" then
      match operands args with
      | [.name x] :: n :: _ => match num n with
        | some k => (x, if d == "layout" then .layout k else .ring k) :: roundSyms tab off r
        | none => roundSyms tab off r
      | _ => roundSyms tab off r
    else if d == "data" then
      match operands args with
      | [.name x] :: ty :: vs =>
        let next := off.bind fun o => (dataSize ty vs).map (o + ·)
        match off with
        | some o => (x, .data o) :: roundSyms tab next r
        | none => roundSyms tab next r
      | _ => roundSyms tab none r
    else if d == "align" then
      roundSyms tab (off.bind fun o => ((wholeExpr args).bind (evalIn tab)).bind fun n => (alignPad n o).map (o + ·)) r
    else roundSyms tab off r

/-- Every symbol of a source: a symbol may be used before it is defined (R78), so the table directives are gone through until no round finds
another. -/
def allSyms (base : List (String × ASym)) (dirs : List (String × List Tok)) : (fuel : Nat) → List (String × ASym) → List (String × ASym)
  | 0, tab => tab
  | n + 1, tab => allSyms base dirs n (base ++ roundSyms tab (some 0) dirs)

/-- The entries of a source with the table that their symbols join; numbers are written over the symbols `all` of the source. -/
def entriesGo (all tab : List (String × ASym)) : List (String × List Tok) → Option (List AEntry × List (String × ASym))
  | [] => some ([], tab)
  | (d, args) :: r =>
    if d == "layout" || d == "ring" then
      match operands args with
      | [.name x] :: n :: keys =>
        ((wholeExpr n).bind (evalIn all)).bind fun k =>
          if 0 ≤ k && k < (if d == "layout" then 256 else 16) then
            (define tab x (if d == "layout" then .layout k.toNat else .ring k.toNat)).bind fun t =>
              (entriesGo all t r).map fun p => ({ dir := d, num := k.toNat, keys := keys.flatten } :: p.1, p.2)
          else none
      | _ => none
    else entriesGo all tab r

/-- The symbols of `.data`: byte offsets in the parameter block (R78). -/
def dataSyms (all : List (String × ASym)) (off : Nat) (tab : List (String × ASym)) : List (String × List Tok) → Option (List (String × ASym))
  | [] => some tab
  | (d, args) :: r =>
    if d == "data" then
      match operands args with
      | [.name x] :: ty :: vs => (dataSize ty vs).bind fun k => (define tab x (.data off)).bind fun tb => dataSyms all (off + k) tb r
      | _ => none
    else if d == "align" then
      ((wholeExpr args).bind (evalIn all)).bind fun n => (alignPad n off).bind fun k => dataSyms all (off + k) tab r
    else dataSyms all off tab r

/-! ### Keys and data -/

/-- A value at the head of a list of tokens: va(sym) of a lone symbol, or an expression. -/
def keyValue (tab : List (String × ASym)) (ts : List Tok) : Option (AVal × List Tok) :=
  let plain := (parseExpr ts).bind fun p => (evalIn tab p.1).map fun x => (AVal.num x, p.2)
  match ts with
  | .name v :: .sym "(" :: .name x :: r =>
    if lowName v == "va" then
      let p := dotted x r
      match p.2 with
      | .sym ")" :: q => (vaOfSym tab p.1).map fun k => (.va k.1 k.2, q)
      | _ => none
    else plain
  | _ => plain

/-- Keys with their values, set apart by spaces or commas. -/
def keysGo (tab : List (String × ASym)) : (fuel : Nat) → List Tok → Option (List (String × AVal))
  | 0, _ => none
  | _ + 1, [] => some []
  | f + 1, .sym "," :: r => keysGo tab f r
  | f + 1, .name k :: .sym "=" :: r => (keyValue tab r).bind fun p => (keysGo tab f p.2).map ((k, p.1) :: ·)
  | _ + 1, _ => none

/-- The keys of a directive; one key written twice is an error (log 52). -/
def keysOf (tab : List (String × ASym)) (ts : List Tok) : Option (List (String × AVal)) :=
  (keysGo tab (ts.length + 1) ts).bind fun kv => if (kv.map fun p => p.1).eraseDups.length = kv.length then some kv else none

/-- A structure with its relocations. -/
def keyed (tab : List (String × ASym)) (ks : List AKey) (pre : List (String × AVal)) (ts : List Tok) (kind base : Nat) :
    Option (Nat × List Reloc) :=
  (keysOf tab ts).bind fun kv =>
    if kv.any fun p => pre.any fun q => q.1 == p.1 then none
    else (packKeys ks (pre ++ kv)).map fun n => (n, relocsOf ks kv kind base)

/-- The bytes of a table of entries of n bytes up to its last: entries that are not listed are zero; one listed twice is an error. -/
def tableBytes (n : Nat) (es : List (Nat × Nat)) : Option (List Byte) :=
  if (es.map fun e => e.1).eraseDups.length ≠ es.length then none
  else
    let top := es.foldl (fun m e => max m (e.1 + 1)) 0
    some ((List.range top).flatMap fun i => toBytes n ((es.lookup i).getD 0))

/-- The layout or ring entries of a source: number, value and relocations of each. -/
def entryVals (tab : List (String × ASym)) (es : List AEntry) (dir : String) (ks : List AKey) (kind n : Nat) :
    Option (List (Nat × Nat) × List Reloc) :=
  ((es.filter fun e => e.dir == dir).mapM fun e => (keyed tab ks [] e.keys kind (n * e.num)).map fun p => ((e.num, p.1), p.2)).map
    fun l => (l.map fun p => p.1, l.flatMap fun p => p.2)

/-- A value of `.data`. -/
def dataValue (tab : List (String × ASym)) (ts : List Tok) : Option AData :=
  match wholeReal ts with
  | some (neg, n, k, up) => some (.real neg n k up)
  | none => (keyValue tab ts).bind fun p => if !p.2.isEmpty then none
      else match p.1 with | .num x => some (.num x) | .va k o => some (.va k o)

/-- The parameter block from a byte offset on, with its relocations (R80). -/
def dataBlock (tab : List (String × ASym)) (off : Nat) : List (String × List Tok) → Option (List Byte × List Reloc)
  | [] => some ([], [])
  | (d, args) :: r =>
    let go (bs : List Byte) (rs : List Reloc) : Option (List Byte × List Reloc) :=
      (dataBlock tab (off + bs.length) r).map fun p => (bs ++ p.1, rs ++ p.2)
    if d == "data" then
      match operands args with
      | _ :: ty :: vs => (dataType ty).bind fun t => (vs.mapM (dataValue tab)).bind fun xs => (dataBytes t xs).bind fun bs => go bs (dataRelocs off xs)
      | _ => none
    else if d == "align" then ((wholeExpr args).bind (evalIn tab)).bind fun n => (alignPad n off).bind fun k => go (List.replicate k 0) []
    else dataBlock tab off r

/-! ### Slots (R67, R81, R82) -/

/-- What a dependence of `.after` names: a number, or `none`. -/
def afterNum (tab : List (String × ASym)) (r : List Tok) : Option (Option Int × List Tok) :=
  let num := (parseExpr r).bind fun v => (evalIn tab v.1).map fun n => (some n, v.2)
  match r with
  | .name y :: q => if lowName y == "none" then some (none, q) else num
  | _ => num

/-- The dependences and the fence of `.after`: `e=n`, `e=none` and `gfence`, set apart by spaces or commas. -/
def afterGo (tab : List (String × ASym)) : (fuel : Nat) → List Tok → Option (List (Engine × Option Int) × Bool)
  | 0, _ => none
  | _ + 1, [] => some ([], false)
  | f + 1, .sym "," :: r => afterGo tab f r
  | f + 1, .name x :: .sym "=" :: r =>
    (engineOf x).bind fun e => (afterNum tab r).bind fun v => (afterGo tab f v.2).map fun p => ((e, v.1) :: p.1, p.2)
  | f + 1, .name x :: r => if lowName x == "gfence" then (afterGo tab f r).map fun p => (p.1, true) else none
  | _ + 1, _ => none

/-- The header of a section: number and dependences 0 to 254, none on its own engine, none named twice. -/
def ASec.header (tab : List (String × ASym)) (c : ASec) (len : Nat) : Option Header :=
  match (c.num.bind wholeExpr).bind (evalIn tab), afterGo tab (c.after.length + 1) c.after with
  | some num, some (deps, fence) =>
    let okNum (n : Int) : Bool := 0 ≤ n && n ≤ 254
    if okNum num && deps.all (fun d => d.1 != c.eng && (d.2.map okNum).getD true) && decide (deps.map fun d => d.1).Nodup then
      let dep (x : Engine) : BitVec 8 := BitVec.ofNat 8 ((((deps.lookup x).join).map Int.toNat).getD 255)
      match [Engine.S, .L, .A, .W, .M, .X].filter (· != c.eng) with
      | [a, b, d, f, h] =>
        some
          { eng := BitVec.ofNat 3 c.eng.code, num := BitVec.ofNat 8 num.toNat, len := BitVec.ofNat 10 len
            dep1 := dep a, dep2 := dep b, dep3 := dep d, dep4 := dep f, dep5 := dep h
            rsv := 0, gfence := BitVec.ofBool fence }
      | _ => none
    else none
  | _, _ => none

/-- The slots of a word: an LREC takes its liveness slots with it, every bit 1 without a list (R82). -/
def AItem.emit (env : AEnv) (i : AItem) : Option (List Slot) :=
  ({ env with addr := i.addr } : AEnv).word i.word |>.map fun x => x :: if i.word.mnem == "lrec" then liveSlots i.live else []

/-- The slots of a section. -/
def ASec.emit (tab : List (String × ASym)) (headers : List Nat) (c : ASec) : Option (List Slot) :=
  (c.items.mapM (AItem.emit { tab, headers, eng := c.eng, addr := 0 })).bind fun ws =>
    (c.header tab ws.flatten.length).map fun h => h.toSlot :: ws.flatten

/-! ### The image (R83, R84) -/

/-- A relocation's 16 bytes. -/
def relocBytes (r : Reloc) : List Byte := BitVec.ofNat 8 r.fld :: BitVec.ofNat 8 r.tgt :: (List.replicate 6 0 ++ toBytes 8 r.off)

/-- A directory entry's 32 bytes. -/
def entryBytes (e : SegEntry) : List Byte :=
  toBytes 2 e.kind ++ List.replicate 6 0 ++ toBytes 8 e.off ++ toBytes 8 e.size ++ toBytes 8 e.arg

/-- Directory entries of segments that follow each other from an offset on. -/
def dirFrom (off : Nat) : List (Nat × Nat × List Byte) → List SegEntry
  | [] => []
  | (k, a, bs) :: r => { kind := k, off := off, size := bs.length, arg := a } :: dirFrom (off + bs.length) r

/-- An image of segments, each with its kind and argument: header, directory, and the segments in order; none where the directory
would break the limits of Tables 04-4 and 04-5. -/
def mkImage (segs : List (Nat × Nat × List Byte)) : Option (List Byte) :=
  let dir := dirFrom (64 + 32 * segs.length) segs
  if 1 ≤ dir.length && dir.length ≤ 64 && dir.all SegEntry.ok then
    let body := dir.flatMap entryBytes ++ segs.flatMap fun g => g.2.2
    some (toBytes 4 0x494C5848 ++ toBytes 2 1 ++ toBytes 2 segs.length ++ List.replicate 24 0 ++ shake256 32 body ++ body)
  else none

/-- The keys of the one `.launch` of a source (log 52). -/
def launchDir (dirs : List (String × List Tok)) : Option (List Tok) :=
  match dirs.filter fun d => d.1 == "launch" with
  | [(_, ts)] => some ts
  | _ => none

/-- The graph nodes from a number on: 64 bytes each, with their relocations. -/
def graphNodes (tab : List (String × ASym)) (i : Nat) : List (String × List Tok) → Option (List Byte × List Reloc)
  | [] => some ([], [])
  | (d, args) :: r =>
    if d == "graph" then
      match operands args with
      | [.name _] :: k :: keys => ((wholeExpr k).bind (evalIn tab)).bind fun n =>
          (keyed tab nodeKeys [("kind", .num n)] keys.flatten 5 (64 * i)).bind fun p =>
            (graphNodes tab (i + 1) r).map fun q => (toBytes 64 p.1 ++ q.1, p.2 ++ q.2)
      | _ => none
    else graphNodes tab i r

/-- A source with every symbol: its slots in order, and what its directives hold. -/
structure Assembled where
  slots : List Slot
  launch : Nat
  layouts : List Byte
  rings : List Byte
  nodes : List Byte
  params : List Byte
  relocs : List Reloc
  deriving DecidableEq, Repr

/-- An `.equ` constant has a value, used or not: its evaluation meets no symbol that is nowhere defined and does not overflow (R78). -/
def constOk (tab : List (String × ASym)) (p : String × ASym) : Bool :=
  match p.2 with
  | .equ e => (evalIn tab e).isSome
  | _ => true

/-- The statements of a source assembled. -/
def assemble (sts : List AStmt) : Option Assembled :=
  (readSource sts).bind fun p =>
  let all := allSyms p.tab p.dirs (p.dirs.length + 1) p.tab
  (entriesGo all p.tab p.dirs).bind fun es =>
  (dataSyms all 0 es.2 p.dirs).bind fun tab =>
  if !tab.all (constOk tab) then none else
  (p.secs.mapM (ASec.emit tab (p.secs.map fun c => c.addr))).bind fun ws =>
  (launchDir p.dirs).bind fun lk =>
  (keyed tab launchKeys [] lk 4 0).bind fun la =>
  (entryVals tab es.1 "layout" layoutKeys 2 64).bind fun ls =>
  (entryVals tab es.1 "ring" ringKeys 3 16).bind fun rs =>
  (graphNodes tab 0 p.dirs).bind fun gs =>
  (dataBlock tab 0 p.dirs).bind fun ds =>
  (tableBytes 64 ls.1).bind fun lb =>
  (tableBytes 16 rs.1).map fun rb =>
    { slots := ws.flatten, launch := la.1, layouts := lb, rings := rb, nodes := gs.1, params := ds.1
      relocs := la.2 ++ gs.2 ++ ls.2 ++ rs.2 ++ ds.2 }

/-- The segments of an image, those with bytes: the code rows padded with zero slots to the header's ncode, their first row the
header's code field (R84). -/
def Assembled.segments (x : Assembled) : Option (List (Nat × Nat × List Byte)) :=
  let h : BitVec 1024 := BitVec.ofNat 1024 x.launch
  let n := hdrField h 4 34 14
  if x.slots.length ≤ 21 * n then
    some ([(1, hdrField h 4 20 14, codeRowBytes x.slots n), (2, 0, x.layouts), (3, 0, x.rings), (4, 0, toBytes 128 x.launch), (5, 0, x.nodes),
      (6, 0, x.params), (7, 0, x.relocs.flatMap relocBytes)].filter fun g => !g.2.2.isEmpty)
  else none

/-- `hxas`: the text of a source to its launch image; none where it holds an assembly error. -/
def hxas (src : List Char) : Option (List Byte) :=
  (parseSource src).bind fun sts => (assemble sts).bind fun x => x.segments.bind mkImage

end Sys2Proof.Machine.Asm
end

