-- ==== Sys2Proof/Tests/Slice0.lean ====
section
/-! SUPPORT. Small tests. Ill-formed terms, one for each check of WellFormed; words of the spec decoded; and for every statement
with hypotheses a concrete state and operands that meet them all (a `wit_` theorem), one for each clause. Expected values are the
spec's own words or worked by hand from its tables. -/

namespace Sys2Proof.Tests

set_option Elab.async false

open Sys2Proof.Machine Sys2Proof.Safety

/-! ### Terms -/

/-- A guard that holds everywhere, and one that holds nowhere. -/
def on : Guard := ⟨0xFF, 0, 0, 0⟩
def off : Guard := ⟨0, 0, 0, 0⟩

def fS : FmtS := ⟨3, 1, 2, 0, 0, 0, 0, 0, 0, 0⟩
def fS0 : FmtS := ⟨0, 0, 0, 0, 0, 0, 0, 0, 0, 0⟩
def fSM : FmtSM := ⟨3, 1, 2, 4, 0, 0, 0, 0, 0, 0⟩
def fB : FmtB := ⟨0, 0, 0, 0, 0, 0, 0⟩
def fL : FmtLrec := ⟨4, 7, 11, 1, 1, 0⟩
def fSY : FmtSY := ⟨255, 0, 1, 0, 0, 0, 0⟩
def fFN : FmtFN := ⟨1, 0⟩
def fT : FmtT := ⟨5, 0, 0, 0, 2, 0, 0, 0⟩
def fV3 : FmtV3 := ⟨3, 1, 0, 2, 0, 4, 0, 2, 0⟩
def fVI : FmtVI := ⟨3, 1, 0, 5, 0, 2, 0⟩
def fVP : FmtVP := ⟨1, 2, 1, 0, 1, 0, 2, 0, 0, 0, 0, 2, 0⟩
def fVPI : FmtVPI := ⟨1, 2, 1, 0, 1, 0, 7, 5, 0, 2, 0⟩
def fVC : FmtVC := ⟨3, 1, 0, 2, 0, 0, 0, 0, 0, 0, 0⟩
def fVM : FmtVM := ⟨191, 4, 0, 0, 0, 0, 0, 1, 0⟩
def fMX : FmtMX := ⟨1, 0, 0, 0, 1, 0, 0, 0⟩
def fXC : FmtXC := ⟨4, 5, 0, 0, 0, 0, 0, 0, 0, 0, 0, 0⟩

/-- The module with one tile in use, and the word of an engine of that tile about to be executed. -/
def at0 (x : Tile) (e : Engine := .S) : State := { State.reset with tiles := [(0, x)], issue := { eng := e } }

/-! ### Ill-formed terms -/

theorem test_wf_unused_field : Instr.wf (.nop on { fS0 with gd := 1 }) = false := by decide
theorem test_wf_reserved_s : Instr.wf (.add on { fS with rsv := 1 }) = false := by decide
theorem test_wf_unused_fe : Instr.wf (.movi on { fS0 with feA := 1 }) = false := by decide
theorem test_wf_shift_count : Instr.wf (.shli on { fS0 with imm := 64 }) = false := by decide
theorem test_wf_bit_field : Instr.wf (.bfx on { fS0 with imm := 0 }) = false ∧
    Instr.wf (.bfi on { fS0 with imm := 64 * 64 + 1 }) = false ∧ Instr.wf (.bfi on { fS0 with imm := 64 * 64 }) = true := by decide
theorem test_wf_condition : Instr.wf (.cmp on { fS0 with cs := 10 }) = false ∧ Instr.wf (.cmpi on { fS0 with cs := 25 }) = true := by decide
theorem test_wf_truth_table : Instr.wf (.plog on { fS0 with imm := 0x100000 }) = false := by decide
theorem test_wf_pmov : Instr.wf (.pmovPack on { fS0 with imm := 1 }) = false ∧ Instr.wf (.pmovUnpack on { fS0 with imm := 0 }) = false := by
  decide
theorem test_wf_branch : Instr.wf (.br on { fB with ga := 1 }) = false ∧ Instr.wf (.ret on { fB with off := 1 }) = false ∧
    Instr.wf (.call on { fB with rsv := 1 }) = false := by decide
theorem test_wf_loop : Instr.wf (.lrec on { fL with rsv := 1 }) = false ∧ Instr.wf (.lidx on { fS0 with imm := 6 }) = false ∧
    Instr.wf (.lnext on { fB with gd := 1 }) = false ∧ Instr.wf (.lfor on { fB with gb := 1 }) = false := by decide
theorem test_wf_point_field : Instr.wf (.pfld on { fS0 with imm := 6 }) = false ∧ Instr.wf (.pfldW on { fS0 with imm := 7 }) = false ∧
    Instr.wf (.pfldW on { fS0 with imm := 13 }) = true := by decide
theorem test_wf_size : Instr.wf (.sld on { fSM with size := 7 }) = false ∧ Instr.wf (.sst on { fSM with size := 4 }) = false := by decide
theorem test_wf_selector : Instr.wf (.crd on { fS0 with imm := 9 }) = false ∧ Instr.wf (.crd on { fS0 with imm := 0x18 }) = true ∧
    Instr.wf (.cwr on { fS0 with imm := 0x109 }) = false ∧ Instr.wf (.tmark on { fS0 with imm := 0x10000 }) = false := by decide
theorem test_wf_table_words : Instr.wf (.lset on { fT with bn := 1 }) = false ∧ Instr.wf (.rinit on { fT with side := 1 }) = false ∧
    Instr.wf (.racq on { fT with wd := 1 }) = false ∧ Instr.wf (.launch on { fT with lay := 1 }) = false := by decide
theorem test_wf_semaphore : Instr.wf (.sems on { fSY with gd := 1 }) = false ∧ Instr.wf (.semr on { fSY with imm := 0, gn := 1 }) = false ∧
    Instr.wf (.semwEngine .X on fSY) = false ∧ Instr.wf (.cyc on { fS0 with imm := 8 }) = false := by decide
theorem test_wf_fence : Instr.wf (.fence on { fFN with mask := 0 }) = false ∧ Instr.wf (.drain on fFN) = false ∧
    Instr.wf (.fenceEngine .M on fFN) = false := by decide
theorem test_wf_vector_register : Instr.wf (.vadd on { fV3 with vd := 192, vc := 0 }) = false ∧
    Instr.wf (.vadd on { fV3 with vd := 191, vc := 0 }) = true := by decide
theorem test_wf_type : Instr.wf (.vmul on { fV3 with ty := 3, vc := 0 }) = false ∧ Instr.wf (.vfadd on { fV3 with ty := 7, vc := 0 }) = false := by
  decide
theorem test_wf_rounding : Instr.wf (.vfadd on { fV3 with ty := 10, rnd := 5, vc := 0 }) = false ∧
    Instr.wf (.vadd on { fV3 with rnd := 1, vc := 0 }) = false := by decide
theorem test_wf_modifier : Instr.wf (.vadd on { fV3 with moda := 1, vc := 0 }) = false ∧
    Instr.wf (.vadd on { fV3 with moda := 0x400 + 11 * 64, vc := 0 }) = false ∧
    Instr.wf (.vadd on { fV3 with moda := 0x800 + 3 * 64 + 3, vc := 0 }) = false ∧
    Instr.wf (.vadd on { fV3 with moda := 0xC00 + 3 * 64 + 8, vc := 0 }) = false := by decide
theorem test_wf_segment : Instr.wf (.vred on { fV3 with vb := 0, vc := 0xB0 }) = false ∧ Instr.wf (.vred on { fV3 with vb := 0, vc := 0xA6 }) = false ∧
    Instr.wf (.vbcst on { fV3 with vb := 11, vc := 0 }) = false := by decide
theorem test_wf_compare : Instr.wf (.vcmp on { fVP with sel := 6 }) = false ∧ Instr.wf (.vfcmp on fVP) = false ∧
    Instr.wf (.vcmpi on { fVPI with cond := 6 }) = false ∧ Instr.wf (.vpfind on { fVP with va := 0, vb := 0, ty := 0, sel := 2 }) = false := by decide
theorem test_wf_conversion : Instr.wf (.vcvt on { fVC with vb := 0, dt := 10, st := 9 }) = false ∧
    Instr.wf (.vqnt on { fVC with vb := 3, dt := 11, st := 10 }) = false ∧ Instr.wf (.vdqnt on { fVC with dt := 11, st := 11 }) = false := by decide
theorem test_wf_memory_word : Instr.wf (.vld on { fVM with aux := 1 }) = false ∧ Instr.wf (.vldx on { fVM with aux := 192 }) = false ∧
    Instr.wf (.pld on { fVM with v := 7, rows := 2 }) = false ∧ Instr.wf (.vfeed on fVM) = false := by decide
theorem test_wf_matrix : Instr.wf (.mma on { fMX with kb := 0 }) = false ∧ Instr.wf (.mmas on { fMX with mkb := 1, kb := 16 }) = false ∧
    Instr.wf (.mdrain on { fMX with reg := 189, kb := 0 }) = false := by decide
theorem test_wf_transfer : Instr.wf (.xcopy on { fXC with sem := 1 }) = false ∧ Instr.wf (.xgath on { fXC with var := 1 }) = false ∧
    Instr.wf (.xred on { fXC with var := 3 }) = false ∧ Instr.wf (.xwait on fXC) = false ∧ Instr.wf (.xsig on fXC) = false := by decide

/-! ### Words the spec writes out -/

theorem test_decode_halt : decode 0x0EBFC0000000000000000000 = .ok (.halt on fS0) := by decide
theorem test_decode_vld : decode 0x207FC000101C310000100000 = .ok (.vld on ⟨4, 7, 3, 4, 0, 16, 0, 0, 0⟩) := by decide
theorem test_decode_scld : decode 0x21BFC0000024200000000003 = .ok (.scld on ⟨0, 9, 2, 0, 0, 0, 0, 0, 3⟩) := by decide
theorem test_decode_xcomp : decode 0xA43FC0000C10100500700180 = .ok (.xcomp on ⟨3, 4, 1, 0, 5, 0, 7, 0, 0, 6, 0, 0⟩) := by decide
theorem test_decode_xfence : decode 0x167FC003FFFC000000000000 = .ok (.xfence on ⟨0xFFFF, 0⟩) := by decide
theorem test_decode_wpop : decode 0x14FFC0000000000000000000 = .ok (.wpop on fS0) := by decide
theorem test_decode_vfcmp : decode 0x4EBC2401380C000000000050 = .ok (.vfcmp ⟨0xF0, 9, 0, 0⟩ ⟨2, 3, 1, 0, 3, 0, 0, 0, 0, 0, 0, 10, 0⟩) := by decide
theorem test_decode_vxor : decode 0x43BC1800A4A4000AC0000010 = .ok (.vxor ⟨0xF0, 6, 0, 0⟩ ⟨41, 41, 0, 43, 0, 0, 0, 2, 0⟩) := by decide
theorem test_decode_reserved_bits : decode 0x0F3FC0000000000000000001 = .error .badBits := by decide
theorem test_decode_unassigned : decode 0 = .error .unassigned ∧ decode (0x0FDFC0000000000000000000 ||| 0x7F#96 <<< 86) = .error .unassigned := by decide
theorem test_decode_no_class : decode (6#96 <<< 93) = .error .noClass ∧ decode (7#96 <<< 93) = .error .noClass := by decide

/-! ### Witnesses: encodings and steps -/

theorem wit_decodeEncode : Instr.wf (.halt on fS0) = true ∧ encode (.halt on fS0) = some 0x0EBFC0000000000000000000 := by decide

theorem wit_slotsAndHeaders : decode 0x0EBFC0000000000000000000 = .ok (.halt on fS0) ∧
    (let h : Header := ⟨5, 254, 1, 255, 255, 255, 255, 255, 0, 0⟩
     h.eng.toNat < 6 ∧ h.num ≠ 255 ∧ h.len ≠ 0 ∧ h.rsv = 0) := by decide

/-- A HALT where the next step fetches it; a VADD in a started section of engine A. -/
def haltNext : State := State.reset.withFetchWord 96 0x0EBFC0000000000000000000
def vaddWord : Slot := wordOf 2 1 on { fV3 with vc := 0 }.toBits
def vaddNext : State := State.reset.withFetchWord 96 vaddWord.toNat

theorem wit_stepRunsDecoded_turn : haltNext.on = true ∧ haltNext.agenda = [.run 0 .S] ∧
    StandsAtWord haltNext 0 0x0EBFC0000000000000000000 ∧ slotClass 0x0EBFC0000000000000000000 = 0 ∧
    decode 0x0EBFC0000000000000000000 = .ok (.halt on fS0) := by
  unfold StandsAtWord; decide +kernel

theorem wit_stepRunsDecoded_focus : let s := { haltNext with agenda := [] }
    s.on = true ∧ s.agenda = [] ∧ StandsAtWord s s.focus 0x0EBFC0000000000000000000 := by
  unfold StandsAtWord; decide +kernel

theorem wit_stepRunsDecoded_engine : let x := vaddNext.tile 0
    vaddNext.on = true ∧ vaddNext.agenda = [.run 0 .A] ∧ x.inParts .A = false ∧ decode vaddWord = .ok (.vadd on { fV3 with vc := 0 }) ∧
    ∃ iss fw, fw.slot = vaddWord ∧ x.nextWord 0 .A = some (iss, fw) ∧ StandsAtFwd vaddNext 0 .A iss fw := by
  refine ⟨rfl, rfl, by decide +kernel, by decide, ?_⟩
  have h : ∃ p : Issue × FwdWord, p.2.slot = vaddWord ∧ (vaddNext.tile 0).nextWord 0 .A = some p := by
    refine ⟨((vaddNext.tile 0).nextWord 0 .A).get (by decide +kernel), by decide +kernel, by decide +kernel⟩
  obtain ⟨⟨iss, fw⟩, h1, h2⟩ := h
  exact ⟨iss, fw, h1, h2, by decide, by decide +kernel, h2, by rw [h1]; decide, by decide, by decide⟩

/-- A turn that leaves row accesses or writes to follow: of the S engine, and of engine A. -/
theorem wit_stepRunsDecoded_late : let s := { haltNext with agenda := [.runLate 0 .S] }
    s.agenda = [if true then .runLate 0 .S else .run 0 .S] ∧ StandsAtWord s 0 0x0EBFC0000000000000000000 ∧
    (let t := { vaddNext with agenda := [.runLate 0 .A] }
     t.agenda = [if true then .runLate 0 .A else .run 0 .A] ∧ t.tile 0 = vaddNext.tile 0) := by
  unfold StandsAtWord; decide +kernel

theorem wit_stepRunsDecoded_event : let s := { State.reset with agenda := [.event .scheduleCycleTick] }
    s.on = true ∧ s.agenda = .event .scheduleCycleTick :: [] ∧ encode .scheduleCycleTick = none := by decide +kernel

theorem wit_stepStopsOnlyWithoutPower : let s := { State.reset with on := false }
    (s.on = false ∧ s.agenda = []) ∧ ¬ (State.reset.on = false ∧ State.reset.agenda = []) := by decide

/-! ### Witnesses: words of the S engine -/

theorem sRuns_at0 {x : Tile} {g : Guard} {l : List Nat} (hg : x.guardS g = true) (hr : l.all (fun n => !x.emptyG n) = true) :
    SRuns (at0 x) g l :=
  ⟨rfl, hg, fun n hn => by
    show x.emptyG n = false
    simpa using List.all_eq_true.mp hr n hn⟩

theorem noReplay_at0 (x : Tile) (e : Engine) (h : x.point = none := by rfl) : NoReplay (at0 x e) := by
  intro l hl
  have : (at0 x e).launchOf (at0 x e).issue.tile = none := by
    show (at0 x e).launchOf 0 = none
    unfold State.launchOf
    simp [State.tile, at0, Assoc.get, h, State.reset]
  rw [this] at hl
  cases hl

theorem wit_scalarRegisterResults : SRuns (at0 {}) on [1, 2, 63] ∧ SRuns (at0 {}) on [0, 0, 0] :=
  ⟨sRuns_at0 (by decide) (by decide), sRuns_at0 (by decide) (by decide)⟩

/-- g1 = -2^63, g2 = -1. -/
def minNeg : Tile := { g := [(1, BitVec.intMin 64), (2, BitVec.allOnes 64)] }

theorem wit_scalarDivision : SRuns (at0 minNeg) on [1, 2, 3] ∧ (here (at0 minNeg)).readG 1 = BitVec.intMin 64 ∧
    (here (at0 minNeg)).readG 2 = BitVec.allOnes 64 := ⟨sRuns_at0 (by decide) (by decide), by decide, by decide⟩

theorem wit_scalarImmediateResults : SRuns (at0 {}) on [1, 3] ∧ SRuns (at0 {}) on [3] ∧ SRuns (at0 {}) on [1, 2, 3] :=
  ⟨sRuns_at0 (by decide) (by decide), sRuns_at0 (by decide) (by decide), sRuns_at0 (by decide) (by decide)⟩

theorem wit_scalarBitCounts : SRuns (at0 {}) on [1, 3] ∧ WellFormed.bitField (BitVec.ofNat 32 (64 * 64)) = true ∧
    WellFormed.bitField (BitVec.ofNat 32 (64 + 63)) = true := ⟨sRuns_at0 (by decide) (by decide), by decide, by decide⟩

theorem wit_scalarPredicates : SRuns (at0 {}) on [1, 2] ∧ SRuns (at0 {}) on [1] ∧ SRuns (at0 {}) on [] ∧ SRuns (at0 {}) on [3] ∧
    ({ fS with cs := 9 } : FmtS).cs.toNat % 16 ≤ 9 :=
  ⟨sRuns_at0 (by decide) (by decide), sRuns_at0 (by decide) (by decide), sRuns_at0 (by decide) (by decide),
    sRuns_at0 (by decide) (by decide), by decide⟩

theorem wit_compareWithFalseGuard : (at0 {}).issue.eng = .S ∧ (here (at0 {})).guardS off = false := ⟨rfl, by decide⟩

theorem wit_scalarVoidWords : sGuard? (.halt off fS0) = some off ∧ (at0 {}).issue.eng = .S ∧ (here (at0 {})).guardS off = false ∧
    (∀ h f, (Instr.halt off fS0) = .cmp h f ∨ (Instr.halt off fS0) = .cmpi h f → f.cs.getLsbD 4 = false) ∧
    sGuard? (.cmp off fS) = some off ∧ (∀ h f, (Instr.cmp off fS) = .cmp h f ∨ (Instr.cmp off fS) = .cmpi h f → f.cs.getLsbD 4 = false) := by
  refine ⟨rfl, rfl, by decide, ?_, rfl, ?_⟩
  · rintro h f (e | e) <;> cases e
  · rintro h f (e | e) <;> cases e
    decide

/-- g1 empty; g2 empty; g3 empty. -/
def holes (n : Nat) : Tile := { gEmpty := BitVec.ofNat 64 n }

theorem wit_emptySourceTraps : (here (at0 (holes 2))).guardS on = true ∧ (here (at0 (holes 2))).emptyG 1 = true ∧
    (here (at0 (holes 4))).emptyG 1 = false ∧ (here (at0 (holes 4))).emptyG 2 = true ∧ (here (at0 (holes 8))).emptyG 3 = true ∧
    ({ fS with feA := 1 } : FmtS).feA = 1 ∧ ({ fS with feB := 1 } : FmtS).feB = 1 ∧ fS.feA = 0 ∧ fS.feB = 0 := by decide

/-- A point whose word of engine e has trapped, in the schedule cycle c. -/
def trappedTile (e : Engine := .S) (c : Option W64 := none) : Tile := { stop := some ⟨.trap, true, some e, 0, none, c, none⟩ }

/-- No word has trapped; one of engine A has, in the same cycle as an S word now; one has in an earlier cycle. -/
theorem wit_trapEntry : ((at0 {}).tile 0).stop = none ∧ ((at0 {}).tile 0).point = none ∧ (at0 {}).launch? 64 = none ∧
    (let s := at0 (trappedTile .A (some 0))
     ((s.tile 0).stop.map fun st => (st.trapped, st.cyc == some s.scyc, decide ((2 : Nat) ≤ s.issue.eng.code))) = some (true, true, false)) ∧
    (let s := at0 trappedTile
     ((s.tile 0).stop.map fun st => (st.trapped, st.cyc == some s.scyc)) = some (true, false)) := by decide +kernel

/-- A launch in slot 0 with a context area at VA 0x40000 of context 0, whose only point is on tile 0. -/
def hdrArea : BitVec 1024 := BitVec.ofNat 1024 (0x40000 * 2 ^ (64 * 12))
def ctxLaunch : Launch := { hdrVA := 0, hdr := hdrArea, seq := 1, node := 0, nodeW := 0, nodeCtx := 0, nodePriv := 0 }
def pt0 : Point := { slot := 0, hdr := hdrArea, col := 0, z := 0, home := 0, started := true }
def withLaunch (s : State) (l : Launch) : State := { s with launches := [(0, l)] }

theorem wit_trapWord : (here (at0 {})).guardS on = true ∧ (here (at0 {})).guardS off = false ∧ (here (at0 {})).stop = none ∧
    ((here (at0 trappedTile)).guardS on = true ∧ (here (at0 trappedTile)).stop = some ⟨.trap, true, some .S, 0, none, none, none⟩) ∧
    (here (at0 {})).point = none ∧ (at0 {}).launch? 64 = none ∧
    (here (withLaunch (at0 { point := some pt0 }) ctxLaunch)).point = some pt0 ∧
    (withLaunch (at0 { point := some pt0 }) ctxLaunch).launch? 0 = some ctxLaunch ∧ ctxLaunch.ctxVA ≠ 0 :=
  ⟨by decide, by decide, rfl, ⟨by decide, rfl⟩, rfl, rfl, rfl, rfl, by decide +kernel⟩

/-- BR and CALL at word address 0: to the first and the last word address, and to the nearest that are none. -/
theorem wit_controlWords : SRuns (at0 {}) on [] ∧ SRuns (at0 {}) on [1] ∧ SRuns (at0 {}) on [3] ∧
    (let dst (off : BitVec 32) : Int := ((at0 {}).issue.addr : Int) + off.toInt
     (0 ≤ dst 0 ∧ dst 0xFFFFF < 1048576) ∧ dst 0xFFFFFFFF < 0 ∧ 1048576 ≤ dst 0x100000) :=
  ⟨sRuns_at0 (by decide) (by decide), sRuns_at0 (by decide) (by decide), sRuns_at0 (by decide) (by decide), by decide⟩

/-- A tile with g1 = n and a loop-index stack. -/
def looping (n : Nat) (ks : List (BitVec 128)) : Tile := { g := [(1, BitVec.ofNat 64 n)], ks := ks, kIds := List.replicate ks.length 0 }

def recEntry : BitVec 128 := kMake true 1 11 7 0 2
def cntEntry : BitVec 128 := kMake false 0 11 7 0 2
def cntLast : BitVec 128 := kMake false 0 11 7 1 2

theorem wit_loopRecordWords :
    (SRuns (at0 (looping 1 (List.replicate 6 cntEntry))) on [1] ∧ 6 ≤ (looping 1 (List.replicate 6 cntEntry)).ks.length) ∧
    (SRuns (at0 (looping (2 ^ 32 - 1) [])) on [1] ∧ 2 ^ 32 - 1 < ((looping (2 ^ 32 - 1) []).readG 1).toNat + (fL.stg.toNat + 1) - 1) ∧
    (SRuns (at0 (looping 0 [])) on [1] ∧ ((looping 0 []).readG 1).toNat = 0) ∧
    (SRuns (at0 (looping (2 ^ 32 - 2) [])) on [1] ∧ 0 < ((looping (2 ^ 32 - 2) []).readG 1).toNat ∧
      ((looping (2 ^ 32 - 2) []).readG 1).toNat + (fL.stg.toNat + 1) - 1 ≤ 2 ^ 32 - 1) ∧
    (SRuns (at0 (looping 0 [recEntry])) on [] ∧ (looping 0 [recEntry]).ks = [recEntry] ∧ kRec recEntry = true ∧ kValid recEntry = true ∧
      kIdx recEntry < 2 ^ 32 - 1) ∧
    (SRuns (at0 (looping 0 [])) on [] ∧ ∀ e l, (here (at0 (looping 0 []))).ks = e :: l → kRec e = false) ∧
    (SRuns (at0 (looping 0 [cntEntry])) on [] ∧ kRec cntEntry = false) := by
  refine ⟨⟨sRuns_at0 ?_ ?_, ?_⟩, ⟨sRuns_at0 ?_ ?_, ?_⟩, ⟨sRuns_at0 ?_ ?_, ?_⟩, ⟨sRuns_at0 ?_ ?_, ?_, ?_⟩, ⟨sRuns_at0 ?_ ?_, rfl, ?_, ?_, ?_⟩,
    ⟨sRuns_at0 ?_ ?_, fun _ _ h => by cases h⟩, ⟨sRuns_at0 ?_ ?_, ?_⟩⟩ <;> decide +kernel

theorem wit_countedLoopWords :
    (SRuns (at0 (looping 1 (List.replicate 6 cntEntry))) on [1] ∧ 6 ≤ (looping 1 (List.replicate 6 cntEntry)).ks.length) ∧
    (SRuns (at0 (looping (2 ^ 32) [])) on [1] ∧ 2 ^ 32 - 1 < ((looping (2 ^ 32) []).readG 1).toNat) ∧
    (SRuns (at0 (looping 0 [])) on [1] ∧ ((looping 0 []).readG 1).toNat = 0) ∧
    (SRuns (at0 (looping (2 ^ 32 - 1) [])) on [1] ∧ 0 < ((looping (2 ^ 32 - 1) []).readG 1).toNat ∧
      ((looping (2 ^ 32 - 1) []).readG 1).toNat ≤ 2 ^ 32 - 1) ∧
    (SRuns (at0 (looping 0 [cntEntry])) on [] ∧ kRec cntEntry = false ∧ kIdx cntEntry < 2 ^ 32 - 1 ∧ kIdx cntEntry + 1 < kLim cntEntry) ∧
    (SRuns (at0 (looping 0 [cntLast])) on [] ∧ kRec cntLast = false ∧ kIdx cntLast < 2 ^ 32 - 1 ∧ kLim cntLast ≤ kIdx cntLast + 1) ∧
    (SRuns (at0 (looping 0 [recEntry])) on [] ∧ kRec recEntry = true) ∧ SRuns (at0 {}) on [3] := by
  refine ⟨⟨sRuns_at0 ?_ ?_, ?_⟩, ⟨sRuns_at0 ?_ ?_, ?_⟩, ⟨sRuns_at0 ?_ ?_, ?_⟩, ⟨sRuns_at0 ?_ ?_, ?_, ?_⟩, ⟨sRuns_at0 ?_ ?_, ?_, ?_, ?_⟩,
    ⟨sRuns_at0 ?_ ?_, ?_, ?_, ?_⟩, ⟨sRuns_at0 ?_ ?_, ?_⟩, sRuns_at0 ?_ ?_⟩ <;> decide +kernel

/-- A layout entry of rank 0: base, extent and stride of dimension 0, format, described, space, header base. -/
def lay (base ext stride fmt desc space : Nat) (hbase : Nat := 0) : BitVec 512 :=
  BitVec.ofNat 512 (base + hbase * 2 ^ 64 + ext * 2 ^ 128 + stride * 2 ^ 192 + (fmt + desc * 2 ^ 8 + space * 2 ^ 9) * 2 ^ 320)

theorem wit_layoutAddresses :
    laySpace (lay 0 1 1 0 0 3).toNat = 3 ∧
    (let e := (lay 0 4 256 0 0 0).toNat
     laySpace e ≠ 3 ∧ layRank e = 0 ∧ ¬ ((4 : Int) < layExt e 0) ∧ (3 : Int) < layExt e 0) ∧
    (lay 0x1000 0 64 0 0 2).toNat / 2 ^ (320 + 9) % 4 = 2 ∧
    (let e := (lay (2 ^ 22 - 256) 2 256 0 0 0).toNat
     laySpace e < 2 ∧ ((e % 2 ^ 22 : Nat) : Int) + 0 * 256 < 2 ^ 22 ∧ (2 : Int) ^ 22 ≤ ((e % 2 ^ 22 : Nat) : Int) + 1 * 256) ∧
    fSM.size.toNat ≤ 6 := by decide +kernel

/-- A tile whose layout entry 4 is given, with what else it holds. -/
def with4 (e : BitVec 512) (x : Tile := {}) : Tile := { x with layout := [(4, e)] }

/-- Entry 4 names bytes from row 4 on; from row 0 on. -/
def rows4 : BitVec 512 := lay 1024 4096 1 0 0 0
def rows0 : BitVec 512 := lay 0 4096 1 0 0 0

/-- A forwarded word, and a section of an engine that holds words. -/
def fwd (w : Slot) : FwdWord := ⟨w, 0, {}⟩
def secOf (e : Engine) (ws : List Slot) (q : Nat := 0) : Section :=
  { eng := e, hdr := Header.ofBits 0, hdrAddr := 0, seq := q, tag := 0, gens := [], deps := [], started := true, words := ws.map fwd }

/-- A VLD of entry 4 and class 0 that has not performed, forwarded before what follows. -/
def vldWord : Slot := wordOf 1 1 on fVM.toBits
def openLoad (x : Tile) : Tile := { x with secs := [secOf .L [vldWord]], seqNext := 1 }

theorem wit_scalarMemoryWords :
    (SRuns (at0 (with4 rows4)) on [1, 2, 3] ∧ fSM.size.toNat ≤ 6) ∧
    (∃ d, (with4 (lay 0 1 1 0 0 2)).smAddr fSM = .error d) ∧
    ((with4 rows0).smAddr fSM = .ok 0 ∧ (with4 rows0).priv.getLsbD 2 = false) ∧
    ((openLoad (with4 rows4)).smAddr fSM = .ok 1024 ∧
      (openLoad (with4 rows4)).classHold (openLoad (with4 rows4)).nowSeq .S 0 = true) ∧
    ((with4 rows4).smAddr fSM = .ok 1024 ∧ (with4 rows4).classHold (with4 rows4).nowSeq .S 0 = false ∧ NoReplay (at0 (with4 rows4)) ∧
      (with4 rows4).watch [4] false false = none ∧ (with4 rows4).watch [4] true false = none) ∧
    (let x := with4 rows0 { priv := 4 }
     x.smAddr fSM = .ok 0 ∧ x.priv.getLsbD 2 = true ∧ x.waiters = [] ∧ x.watch [0] true false = none) ∧
    (let s := at0 (with4 rows4)
     AtOnce s ∧ ¬ AtOnce { s with issue := { s.issue with late := true } } ∧ ¬ 4 < (with4 rows4).codeRow + (with4 rows4).ncode) := by
  refine ⟨⟨sRuns_at0 ?_ ?_, ?_⟩, ⟨_, rfl⟩, ⟨?_, ?_⟩, ⟨?_, ?_⟩, ⟨?_, ?_, noReplay_at0 _ _, ?_, ?_⟩, ?_, ?_, ?_, ?_⟩ <;>
    first | decide +kernel | (unfold AtOnce; decide +kernel)

/-- A tile with an A section that has not retired; one whose tile may write debug registers; one that emits marks. -/
def aBusy : Tile := { secs := [secOf .A [vaddWord]] }
def debugger : Tile := { priv := 2 }
def marking : Tile := { dbg := [(8, 1)] }

theorem wit_systemRegisterWords :
    (SRuns (at0 {}) on [3] ∧ NoReplay (at0 {})) ∧ SRuns (at0 {}) on [1] ∧
    (∃ c ∈ aBusy.secs, c.eng = .A) ∧ (∀ c ∈ ({} : Tile).secs, c.eng ≠ .A) ∧ SRuns (at0 aBusy) on [1] ∧
    (SRuns (at0 debugger) on [1] ∧ debugger.priv.getLsbD 1 = true) ∧ ({} : Tile).priv.getLsbD 1 = false ∧
    (({} : Tile).readDbg 8).testBit 0 = false ∧ (SRuns (at0 marking) on [1] ∧ (marking.readDbg 8).testBit 0 = true) := by
  refine ⟨⟨sRuns_at0 ?_ ?_, noReplay_at0 _ _⟩, sRuns_at0 ?_ ?_, ⟨_, List.mem_cons_self .., rfl⟩, ?_, sRuns_at0 ?_ ?_, ⟨sRuns_at0 ?_ ?_, ?_⟩, ?_, ?_,
    ⟨sRuns_at0 ?_ ?_, ?_⟩⟩ <;> decide +kernel

theorem wit_layoutTableWords : SRuns (at0 (openLoad {})) on [1] ∧
    (∃ c ∈ (openLoad {}).secs, ∃ w ∈ c.words, w.vmLay? c.eng = some 4) ∧
    (SRuns (at0 {}) on [1] ∧ ¬ ∃ c ∈ ({} : Tile).secs, ∃ w ∈ c.words, w.vmLay? c.eng = some 5) ∧ SRuns (at0 {}) on [3] := by
  refine ⟨sRuns_at0 ?_ ?_, ⟨_, List.mem_cons_self .., _, List.mem_cons_self .., ?_⟩, ⟨sRuns_at0 ?_ ?_, ?_⟩, sRuns_at0 ?_ ?_⟩ <;> decide +kernel

/-- Ring 2: configuration (n - 1, rows a slot, first row) and state word. -/
def ring2 (nm1 srows brow st : Nat) (x : Tile := {}) : Tile :=
  { x with rings := [(2, BitVec.ofNat 128 (nm1 * 2 ^ 28 + srows * 2 ^ 14 + brow + st * 2 ^ 64))] }

/-- g1 holds a ring configuration: two slots of one row from row 4 on; of one slot; up to the last row. -/
def cfg1 (nm1 srows brow : Nat) : List (Nat × W64) := [(1, BitVec.ofNat 64 (nm1 * 2 ^ 28 + srows * 2 ^ 14 + brow))]

theorem wit_ringWords_rinit :
    (SRuns (at0 (ring2 1 1 4 (2 ^ 32) { g := cfg1 1 1 4 })) on [1] ∧ ringPend ((ring2 1 1 4 (2 ^ 32)).readRing 2) 0 = true) ∧
    (SRuns (at0 { g := cfg1 0 1 4 }) on [1] ∧ (∀ i, i < 16 → ringPend (({} : Tile).readRing 2) i = false) ∧
      ringNm1 ((({ g := cfg1 0 1 4 } : Tile).readG 1).toNat % 2 ^ 32) = 0) ∧
    (let c := (({ g := cfg1 1 1 16382 } : Tile).readG 1).toNat % 2 ^ 32
     SRuns (at0 { g := cfg1 1 1 16382 }) on [1] ∧ ringNm1 c ≠ 0 ∧ ringSrows c ≠ 0 ∧ 4 ≤ ringBrow c ∧
       ringBrow c + (ringNm1 c + 1) * ringSrows c ≤ 16384 ∧ ({} : Tile).ncode = 0 ∧ ({} : Tile).nwl = 0) := by
  refine ⟨⟨sRuns_at0 ?_ ?_, ?_⟩, ⟨sRuns_at0 ?_ ?_, ?_, ?_⟩, sRuns_at0 ?_ ?_, ?_⟩ <;> decide +kernel

theorem wit_ringWords_racq :
    (SRuns (at0 {}) on [] ∧ ringNm1 (({} : Tile).readRing 2) = 0) ∧
    (let x := ring2 1 1 4 0 { layout := [(5, lay 0 1 1 0 0 2)] }
     SRuns (at0 x) on [] ∧ ringNm1 (x.readRing 2) ≠ 0 ∧ laySpace (x.readLay 5) ≠ 0) ∧
    (let x := ring2 1 1 4 0 (openLoad {})
     SRuns (at0 x) on [] ∧ ringNm1 (x.readRing 2) ≠ 0 ∧ laySpace (x.readLay 4) = 0 ∧
       ∃ c ∈ x.secs, ∃ w ∈ c.words, w.vmLay? c.eng = some 4) ∧
    (let x := ring2 1 1 4 2
     SRuns (at0 x) on [] ∧ laySpace (x.readLay 5) = 0 ∧ ringFa (x.readRing 2) = 0 ∧ ringSt (x.readRing 2) 0 ≠ 0 ∧
       ringPend (x.readRing 2) 0 = false) ∧
    (let x := ring2 1 1 4 (3 + 2 ^ 32)
     SRuns (at0 x) on [] ∧ ringSt (x.readRing 2) 0 = 3 ∧ ringPend (x.readRing 2) 0 = true) ∧
    (let x := ring2 1 1 4 (1 + 2 ^ 32)
     SRuns (at0 x) on [] ∧ ringDa (x.readRing 2) = 0 ∧ ringSt (x.readRing 2) 0 = 1 ∧ ringPend (x.readRing 2) 0 = true) ∧
    (let x := ring2 1 1 4 0
     SRuns (at0 x) on [] ∧ ringNm1 (x.readRing 2) ≠ 0 ∧ x.secs = [] ∧ ringSt (x.readRing 2) 0 = 0) ∧
    (let x := ring2 15 1 4 (2 * 2 ^ 30 + 15 * 2 ^ 52)
     SRuns (at0 x) on [] ∧ ringDa (x.readRing 2) = 15 ∧ ringSt (x.readRing 2) 15 = 2) := by
  refine ⟨⟨sRuns_at0 ?_ ?_, ?_⟩, ⟨sRuns_at0 ?_ ?_, ?_⟩, ⟨sRuns_at0 ?_ ?_, ?_, ?_, _, List.mem_cons_self .., _, List.mem_cons_self .., ?_⟩,
    ⟨sRuns_at0 ?_ ?_, ?_⟩, ⟨sRuns_at0 ?_ ?_, ?_⟩, ⟨sRuns_at0 ?_ ?_, ?_⟩, ⟨sRuns_at0 ?_ ?_, ?_⟩, ⟨sRuns_at0 ?_ ?_, ?_⟩⟩ <;> decide +kernel

/-- A release of slot 0 of ring 2 that waits for what was forwarded before it. -/
def releasing (side : Nat) (x : Tile := {}) : Tile := { ring2 1 1 4 (1 + 2 ^ 32) x with relPend := [(2, 0, side, 1)] }

theorem wit_ringRelease :
    (SRuns (at0 {}) on [] ∧ ringNm1 (({} : Tile).readRing 2) = 0) ∧
    (let r := (ring2 1 1 4 0).readRing 2
     SRuns (at0 (ring2 1 1 4 0)) on [] ∧ ringNm1 r ≠ 0 ∧ ringFr r = 0 ∧ ringSt r 0 ≠ 1) ∧
    (let r := (ring2 1 1 4 1).readRing 2
     SRuns (at0 (ring2 1 1 4 1)) on [] ∧ ringNm1 r ≠ 0 ∧ ringSt r 0 = 1 ∧ ringPend r 0 = false) ∧
    (let r := (ring2 1 1 4 3).readRing 2
     SRuns (at0 (ring2 1 1 4 3)) on [] ∧ ringDr r = 0 ∧ ringSt r 0 = 3 ∧ ringPend r 0 = false) ∧
    (let x := releasing 0 (openLoad {})
     x.relPend.find? (fun p => p.1 == 2 && p.2.1 == 0) = some (2, 0, 0, 1) ∧ x.quenched = false ∧ ∃ c ∈ x.secs, ¬ 1 ≤ c.seq) ∧
    (let x := releasing 1
     x.relPend.find? (fun p => p.1 == 2 && p.2.1 == 0) = some (2, 0, 1, 1) ∧ (∀ c ∈ x.secs, 1 ≤ c.seq) ∧
       (∀ c ∈ x.inflight, 1 ≤ c.seq) ∧ (∀ c ∈ x.late, 1 ≤ c.seq) ∧ (∀ c ∈ x.chan, 1 ≤ c.seq) ∧ ∀ r ∈ x.rowsOut, 2048 * 1 < r.pos) := by
  refine ⟨⟨sRuns_at0 ?_ ?_, ?_⟩, ⟨sRuns_at0 ?_ ?_, ?_⟩, ⟨sRuns_at0 ?_ ?_, ?_⟩, ⟨sRuns_at0 ?_ ?_, ?_⟩, ⟨?_, rfl, _, List.mem_cons_self .., ?_⟩, ?_⟩ <;>
    decide +kernel

/-! ### Witnesses: semaphores, fences, work lists -/

/-- Semaphore 255 holds a value; engines wait on it. -/
def sem255 (v : Nat) (ws : List Waiter := []) : Tile := { sp := Memory.writeLE [] 1020 4 v, waiters := ws }

theorem eRuns_at0 {x : Tile} {e : Engine} {g : Guard} (he : e ≠ .S) (hg : x.guard0 e {} g = true) : ERuns (at0 x e) e g [] :=
  ⟨rfl, he, hg, fun _ h => nomatch h⟩

theorem wit_semaphoreAdd :
    (SRuns (at0 (openLoad {})) on [0] ∧ (openLoad {}).openBefore (openLoad {}).nowSeq .S 0xFFFF = true) ∧
    (let x := sem255 (2 ^ 32 - 2)
     SRuns (at0 x) on [0] ∧ x.openBefore x.nowSeq .S 0xFFFF = false ∧ x.waiters = [] ∧ x.sem 255 + fSY.imm.toNat = 2 ^ 32 - 1) ∧
    (let x := sem255 (2 ^ 32 - 1)
     SRuns (at0 x) on [0] ∧ 2 ^ 32 - 1 < x.sem 255 + fSY.imm.toNat ∧ x.stop = none ∧
       ({ x with stop := trappedTile.stop }).stop = some ⟨.trap, true, some .S, 0, none, none, none⟩) ∧
    (ERuns (at0 (sem255 0) .M) .M on [] ∧ (sem255 0).openBefore 0 .M 0xFFFF = false ∧ (sem255 0).inflight = [] ∧ (sem255 0).late = []) ∧
    (ERuns (at0 (sem255 (2 ^ 32 - 1)) .W) .W on [] ∧ 2 ^ 32 - 1 < (sem255 (2 ^ 32 - 1)).sem 255 + fSY.imm.toNat) ∧
    (let i : InFlight := { kind := .longLat, eng := .A, tgt := 0, payload := 0, seq := 0, tag := 0, addr := 0 }
     ERuns (at0 { inflight := [i] } .A) .A on [] ∧ ∃ j ∈ ({ inflight := [i] } : Tile).inflight, j.eng = .A) := by
  refine ⟨⟨sRuns_at0 ?_ ?_, ?_⟩, ⟨sRuns_at0 ?_ ?_, ?_, rfl, ?_⟩, ⟨sRuns_at0 ?_ ?_, ?_⟩, ⟨eRuns_at0 ?_ ?_, ?_, rfl, rfl⟩, ⟨eRuns_at0 ?_ ?_, ?_⟩,
    ⟨eRuns_at0 ?_ ?_, _, List.mem_cons_self .., rfl⟩⟩ <;> decide +kernel

/-- A wait of engine e for one unit of semaphore 255, served or not. -/
def waitOf (e : Engine) (served : Bool) : Waiter := { eng := e, sem := 255, n := 1, start := 0, served := served }

theorem wit_semaphoreTake :
    (SRuns (at0 {}) on [0] ∧ NoReplay (at0 {}) ∧ ({ fSY with imm := 0 } : FmtSY).imm.toNat = 0) ∧
    ((sem255 1).sem 255 = 1 ∧ fSY.imm.toNat = 1 ∧ (sem255 1).waiters = [] ∧ (sem255 1).missed = []) ∧ (sem255 0).sem 255 < fSY.imm.toNat ∧
    (∃ m ∈ ({ sem255 1 with missed := [(255, 0, 0, 0)] } : Tile).missed, m.1 = 255) ∧
    (∀ b, (sem255 0 [waitOf .S b]).waiters.find? (fun v => v.eng == .S) = some (waitOf .S b) ∧ (waitOf .S b).served = b) ∧
    (ERuns (at0 (sem255 1) .L) .L on [] ∧ NoReplay (at0 (sem255 1) .L)) ∧
    (∀ b, (sem255 0 [waitOf .L b]).waiters.find? (fun v => v.eng == .L) = some (waitOf .L b) ∧ (waitOf .L b).served = b) := by
  refine ⟨⟨sRuns_at0 ?_ ?_, noReplay_at0 _ _, ?_⟩, ⟨?_, ?_, rfl, rfl⟩, ?_, ⟨_, List.mem_cons_self .., rfl⟩, ?_, ⟨eRuns_at0 ?_ ?_, noReplay_at0 _ _⟩,
    ?_⟩ <;> decide +kernel

/-- Two engines wait on one semaphore, which a signal has changed in this cycle. -/
theorem wit_semaphoreUnitServes : let b : Setter := { kind := 1, sid := 0, seng := 0 }
    let x : Tile := { sem255 1 [waitOf .L false, waitOf .M false] with missed := [] ++ [(255, b.kind, b.sid, b.seng)] }
    x.missed = [] ++ [(255, b.kind, b.sid, b.seng)] ∧ x.waiters = [waitOf .L false, waitOf .M false] ∧
    (waitOf .L false).eng ≠ (waitOf .M false).eng ∧ (255 : Nat) < 256 ∧ NoReplay { at0 x with issue := { (at0 x).issue with tile := 0 } } :=
  ⟨rfl, rfl, by decide, by decide, noReplay_at0 _ .S⟩

/-- A point of a list launch whose work list of one row lies at row 4, with n items and its head at slot 3. -/
def hdrList : BitVec 1024 := BitVec.ofNat 1024 (1 + 4 * 2 ^ (64 * 5) + 2 ^ (64 * 5 + 14))
def ptList : Point := { slot := 64, hdr := hdrList, col := 0, z := 0, home := 0, started := true }
def listTile (n : Nat) (fin : Bool) : Tile := { point := some ptList, wlCount := n, wlHead := 3, wlDone := fin }

theorem noReplay_list (n : Nat) (fin : Bool) : NoReplay (at0 (listTile n fin)) := by
  intro l hl
  have : (at0 (listTile n fin)).launchOf (at0 (listTile n fin)).issue.tile = none := by
    simp [State.launchOf, at0, State.tile, Assoc.get, listTile, ptList, State.launch?, Tab.get?, State.reset]
  rw [this] at hl
  cases hl

theorem wit_waitingScalarWords :
    (SRuns (at0 {}) on [] ∧ ({} : Tile).openAccesses = [] ∧ ({} : Tile).rowEntry = false) ∧
    (let x := openLoad {}
     SRuns (at0 x) on [] ∧ ∃ a ∈ x.openAccesses, a.1 ≤ 2048 * x.seqNext ∧ fFN.mask.toNat.testBit a.2 = true) ∧
    ({ inflight := [{ kind := .entry 5, eng := .L, tgt := 4, payload := 0, seq := 0, tag := 0, addr := 0 }] } : Tile).rowEntry = true ∧
    (({} : Tile).secs = [] ∧ ({} : Tile).inflight = [] ∧ ({} : Tile).late = [] ∧ ({} : Tile).chan = [] ∧ ({} : Tile).rowsOut = []) ∧
    (openLoad {}).secs ≠ [] ∧ (ERuns (at0 {} .W) .W on [] ∧ ({} : Tile).openAccesses = []) ∧
    (let s := { at0 (openLoad {}) .A with issue := { eng := .A, seq := 1 } }
     ERuns s .A on [] ∧ ∃ a ∈ (here s).openAccesses, a.1 < (here s).posOf s.issue.seq .A ∧ fFN.mask.toNat.testBit a.2 = true) := by
  refine ⟨⟨sRuns_at0 ?_ ?_, rfl, rfl⟩, ⟨sRuns_at0 ?_ ?_, (2, 0), ?_⟩, rfl, ⟨rfl, rfl, rfl, rfl, rfl⟩, ?_, ⟨eRuns_at0 ?_ ?_, rfl⟩,
    ⟨⟨rfl, ?_, ?_, fun _ h => nomatch h⟩, (2, 0), ?_⟩⟩ <;> decide +kernel

theorem unwatched_of {x : Tile} (h : (List.range 4).all (fun n => !(x.readDbg (4 + n)).testBit 63) = true) : Unwatched x := by
  intro n hn
  simpa using List.all_eq_true.mp h n (List.mem_range.mpr hn)

theorem wit_waitingScalarWords_wpop :
    (SRuns (at0 {}) on [8, 9, 10, 11, 12, 13, 14, 15] ∧ NoReplay (at0 {}) ∧ ({} : Tile).isList = false) ∧
    (let x := listTile 1 false
     SRuns (at0 x) on [8, 9, 10, 11, 12, 13, 14, 15] ∧ NoReplay (at0 x) ∧ x.isList = true ∧ 0 < x.wlCount ∧ Unwatched x) ∧
    ((listTile 0 true).isList = true ∧ (listTile 0 true).wlCount = 0 ∧ (listTile 0 true).wlDone = true) ∧
    ((listTile 0 false).wlDone = false) ∧ (SRuns (at0 {}) on [3] ∧ NoReplay (at0 {})) := by
  refine ⟨⟨sRuns_at0 ?_ ?_, noReplay_at0 _ _, ?_⟩, ⟨sRuns_at0 ?_ ?_, noReplay_list _ _, ?_, ?_, unwatched_of ?_⟩, ?_, rfl,
    ⟨sRuns_at0 ?_ ?_, noReplay_at0 _ _⟩⟩ <;> decide +kernel

/-! ### Witnesses: vector words -/

theorem wit_sourceModifier : WellFormed.modifier 0 = true ∧ WellFormed.modifier 0x7FF = false ∧
    WellFormed.modifier (BitVec.ofNat 12 (1024 + 10 * 64 + 63)) = true ∧ WellFormed.modifier (BitVec.ofNat 12 (2048 + 10 * 64 + 9)) = true ∧
    WellFormed.modifier (BitVec.ofNat 12 (3072 + 6 * 64 + 63)) = true ∧ 1023 < 1024 := by decide

theorem vRuns_at0 {x : Tile} {e : Engine} {g : Guard} {en : PMask} {l : List Nat} (he : e ≠ .S) (hg : x.lanes {} g = en) (hn : en ≠ 0)
    (hr : l.all (fun n => !x.emptyV n) = true) : VRuns (at0 x e) g en l :=
  ⟨he, hg, hn, fun n h => by
    show x.emptyV n = false
    simpa using List.all_eq_true.mp hr n h⟩

/-- Every lane; lanes 0 and 1,023 alone, which p1 holds; a guard that follows p1. -/
def allLanes : PMask := BitVec.allOnes 1024
def edgeLanes : PMask := BitVec.ofNat 1024 (1 + 2 ^ 1023)
def edges : Tile := { p := [(1, edgeLanes)] }
def onP1 : Guard := ⟨0xF0, 1, 0, 0⟩

theorem lanes_on : ({} : Tile).lanes {} on = allLanes := by decide +kernel
theorem lanes_edges : edges.lanes {} onP1 = edgeLanes := by decide +kernel

/-- An A word of any registers runs in every lane, and in the two edge lanes alone. -/
theorem wit_vRuns_all (l : List Nat) (h : l.all (fun n => !({} : Tile).emptyV n) = true) : VRuns (at0 {} .A) on allLanes l :=
  vRuns_at0 (by decide) lanes_on (by decide +kernel) h
theorem wit_vRuns_edges : VRuns (at0 edges .A) onP1 edgeLanes [0, 191] :=
  vRuns_at0 (by decide) lanes_edges (by decide +kernel) (by decide)

theorem wit_vectorIntegerResults : fV3.ty.toNat < 8 ∧ ({ fV3 with ty := 7 } : FmtV3).ty.toNat < 8 ∧
    VRuns (at0 {} .A) on allLanes [1, 2, 3] ∧ VRuns (at0 {} .A) on allLanes [1, 2, 4, 3] ∧ VRuns (at0 {} .A) on allLanes [1, 3] ∧
    fVI.ty = fV3.ty :=
  ⟨by decide, by decide, wit_vRuns_all _ (by decide), wit_vRuns_all _ (by decide), wit_vRuns_all _ (by decide), rfl⟩

theorem wit_vectorFloatResults : (Fmt.ofType? 8).isSome = true ∧ (Fmt.ofType? 10).isSome = true ∧
    VRuns (at0 {} .A) on allLanes [1, 2, 3] ∧ VRuns (at0 {} .A) on allLanes [1, 2, 4, 3] ∧ VRuns (at0 {} .A) on allLanes [1, 3] :=
  ⟨rfl, rfl, wit_vRuns_all _ (by decide), wit_vRuns_all _ (by decide), wit_vRuns_all _ (by decide)⟩

/-- 1 x 2^0 in .f32 does not overflow, 1 x 2^128 does. -/
theorem wit_roundsToNearest : Fmt.ofType? 10 = some .f32 ∧ (Fmt.f32.round 0 0 false true 1 0 false).2.testBit 2 = false ∧
    (Fmt.f32.round 0 0 false true 1 128 false).2.testBit 2 = true ∧ (Fmt.e2m1.round 0 0 false false 7 0 false).2.testBit 2 = true := by
  decide +kernel

/-- A magnitude that is given whole and one that is given by its leading 64 bits; operands of each sign and zero; blocks of ones, with
a NaN, with infinities of both signs and of one, and of zeros. -/
theorem wit_roundsToNearest_reals :
    ((3 : Nat) : ℝ) * (2 : ℝ) ^ (0 : Int) ≤ 3 ∧ (3 : ℝ) < (((3 : Nat) : ℝ) + 1) * (2 : ℝ) ^ (0 : Int) ∧
    (2 ^ 63 ≤ 2 ^ 63 ∧ ((2 ^ 63 : Nat) : ℝ) * (2 : ℝ) ^ (0 : Int) ≤ 2 ^ 63 + 1 / 2 ∧
      (2 ^ 63 + 1 / 2 : ℝ) < (((2 ^ 63 : Nat) : ℝ) + 1) * (2 : ℝ) ^ (0 : Int) ∧ (2 ^ 63 + 1 / 2 : ℝ) ≠ ((2 ^ 63 : Nat) : ℝ) * (2 : ℝ) ^ (0 : Int)) ∧
    0 < realOf (.fin false 3 0) ∧ realOf (.fin true 3 0) < 0 ∧ realOf (.fin true 0 5) = 0 := by
  norm_num [realOf]

theorem wit_roundsToNearest_blocks :
    let blk (f : Nat → Fp) (scale : Nat) (zero : Bool) : Blk := { zero := zero, scale := scale, vals := (List.range 32).map f }
    let one : Fp := .fin false 1 0
    let ones := blk (fun _ => one) 127 false
    ones.vals.length = 32 ∧ (∀ k, k < 32 → ones.vals.getD k .nan = one) ∧
    (blk (fun k => if k = 5 then .nan else one) 127 false).vals.getD 5 .nan = .nan ∧ (blk (fun _ => one) 255 false).scale = 255 ∧
    ((blk (fun k => if k = 5 then .inf true else if k = 6 then .inf false else one) 127 false).vals.getD 5 .nan).isInf = true ∧
    Fp.mul (.inf false) one = some (.inf false) ∧ Fp.mul (.inf true) one = some (.inf true) ∧
    ((blk (fun _ => .fin false 0 0) 127 true).vals.getD 5 .nan).isZero = true := by decide +kernel

theorem wit_longLatencyWords : (Fmt.ofType? 9).isSome = true ∧ VRuns (at0 {} .A) on allLanes [1, 3] ∧
    VRuns (at0 {} .A) on allLanes [1, 2, 3] ∧ 2 ^ (({ fV3 with vc := 0xA2 } : FmtV3).vc.toNat / 16) * tyWidth 2 ≤ 32768 ∧
    ({ fV3 with ty := 7 } : FmtV3).ty.toNat < 8 ∧ 8 ≤ ({ fV3 with ty := 8 } : FmtV3).ty.toNat :=
  ⟨rfl, wit_vRuns_all _ (by decide), wit_vRuns_all _ (by decide), by decide, by decide, by decide⟩

theorem wit_reductionsAdd : [some 255, none, some 1, some 2].length = 2 ^ 1 * 2 ∧ [some 255, none, some 1, some 2][0]? = some (some 255) := by
  decide

/-- A result in flight of each kind, at place 0. -/
def inFlightOf (k : InKind) (n : Nat) (rem : Nat := 0) : InFlight :=
  { kind := k, eng := .A, tgt := n, payload := 1, seq := 0, tag := 0, addr := 0, rem := rem }
def pending (k : InKind) (n : Nat) (rem : Nat := 0) : Tile := { inflight := [inFlightOf k n rem] }

theorem wit_resultsLand : (at0 {} .A).issue.eng ≠ .S ∧ (({} : Tile).lanes {} on).getLsbD 0 = true ∧ ({} : Tile).emptyV 1 = false ∧
    (({} : Tile).lanes {} off).getLsbD 0 = false ∧
    (∀ k ∈ [InKind.longLat, .mdrain, .vtog], (pending k 191).inflight[0]? = some (inFlightOf k 191) ∧ (inFlightOf k 191).rem = 0 ∧
      (pending k 191).quenched = false) ∧ (inFlightOf .vtog 0).kind ≠ .longLat ∧ (inFlightOf .mdrain 0).kind ≠ .vtog ∧
    ((2 : Nat) ≤ 10 ∧ ({ pending .vtog 5 with quenched := true } : Tile).quenched = true) ∧
    (let w : LateWord := { eng := .A, seq := 0, tag := 0, addr := 0, due := 0, flags := 0, outs := [.vrow 191 0 0] }
     (pending .longLat 191).late = [] ∧ ∃ u ∈ ({ pending .longLat 191 with late := [w] } : Tile).late, ∃ j v, RegOut.vrow 191 j v ∈ u.outs) := by
  refine ⟨?_, ?_, ?_, ?_, ?_, ?_, ?_, ?_, rfl, _, List.mem_cons_self .., 0, 0, List.mem_cons_self ..⟩ <;> decide +kernel

theorem wit_vectorComparesAndPredicates : fVP.ty.toNat ∈ [2, 3, 6, 7] ∧ ({ fVP with sel := 5 } : FmtVP).sel.toNat ≤ 5 ∧
    VRuns (at0 {} .A) on allLanes [1, 2] ∧ VRuns (at0 {} .A) on allLanes [1] ∧ VRuns (at0 {} .A) on allLanes [] ∧
    ({ fVP with sel := 11 } : FmtVP).sel.toNat = 11 ∧ ({ fVPI with cond := 5 } : FmtVPI).cond.toNat ≤ 5 ∧
    ((here (at0 {} .A)).lanes (at0 {} .A).issue.cap off = 0 ∧ fVP.z = 1 ∧ fVPI.z = 1) ∧
    ({ fVP with sel := 0 } : FmtVP).sel.getLsbD 0 = false ∧ ({ fVP with sel := 1 } : FmtVP).sel.getLsbD 0 = true ∧
    ({ fVP with sel := 31 } : FmtVP).sel.toNat < 32 ∧ ({ fVP with sel := 64 } : FmtVP).sel.toNat = 64 :=
  ⟨by decide, by decide, wit_vRuns_all _ (by decide), wit_vRuns_all _ (by decide), wit_vRuns_all _ (by decide), by decide, by decide,
    ⟨by decide +kernel, rfl, rfl⟩, by decide, by decide, by decide, by decide⟩

/-- Register 2 holds heads whose codes are all n. -/
def headsOf (n : Nat) : Tile := { v := [(2, BitVec.ofNat 32768 ((2 ^ 32768 - 1) / 65535 * n))] }

theorem wit_vectorConversions : VRuns (at0 {} .A) on allLanes [1, 3] ∧ VRuns (at0 {} .A) on allLanes [1, 3, 2] ∧
    VRuns (at0 (headsOf 8) .A) on allLanes [1, 2, 3] ∧ (2 : BitVec 8) ≠ 3 ∧
    (Fmt.ofType? 15).isSome = true ∧ (Fmt.ofType? 8).isSome = true ∧
    (let head (n i : Nat) : Nat := elemNat 16 (modReg ((headsOf n).readV 2) 0).toNat i
     (enElem allLanes 32 0 = true ∧ head 8 0 % 256 ≠ 0 ∧ head 8 0 % 256 ≠ typeCode 11) ∧
       head 0 0 % 256 = 0 ∧ head 4 31 % 256 = typeCode 11) :=
  ⟨wit_vRuns_all _ (by decide), wit_vRuns_all _ (by decide), vRuns_at0 (by decide) lanes_on (by decide +kernel) (by decide), by decide, rfl, rfl,
    by decide +kernel⟩

/-- Register 2 holds mask bytes that are all n. -/
def masksOf (n : Nat) : Tile := { v := [(2, BitVec.ofNat 32768 ((2 ^ 32768 - 1) / 255 * n))] }

theorem wit_movesAndSparsity : VRuns (at0 {} .A) on allLanes [1, 3] ∧ VRuns (at0 {} .A) on allLanes [3] ∧
    VRuns (at0 {} .A) on allLanes [1, 2, 3] ∧ VRuns (at0 {} .A) on allLanes [1, 2, 4, 3] ∧ VRuns (at0 {} .A) on allLanes [1, 3, 2] ∧
    2 ^ (10 : BitVec 8).toNat * tyWidth 2 ≤ 32768 ∧ (1023 : BitVec 12).toNat < 2 ^ 10 ∧
    (let set (n : Nat) : Nat := ((List.range 8).filter fun u => (elemNat 8 (modReg ((masksOf n).readV 2) 0).toNat 0).testBit u).length
     enElem allLanes 8 0 = true ∧ set 7 ≠ 4 ∧ set 0xF0 = 4) :=
  ⟨wit_vRuns_all _ (by decide), wit_vRuns_all _ (by decide), wit_vRuns_all _ (by decide), wit_vRuns_all _ (by decide),
    wit_vRuns_all _ (by decide), by decide, by decide, by decide +kernel⟩

/-! ### Witnesses: rows and queues -/

def isOk {ε α : Type} : Except ε α → Bool
  | .ok _ => true
  | .error _ => false

/-- Entry 4 over one row from row 4 on; over blocks of format .e4m3 from row 4 on with heads from row 8 on; the same with its heads
at the end of the scratchpad, where the second block's does not fit. -/
def oneRow : BitVec 512 := lay 1024 1 256 0 0 0
def blocks4 : BitVec 512 := lay 1024 4096 64 4 1 0 2048
def blocksEnd : BitVec 512 := lay 1024 4096 64 4 1 0 (2 ^ 22 - 2)

theorem at_oneRow : vmAddr (with4 oneRow) {} fVM 0 = .ok 1024 ∧ vmAddr (with4 oneRow) {} fVM 1 = .error (1, 0) ∧
    vmStoreAddr (with4 rows0) {} fVM 0 = .error (3, 0) := by decide +kernel

theorem wit_vectorLoads : Unwatched (with4 oneRow) ∧ VRuns (at0 (with4 oneRow) .L) on allLanes [191] ∧
    laySpace (lay 0 1 1 0 0 2).toNat ≠ 0 ∧ (laySpace oneRow.toNat = 0 ∧ layDesc oneRow.toNat = false) ∧
    (laySpace blocks4.toNat = 0 ∧ layDesc blocks4.toNat = true) ∧ vmCount fVM = 1 ∧ vmCount { fVM with rows := 0 } = 16 ∧
    RowOn allLanes 16 15 ∧
    isOk ((with4 blocksEnd).blockPlan {} blocksEnd.toNat fVM false allLanes) = false ∧
    isOk ((with4 blocks4).blockPlan {} blocks4.toNat fVM false allLanes) = true ∧
    (with4 oneRow).classHold 0 .L 0 = false ∧ (openLoad (with4 oneRow)).classHold 1 .W 0 = true ∧
    VRuns (at0 (with4 oneRow) .L) on allLanes [191, 0] ∧ VRuns (at0 (with4 oneRow) .L) on allLanes [] := by
  refine ⟨unwatched_of ?_, vRuns_at0 ?_ lanes_on ?_ ?_, ?_, ?_, ?_, ?_, ?_, ⟨?_, 63, ?_⟩, ?_, ?_, ?_, ?_, vRuns_at0 ?_ lanes_on ?_ ?_,
    vRuns_at0 ?_ lanes_on ?_ ?_⟩
  all_goals decide +kernel

/-- Their accesses are made when they execute. -/
theorem wit_atOnce : AtOnce (at0 (with4 oneRow) .L) ∧ AtOnce (at0 (with4 rows4) .W) ∧ (at0 (with4 oneRow) .L).issue.eng = .L ∧
    (with4 blocks4).rowsIn = [] ∧ ¬ AtOnce { at0 (with4 rows4) .W with issue := { (at0 (with4 rows4) .W).issue with late := true } } := by
  unfold AtOnce; decide +kernel

/-- A late load of rows that has read none of them: its class is not open, every row it accesses is in the scratchpad, and its first is
the lowest with an enabled lane. -/
theorem wit_vectorLoads_late :
    let s : State := { at0 (with4 oneRow) .L with issue := { eng := .L, late := true } }
    VRuns s on allLanes [191] ∧ (here s).classHold 0 .L 0 = false ∧ (here s).rowsIn = [] ∧ (here s).loadFix = none ∧
    laySpace oneRow.toNat = 0 ∧ layDesc oneRow.toNat = false ∧ vmAddr (here s) s.issue.cap fVM 0 = .ok 1024 ∧ vmCount fVM = 1 ∧
    RowOn allLanes 1 0 := by
  refine ⟨vRuns_at0 (x := with4 oneRow) (e := .L) ?_ lanes_on ?_ ?_, ?_, ?_, ?_, ?_, ?_, ?_, ?_, ⟨?_, 63, ?_⟩⟩
  all_goals decide +kernel

theorem wit_describedBlocks : isOk ((with4 blocks4).blockPlan {} blocks4.toNat fVM true allLanes) = true := by decide +kernel

theorem wit_vectorStores : Unwatched (with4 rows4) ∧ VRuns (at0 (with4 rows4) .W) on allLanes [191] ∧
    VRuns (at0 (with4 rows4) .W) on allLanes [191, 0] ∧ VRuns (at0 (with4 rows4) .W) on allLanes [] ∧
    (laySpace rows4.toNat = 0 ∧ layDesc rows4.toNat = false ∧ vmStoreAddr (with4 rows4) {} fVM 0 = .ok 1024) ∧
    isOk ((with4 blocksEnd).blockPlan {} blocksEnd.toNat fVM true allLanes) = false ∧
    ((with4 rows4).classHold 0 .W 0 = false ∧ (openLoad (with4 rows4)).classHold 1 .W 0 = true) := by
  refine ⟨unwatched_of ?_, vRuns_at0 ?_ lanes_on ?_ ?_, vRuns_at0 ?_ lanes_on ?_ ?_, vRuns_at0 ?_ lanes_on ?_ ?_, ?_, ?_, ?_⟩ <;> decide +kernel

/-- VFEED and SCLD of entry 4, n blocks, into side A. -/
def feed (n : BitVec 8) : FmtVM := { fVM with v := 0, rows := 0, aux := n }

/-- Entry 4 over rows of .f16 elements, of 64-bit ones by a reserved code, and described with no block format. -/
def f16Rows : BitVec 512 := lay 1024 0 1 9 0 0
def badFmt : BitVec 512 := lay 1024 0 1 23 0 0
def noBlock : BitVec 512 := lay 1024 0 1 0 1 0
def described : BitVec 512 := lay 1024 4096 64 4 1 0 2048

theorem wit_feedWords : ERuns (at0 (with4 f16Rows) .L) .L on [] ∧ (with4 f16Rows).lPush = none ∧ Unwatched (with4 f16Rows) ∧
    (laySpace f16Rows.toNat = 0 ∧ layDesc f16Rows.toNat = false ∧ layFmt f16Rows.toNat ≤ 22 ∧ 1 * 4 * streamWidth (layFmt f16Rows.toNat) ≤ 16384) ∧
    22 < layFmt badFmt.toNat ∧ (layDesc noBlock.toNat = true ∧ codeWidth (layFmt noBlock.toNat) = 0) ∧
    isOk ((with4 blocksEnd).feedPlan {} blocksEnd.toNat (feed 2)) = false ∧ isOk ((with4 described).feedPlan {} described.toNat (feed 1)) = true ∧
    vmAddr (with4 described) {} (feed 1) 0 = .ok 1024 ∧ (2 ^ 22 : Nat) ≤ 2 ^ 22 - 2 + 2 * 2 - 1 ∧
    (queueBytes (with4 f16Rows) 2).length + 64 ≤ queueCap 2 ∧
    queueCap 2 < (queueBytes { with4 f16Rows with fifoA := List.replicate 16384 0 } 2).length + 64 ∧
    (let x : Tile := { secs := [secOf .L [vldWord]], lPush := some (0, [0, 0]) }
     x.lPush = some (0, [0, 0]) ∧ (x.nextWord 0 .L).isSome = true ∧ x.quenched = false ∧ x.stop = none) := by
  refine ⟨eRuns_at0 ?_ ?_, rfl, unwatched_of ?_, ?_, ?_, ?_, ?_, ?_, ?_, ?_, ?_, ?_, ?_⟩ <;> decide +kernel

/-! ### Witnesses: the matrix engine -/

theorem wit_matrixWords : ERuns (at0 {} .M) .M on [] ∧ ({} : Tile).mStep = none ∧
    (let s : State := { State.reset with issue := { eng := .M, cap := { regs := [188, 189, 190, 191] } } }
     s.issue.cap.regs = [188, 189, 190, 191] ∧ ERuns s .M on [188, 189, 190, 191]) := by
  refine ⟨eRuns_at0 ?_ ?_, rfl, rfl, rfl, ?_, ?_, ?_⟩
  all_goals first | decide +kernel | (intro n hn; revert n; decide +kernel)

/-- An M section at step 0 of an MMA, or of an MMAS whose metadata is register 30. -/
def mmaWord : Slot := wordOf 4 2 on fMX.toBits
def mmasWord : Slot := wordOf 4 3 on { fMX with reg := 30 }.toBits
def matrixAt (w : Slot) (x : Tile := {}) : Tile := { x with secs := [secOf .M [w]], mStep := some 0 }
def heads (n c : Nat) : List (BitVec 16) := List.replicate n (BitVec.ofNat 16 c)
def payload (n : Nat) : List Byte := List.replicate n 0
def meta30 (n : Nat) : List (Nat × VReg) := [(30, BitVec.ofNat 32768 ((2 ^ 32768 - 1) / 255 * n))]

theorem wit_matrixStep : (matrixAt mmaWord).mStep = some 0 ∧ ((matrixAt mmaWord).nextWord 0 .M).isSome = true ∧
    (mWordOf? mmaWord).isSome = true ∧ (mWordOf? mmasWord).isSome = true ∧ (matrixAt mmaWord).mayRun .M = true ∧
    (matrixAt mmaWord).late = [] ∧ (at0 (matrixAt mmaWord) .M).launchOf 0 = none ∧
    (matrixAt mmasWord { vEmpty := BitVec.ofNat 192 (2 ^ 30) }).emptyV 30 = true ∧
    (let bits8 (n : Nat) : Nat := ((List.range 8).filter fun b => (elemNat 8 ((matrixAt mmasWord { v := meta30 n }).readV 30).toNat 0).testBit b).length
     bits8 0x1F ≠ 4 ∧ bits8 0x0F = 4) ∧
    ((matrixAt mmaWord).sqa.length < 64 ∧ (matrixAt mmaWord { sqb := heads 64 4 }).sqb.length = 64) ∧
    (matrixAt mmaWord { halted := true }).stuckOnM = true ∧ (matrixAt mmaWord { halted := true }).pushMayCome 0 = false ∧
    (checkCodes 0 0 ((heads 64 6).map fun h => h.toNat % 256)).isSome = true ∧
    (checkCodes 0 0 ((heads 64 4).map fun h => h.toNat % 256)) = none ∧
    (payload (64 * 32)).length = 64 * (4 * codeWidth 4) := by decide +kernel

/-! ### Witnesses: sections -/

/-- A tile whose point stands between sections at word address 0, with slots from there on. -/
def codeOf (ws : List Slot) (x : Tile := {}) : Tile :=
  let y := x.fetchReady
  { y with sIn := false, sp := Memory.writeN y.sp 1024 (ws.flatMap bytesOfSlot) }

def hdrA : Header := ⟨2, 5, 1, 255, 255, 255, 255, 255, 0, 0⟩
def hdrAGf : Header := { hdrA with gfence := 1 }
def hdrS : Header := ⟨0, 254, 1, 255, 255, 255, 255, 255, 0, 0⟩
def vtogWord : Slot := wordOf 2 0x4E on (⟨5, 1, 0, 0, 0, 0, 0, 2, 0⟩ : FmtV3).toBits
def atA (x : Tile := {}) : Tile := codeOf [hdrA.toSlot, vaddWord] x

/-- The tile's point stands at that header, as one question. -/
def atHeader (x : Tile) (h : Header) : Bool :=
  (at0 x).sReady 0 && !x.sIn && x.inCode x.pc.toNat &&
    (match decodeHeader (x.slotAt x.pc.toNat) with | .ok g => g == h | .error _ => false) &&
    x.inCode (x.pc.toNat + h.len.toNat) && x.standing.isNone && x.codeOld.isEmpty && (x.breakHit 0 x.pc.toNat).isNone

theorem standsAtHeader_of {x : Tile} {h : Header} (p : atHeader x h = true) : StandsAtHeader (at0 x) 0 h := by
  simp only [atHeader, Bool.and_eq_true, Bool.not_eq_true', Option.isNone_iff_eq_none, List.isEmpty_iff] at p
  obtain ⟨⟨⟨⟨⟨⟨⟨p1, p2⟩, p3⟩, p4⟩, p5⟩, p6⟩, p7⟩, p8⟩ := p
  refine ⟨p1, p2, p3, ?_, p5, p6, p7, p8⟩
  revert p4
  show (match decodeHeader (x.slotAt x.pc.toNat) with | .ok g => g == h | .error _ => false) = true → decodeHeader (x.slotAt x.pc.toNat) = .ok h
  cases decodeHeader (x.slotAt x.pc.toNat) <;> simp

/-- A section of loop record 0 that is three generations behind. -/
def lateSec : Section := { secOf .A [vaddWord] with gens := [(0, 0)] }
def slipping : Tile := atA { ks := [kMake true 1 11 7 3 9], kIds := [0], secs := [lateSec] }

theorem wit_sectionFlow_forward : StandsAtHeader (at0 (atA)) 0 hdrA ∧ 1 ≤ hdrA.eng.toNat ∧ hdrA.eng.toNat ≤ 5 ∧
    (StandsAtHeader (at0 (codeOf [hdrAGf.toSlot, vaddWord] aBusy)) 0 hdrAGf ∧ hdrAGf.gfence = 1 ∧ aBusy.drained = false) ∧
    StandsAtHeader (at0 { atA { ks := [recEntry], kIds := [0] } with stop := some ⟨.preempt, false, none, 0, none, none, none⟩ }) 0 hdrA ∧
    (StandsAtHeader (at0 slipping) 0 hdrA ∧ slipping.slipHold = true) ∧
    (let x := atA { secs := List.replicate 32 (secOf .A [vaddWord]) }
     StandsAtHeader (at0 x) 0 hdrA ∧ x.slipHold = false ∧ x.queueFull .A 1 = true) ∧
    (let x := codeOf [hdrA.toSlot, vldWord]
     StandsAtHeader (at0 x) 0 hdrA ∧ slotClass (x.slotAt 1) ≤ 5 ∧ slotClass (x.slotAt 1) ≠ 2) ∧
    (let x := codeOf [hdrA.toSlot, 0xE00000000000000000000000]
     StandsAtHeader (at0 x) 0 hdrA ∧ 6 ≤ slotClass (x.slotAt 1)) ∧
    (let x := codeOf [hdrA.toSlot, vtogWord] { gEmpty := 32 }
     StandsAtHeader (at0 x) 0 hdrA ∧ vtogTarget (x.slotAt 1) = some 5 ∧ x.emptyG 5 = true) ∧
    (let x := atA
     x.stop = none ∧ x.slipHold = false ∧ x.queueFull .A 1 = false ∧ x.slotAt 1 = vaddWord ∧ decode vaddWord = .ok (.vadd on { fV3 with vc := 0 }) ∧
       captured vaddWord = [] ∧ vtogTarget vaddWord = none) := by
  refine ⟨standsAtHeader_of ?_, ?_, ?_, ⟨standsAtHeader_of ?_, ?_⟩, standsAtHeader_of ?_, ⟨standsAtHeader_of ?_, ?_⟩,
    ⟨standsAtHeader_of ?_, ?_⟩, ⟨standsAtHeader_of ?_, ?_⟩, ⟨standsAtHeader_of ?_, ?_⟩, ⟨standsAtHeader_of ?_, ?_⟩, ?_⟩ <;> decide +kernel

theorem wit_sectionFlow_start :
    (StandsAtHeader (at0 (codeOf [hdrS.toSlot, 0])) 0 hdrS ∧ hdrS.eng = 0 ∧ hdrS.gfence = 0 ∧ ({} : Tile).depsOf hdrS .S = []) ∧
    (let h := { hdrS with gfence := 1 }
     StandsAtHeader (at0 (codeOf [h.toSlot, 0] aBusy)) 0 h ∧ aBusy.drained = false) ∧
    (let x := codeOf [hdrS.toSlot, 0] { ks := [kMake true 1 11 7 2 2], kIds := [0] }
     StandsAtHeader (at0 x) 0 hdrS ∧ ∃ l ks, x.ks = l :: ks ∧ kRec l = true ∧ kIdx l = kLim l) ∧
    (let c := { secOf .A [vaddWord] 1 with started := false, deps := [0] }
     let x : Tile := { secs := [secOf .L [vldWord], c] }
     x.quenched = false ∧ x.stop = none ∧ x.headSec .A = some c ∧ c.started = false ∧ ∃ q ∈ c.deps, x.live q = true) ∧
    (let c := { secOf .A [vaddWord] with started := false }
     ({ secs := [c] } : Tile).headSec .A = some c ∧ ∀ q ∈ c.deps, ({ secs := [c] } : Tile).live q = false) := by
  refine ⟨⟨standsAtHeader_of ?_, ?_⟩, ⟨standsAtHeader_of ?_, ?_⟩, ⟨standsAtHeader_of ?_, _, _, rfl, ?_, ?_⟩, ?_, ?_⟩ <;> decide +kernel

/-! ### Witnesses: the transfer channel -/

/-- An XCOPY of 16 elements of 64 bytes, from entry sl to entry dl. -/
def copyFrom (sl dl : BitVec 512) (sig : BitVec 1 := 0) : FwdWord :=
  ⟨wordOf 5 1 on { fXC with sig := sig, sem := if sig = 1 then 255 else 0 }.toBits, 0, { vals := [0, 0, 0, 0, 16], sl := sl, dl := dl }⟩
def src4 : BitVec 512 := lay 1024 64 2 9 0 0
def dst8 : BitVec 512 := lay 2048 64 2 9 0 0
def cmd (w : FwdWord) : Command := { cslot := 0, word := w, num := 0, tag := 0, seq := 0 }
def ready (w : FwdWord) : Command := { cmd w with accepted := true, count := 16 }
def done (w : FwdWord) : Command := { ready w with done := true }
def chanOf (cs : List Command) (x : Tile := {}) : Tile := { x with chan := cs }

theorem wit_transferIntake : Instr.xcopy on fXC ∈ ([.xcopy on fXC] : List Instr) ∧ (at0 {} .X).issue.eng = .X ∧
    256 ≤ (List.replicate 256 (cmd (copyFrom src4 dst8))).length ∧ ({} : Tile).chan.length < 256 := by decide +kernel

theorem wit_channelEvents_accept :
    (let c := cmd (copyFrom src4 dst8)
     let s := at0 (chanOf [c])
     (s.tile 0).mayAccept = true ∧ (s.tile 0).chan.find? (fun d => !d.accepted && !d.void) = some c ∧ s.acceptHold 0 c = false ∧
       c.acceptCheck s 0 = none ∧ c.countOf = 16) ∧
    (let c := cmd (copyFrom (lay 1024 64 2 0xFF 0 0) dst8)
     (c.acceptCheck (at0 (chanOf [c])) 0).isSome = true) := by decide +kernel

/-- An XMCST whose mask register row is row 8, behind a copy that has row 8 still to write. -/
def castFrom : FwdWord :=
  ⟨wordOf 5 6 on fXC.toBits, 0, { vals := [0, 0, 0, 8, 16], sl := src4, dl := lay 2048 64 2 9 0 1 }⟩

theorem wit_channelEvents_hold : let c := { cmd castFrom with cslot := 1, seq := 1 }
    let s := at0 (chanOf [ready (copyFrom src4 dst8), c])
    (s.tile 0).mayAccept = true ∧ (s.tile 0).chan.find? (fun d => !d.accepted && !d.void) = some c ∧ s.acceptHold 0 c = true := by
  decide +kernel

theorem wit_channelEvents_element : let c := ready (copyFrom src4 dst8)
    let s := at0 (chanOf [c])
    let x := s.tile 0
    x.cmd? 0 = some c ∧ s.mayElement 0 c = true ∧ s.orderHold 0 c = false ∧ c.fn = 1 ∧ c.sub % 2 = 0 ∧ laySpace c.dl ≠ 3 ∧
      layDesc c.sl = false ∧ c.srcAt x 0 c.e = .ok { loc := .sp 0 1024, n := 2 } ∧
      c.dstAt x 0 (layPeer c.dl) c.e = .ok { loc := .sp 0 2048, n := 2 } ∧ 1024 ≤ 2048 ∧ x.copies = [] ∧ Unwatched x := by
  refine ⟨?_, ?_, ?_, ?_, ?_, ?_, ?_, ?_, ?_, ?_, ?_, unwatched_of ?_⟩ <;> decide +kernel

theorem wit_channelEvents_push : let p : List Byte := [1, 2]
    let c := { ready (copyFrom src4 dst8) with held := some { side := 1, head := none, payload := some p } }
    (chanOf [c]).cmd? 0 = some c ∧ (chanOf [c]).quenched = false ∧ (chanOf [c]).xTrapped = false ∧ p.length ≤ 16384 - ({} : Tile).fifoB.length ∧
      16384 - (List.replicate 16383 (0 : Byte)).length < p.length := by decide +kernel

theorem wit_channelEvents_retire :
    (let c := { cmd (copyFrom src4 dst8) with void := true }
     (chanOf [c]).chan = [c] ∧ (chanOf [c]).quenched = false ∧ (chanOf [c]).xTrapped = false ∧ c.void = true) ∧
    (let c := done (copyFrom src4 dst8)
     c.trap = none ∧ c.done = true ∧ c.held = none ∧ c.opsOut = 0 ∧ c.fn ≠ 10 ∧ c.xc.sig = 0) ∧
    (let c := done (copyFrom src4 dst8 1)
     c.void = false ∧ c.xc.sig = 1 ∧ c.xc.sem = 255 ∧ c.fn = 1 ∧ laySpace c.dl ≠ 1 ∧ (sem255 (2 ^ 32 - 2)).sem 255 + 1 < 2 ^ 32 ∧
       2 ^ 32 ≤ (sem255 (2 ^ 32 - 1)).sem 255 + 1 ∧ (sem255 (2 ^ 32 - 1)).trapAgain 0 .X = false ∧
       ({ sem255 (2 ^ 32 - 1) with stop := trappedTile.stop } : Tile).trapAgain 0 .X = true) ∧
    -- a signal to peer 5, which holds no point of the context
    (let c := done (copyFrom src4 (lay (2048 + 5 * 2 ^ 32) 64 2 9 0 1) 1)
     let s := at0 (chanOf [c] { point := some pt0 })
     c.xc.sig = 1 ∧ c.fn = 1 ∧ laySpace c.dl = 1 ∧ s.sameCtx 0 (layPeer c.dl) = false) ∧
    (let c := { ready (copyFrom src4 dst8) with trap := some (8, 5) }
     let s := withLaunch (at0 (chanOf [c] { point := some pt0 })) ctxLaunch
     (s.tile 0).chan = [c] ∧ c.void = false ∧ (s.tile 0).stop = none ∧ c.opsOut = 0 ∧ c.done = false ∧ (done c.word).done = true ∧
       { c with opsOut := 1 }.opsOut ≠ 0 ∧ s.launchOf 0 = some ctxLaunch ∧ ctxLaunch.ctxVA ≠ 0) := by
  decide +kernel

/-! ### Witnesses: memory -/

/-- Die 0 with what a witness puts on it; an operation on the 4 bytes at address 0. -/
def onDie0 (x : Die) : State := { State.reset with dies := [(0, x)] }
def op0 : WqOp := { tile := 0, cslot := 0, e := 0, pas := [0, 1, 2, 3], ty := 2, op := 0, x := 5, ret := none, slot := 64, q := 0, wid := 0 }

/-- A launch of context 0 that is checkpointed. -/
def hdrCkpt : BitVec 1024 := BitVec.ofNat 1024 (2 ^ (64 * 11 + 32) + 0x40000 * 2 ^ (64 * 12))
def ckptLaunch : Launch := { ctxLaunch with hdr := hdrCkpt }

theorem wit_memoryEvents_queues :
    (((onDie0 { faultWait := [(3, [1])] }).die 0).faultWait = [(3, [1])] ∧ TablesOk (onDie0 { faultWait := [(3, [1])] }) ∧
      (let s := { State.reset with dies := [(0, { faultWait := [(3, [1])] }), (1, { faultWait := [(2, [1])] })] }
       TablesOk s ∧ ∃ r ∈ (s.die 1).faultWait, ¬ 3 ≤ r.1)) ∧ State.reset.fq.room = false ∧
    ({ base := 0, en := true, lg := 6 } : Ring).room = true ∧
    (let c := { ready (copyFrom src4 dst8) with stalled := some (1, 0), rewalk := true }
     let c1 := { c with stalled := none, rewalk := false }
     let s := at0 (chanOf [c])
     let s1 := s.setTile 0 ((s.tile 0).setCmd c1)
     (s.tile 0).cmd? 0 = some c ∧ c.stalled ≠ none ∧ c.rewalk = true ∧ s1.mayElement 0 c1 = true ∧ s1.orderHold 0 c1 = false) ∧
    (let s := onDie0 { wqIn := [op0] }
     (s.die 0).wqIn[0]? = some op0 ∧ op0.pas.Nodup ∧ op0.pas ≠ [] ∧ op0.ret = none ∧ s.launch? op0.slot = none ∧
       (s.die 0).wqIn.take 0 = [] ∧ op0.cut = false) ∧
    -- an operation sent before die 0's cut that arrives after die 16's
    (let o := { op0 with cut := true }
     let s := { onDie0 { wqIn := [o] } with cuts := [{ die := 16, scyc := 0 }] }
     (s.die 0).wqIn[0]? = some o ∧ (s.cut? 16).isSome = true) ∧
    64 * (12 * 2 ^ 30 - 1) + 64 ≤ 768 * 2 ^ 30 ∧ 768 * 2 ^ 30 ≤ 64 * (12 * 2 ^ 30) := by unfold TablesOk; decide +kernel

theorem wit_memoryEvents_errors :
    (withLaunch State.reset ctxLaunch).launch? 0 = some ctxLaunch ∧ ctxLaunch.checkpointed = false ∧ ckptLaunch.checkpointed = true ∧
    (let s := withLaunch (at0 { point := some pt0, sIn := true }) ctxLaunch
     s.launchOf 0 = some ctxLaunch ∧ (s.tile 0).sIn = true ∧ (s.tile 0).halted = false) ∧
    (let s := withLaunch (at0 (atA { point := some pt0 })) ctxLaunch
     s.launchOf 0 = some ctxLaunch ∧ (s.tile 0).sIn = false ∧ (s.tile 0).headerAtPC = some hdrA) ∧
    (let s := withLaunch (at0 { aBusy with point := some pt0 }) ctxLaunch
     s.launchOf 0 = some ctxLaunch ∧ ((s.tile 0).nextWord 0 .A).isSome = true) ∧
    (let s := { onDie0 { shootPend := true } with ctl := { shootBusy := true } }
     s.ctl.shootBusy = true ∧ (s.die 0).shootPend = true ∧ s.opsFrom 0 = false ∧ Assoc.wf Tile.idle s.tiles = true ∧
       Assoc.wf Die.idle s.dies = true) ∧
    (onDie0 { shootPend := true, wqIn := [op0] }).opsFrom 0 = true := by decide +kernel

/-- Context 1's one page, of 64 KiB at VA 0, through three tables; with flag 16 its bytes are the host's. -/
def desc1 : List Byte := toBytes 8 (0x10000 + 1) ++ zeros 24 ++ toBytes 8 1 ++ zeros 24
def hostPage (flags : Nat) : List Host.Cell :=
  Memory.writeLE (Memory.writeLE (Memory.writeLE (Memory.writeN [] 64 desc1) 0x10000 8 0x20001) 0x20000 8 0x30001) 0x30000 8
    (1 + 2 + 4 + 8 + flags)
def ctx1Hdr : BitVec 1024 := BitVec.ofNat 1024 (2 ^ (64 * 13))
def ctx1Pt : Point := { slot := 64, hdr := ctx1Hdr, col := 0, z := 0, home := 0, started := true }
def hostCopy : Command := ready (copyFrom (lay 0 64 2 9 0 2) dst8)
def hostReader : State := { at0 (chanOf [hostCopy] { point := some ctx1Pt }) with mem := hostPage 16 }

theorem wit_memoryEvents_timeout : (hostReader.tile 0).cmd? 0 = some hostCopy ∧ hostReader.mayElement 0 hostCopy = true ∧
    hostReader.orderHold 0 hostCopy = false ∧
    (((hostReader.element 0 hostCopy true).tile 0).cmd? 0).bind (fun c => c.susp.map fun q => q.kind) = some 5 := by decide +kernel

/-- Link 17 up to module 3. -/
def linked : State := { State.reset with ctl := { links := [(17, BitVec.ofNat 17 (2 ^ 16 + 3))] } }

theorem wit_memoryEvents_remote : (Assoc.get 0 17 linked.ctl.links).getLsbD 16 = true ∧ 768 * 2 ^ 30 - 1 + [(0 : Byte)].length ≤ 768 * 2 ^ 30 ∧
    768 * 2 ^ 30 < 768 * 2 ^ 30 + 1 := by decide

/-! ### Witnesses: host access and control space -/

/-- Master 1 reaches context 1, whose VA 0 is module memory; whose page migrates. -/
def bar2Ctx1 (flags : Nat) : State := { State.reset with mem := hostPage flags, ctl := { bar2Ctx := [(1, 1)] } }

theorem wit_hostAccess_bar2 :
    (Tab.get? 1 (State.reset.die (hostDie 0)).descs = none ∧ (State.reset.die (hostDie 0)).tlbAt 1 0 = none) ∧
    1 ≤ 1 ∧ [(1 : Byte)] ≠ [] ∧ 2 ^ 36 - 1 + [(1 : Byte)].length ≤ 2 ^ 36 ∧
    (2 ^ 36 - 1) / 4096 = (2 ^ 36 - 1 + [(1 : Byte)].length - 1) / 4096 ∧ State.reset.ctl.replayMode = 0 ∧
    ({ State.reset with wiping := true }).wiping = true ∧ (State.reset.wiping = false ∧ State.reset.posted = []) ∧
    (({ State.reset with ctl := { bar2Ctx := [(1, 1)] } }).hostXlate 1 0 .write).2 = .error 1 ∧
    (match ((bar2Ctx1 32).hostXlate 1 0 .write).2 with | .ok l => pteMig l.pte | .error _ => false) = true ∧
    (match ((bar2Ctx1 0).hostXlate 1 5 .write).2 with | .ok l => !pteMig l.pte && l.place 5 == .mem 5 | .error _ => false) = true ∧
    (match (State.reset.hostXlate 0 5 .write).2 with | .ok l => !pteMig l.pte && l.place 5 == .mem 5 | .error _ => false) = true ∧
    State.reset.mustHold 1 = false ∧ ((State.reset.hostXlate 0 5 .read).1.readPlace (.mem 5) 1).isSome = true ∧
    ({ State.reset with posted := [⟨1, 0, [0], 1, 0, false, 0⟩], hostNum := 1 }).mustHold 1 = true := by decide +kernel

/-- Context 1's page is module 3's: with no link that is up, with one, and a BAR4 write that is held with nothing before it. -/
theorem wit_hostAccess_far :
    (let s := bar2Ctx1 (16 + 3 * 2 ^ 40 + 0xFE * 2 ^ 56)
     (match (s.hostXlate 1 5 .write).2 with | .ok l => !pteMig l.pte && l.place 5 == .far 3 5 | .error _ => false) = true ∧
     s.linkTo 3 = false ∧ s.wiping = false ∧ s.posted = [] ∧ (s.hostXlate 1 5 .read).1.readPlace (.far 3 5) 1 = none) ∧
    (let i := Instr.bar4Write 0 0 [1, 0, 0, 0] [true, true, true, true]
     let s := { State.reset with heldQ := [(0, i)] }
     s.heldQ[0]? = some (0, i) ∧ s.unacked (writerOf i) 0 = false ∧ (∀ p ∈ s.heldQ.take 0, writerOf p.2 ≠ writerOf i)) := by decide +kernel

theorem wit_hostAccess_bar4 : 2 ≤ 2 ∧ 0xDFFFC % 4 = 0 ∧ 0xDFFFC < 0xE0000 ∧ State.reset.mustHold 2 = false ∧
    (State.reset.tile 895).waiters = [] ∧ 2 ^ 20 - 1 + 1 ≤ 2 ^ 20 ∧
    (let h : List (Nat × Instr) := [(0, .submit 1 0), (1, .submit 1 64), (2, .claim 0)]
     let s := { State.reset with heldQ := h }
     s.heldQ[0]? = some (0, .submit 1 0) ∧ s.heldQ[1]? = some (1, .submit 1 64) ∧ writerOf (.submit 1 0) = 1 ∧
       (∀ p ∈ s.heldQ.take 2, writerOf p.2 ≠ writerOf (.claim 0)) ∧ isDoorbell (.claim 0) = false ∧ s.noRoom (.claim 0) = false ∧
       isDoorbell (.submit 1 0) = true ∧ s.unacked 1 0 = false) ∧
    ({ State.reset with posted := [⟨1, 0, [0], 1, 0, false, 0⟩] }).unacked 1 1 = true := by decide +kernel

/-- The module with a control register file. -/
def ctlOf (c : Ctl) : State := { State.reset with ctl := c }

theorem wit_controlCommands_owner :
    (Passes State.reset 0 ∧ State.reset.ctl.owner = 255) ∧ (Passes (ctlOf { owner := 1 }) 256) ∧
    ((ctlOf { owner := 1, claimCyc := some 0 }).ctl.claimCyc = some (State.reset.scyc) ∧ 0 < (ctlOf { owner := 1, claimCyc := some 0 }).ctl.owner.toNat) ∧
    OwnedWrite 1 (.temper 1 5) ∧ ({ State.reset with heldQ := [(0, .submit 1 0)] }).heldBy 1 = true ∧ validMaster 1 = true ∧
    (Passes (ctlOf { recovery := true }) 1 ∧ (ctlOf { recovery := true }).subQ.length < 256) ∧
    (Passes (ctlOf { owner := 0 }) 1 ∧ (ctlOf { owner := 0 }).ctl.owner.toNat ≠ 1) ∧
    Owns (ctlOf { owner := 1 }) 1 ∧ Owns State.reset 256 ∧ validMaster 255 = false ∧ validMaster 256 = true := by
  unfold Owns Passes OwnedWrite
  refine ⟨?_, ?_, ?_, ⟨5, 0, .fq, ?_⟩, ?_, ?_, ?_, ?_, ?_, ?_, ?_, ?_⟩ <;> decide +kernel

theorem wit_controlCommands_rest :
    (State.reset.subQ.length < 256 ∧ 256 ≤ ({ State.reset with subQ := List.replicate 256 (0, 0) }).subQ.length) ∧
    (State.reset.runsLaunches = true ∧ (ctlOf { lcState := 3 }).runsLaunches = false) ∧
    (0x4000000000000000 : W64).getLsbD 62 = true ∧ (ctlOf { shootBusy := true }).ctl.shootBusy = true ∧
    (0x8000000000000000 : W64).getLsbD 63 = true ∧ (0x0000000000080000 : W64).toNat / 2 ^ 18 % 4 = 2 ∧
    ((State.reset.tile 0).suspended 0).isNone = true ∧ (State.reset.savedCmd 0 0).isNone = true ∧
    (let l := { ctxLaunch with pts := [{ col := 0, z := 0, home := 0, place := .parked 0 }] }
     let m := Memory.writeLE (Memory.writeLE [] (l.recVA 0 + 40) 8 1) (l.recVA 0 + 0x100000 + 192) 8 (2 ^ 49)
     ({ withLaunch State.reset l with mem := m }).savedCmd 0 0 = some (0, 0)) ∧
    (let c := { ready (copyFrom src4 dst8) with susp := some ⟨1, 0, 0, 0, 0⟩ }
     ((chanOf [c]).suspended 0).isSome = true) ∧
    State.reset.launch? 63 = none ∧ (withLaunch State.reset ctxLaunch).launch? 0 = some ctxLaunch ∧ ctxLaunch.ctxVA ≠ 0 ∧
    ctxLaunch.state = 1 ∧ ({ ctxLaunch with state := 2 } : Launch).state = 2 ∧ ({ ctxLaunch with state := 3 } : Launch).state = 3 ∧
    (withLaunch State.reset ctxLaunch).recTrapped ctxLaunch 0 = false ∧
    (let l := { ctxLaunch with ntrap := 1, pts := [{ col := 0, z := 0, home := 0, place := .trapped 0 }] }
     let s := { withLaunch State.reset l with mem := Memory.writeLE [] (l.recVA 0 + 8) 1 1 }
     (∃ p ∈ l.pts, p.place = .trapped 0) ∧ s.recTrapped l 0 = true ∧ s.launch? 0 = some l ∧ s.readVA 0 (l.recVA 0 + 8) 1 = some [1] ∧
       (s.writeVA (s.logOf 0) 0 (l.recVA 0 + 8) [0]).isSome = true ∧
       -- a checkpointed launch whose dies have no room in their undo logs
       (let u := { withLaunch s { l with hdr := hdrCkpt } with dies := (List.range 8).map fun d => (d, { undoUsed := 2 ^ 32 - 1 }) }
        u.writeVA (u.logOf 0) 0 (l.recVA 0 + 8) [0] = none)) ∧
    State.reset.ctl.lcState ≠ 3 ∧ (ctlOf { lcState := 3 }).ctl.lcState = 3 := by decide +kernel

theorem wit_controlRegisters : Owns (ctlOf { owner := 1 }) 1 ∧ (State.reset.ring .fq).en = false ∧
    ({ State.reset with rl := { en := true } }).rl.en = true ∧ 7 < 8 ∧ (24 ≤ 248 ∧ 248 < 256 ∧ 248 % 8 = 0 ∧ 0x5004 % 8 ≠ 0 ∧ [(0 : Byte)].length ≠ 8) ∧
    (∀ p ∈ (State.reset.die 7).acnt, p.2.toNat / 2 ^ 48 < 1) ∧ (ctlOf { quenchBusy := true }).ctl.quenchBusy = true ∧
    (ctlOf { blazeEn := 1 }).ctl.blazeEn = 1 ∧ rowAt 1 0x10 5 = some (.handover 1 5) ∧ Passes State.reset 2 ∧
    State.reset.ctl.recovery = false := by
  unfold Owns Passes; decide +kernel

/-! ### Witnesses: launches and points -/

/-- Memory with a graph node at address 0 whose first 8 bytes are these. -/
def nodeMem (w0 : Nat) : List Host.Cell := Memory.writeLE [] 0 8 w0
def nodeState (w0 : Nat) (x : Tile := {}) : State := { at0 x with mem := nodeMem w0 }

/-- A frontier launch of 2 columns and 3 advances, at most 4 tiles, with a context area; checkpointed; and one of a work list. -/
def hdrFront : BitVec 1024 :=
  BitVec.ofNat 1024 (2 ^ 14 + 4 * 2 ^ 24 + (2 + 2 ^ 17 + 3 * 2 ^ 34) * 2 ^ 128 + 0x40000 * 2 ^ (64 * 12))
def hdrFrontCk : BitVec 1024 := BitVec.ofNat 1024 (hdrFront.toNat + 2 ^ (64 * 11 + 32))
def hdrWork : BitVec 1024 := BitVec.ofNat 1024 (1 + 2 ^ 14 + 2 * 2 ^ 24 + 0x40000 * 2 ^ (64 * 12))
def frontLaunch : Launch := { ctxLaunch with hdr := hdrFront }
def workLaunch : Launch := { ctxLaunch with hdr := hdrWork }
def onePt (p : PtPlace) : LPoint := { col := 0, z := 0, home := 0, place := p }
def frontPt (started : Bool) : Point := { slot := 0, hdr := hdrFront, col := 0, z := 0, home := 0, started := started }

theorem wit_launchWord_node : SRuns (at0 {}) on [5] ∧ aBusy.settled = false ∧ ({} : Tile).settled = true ∧ (at0 {}).nodeAt 0 1 = none ∧
    ((nodeState 6).nodeAt 0 0).map (fun w => w.toNat % 16) = some 6 ∧
    ((nodeState 5).nodeAt 0 0).map (fun w => (w.toNat % 16, w.toNat / 2 ^ 16 % 2 ^ 16)) = some (5, 0) ∧
    ((nodeState 0x20005).nodeAt 0 0).map (fun w => (w.toNat % 16, w.toNat / 2 ^ 16 % 2 ^ 16)) = some (5, 2) ∧
    (let s := withLaunch (nodeState 0x20005 { point := some pt0 }) ckptLaunch
     s.launchOf 0 = some ckptLaunch ∧ ckptLaunch.checkpointed = true ∧ (s.tile 0).markWait ≠ 2) ∧
    (nodeState 0x20005).launch? 64 = none ∧ (nodeState 0x20005).launchOf 0 = none ∧
    ((nodeState 0x20005).applyDec ⟨0, 0, 0, 1, 0, none⟩).isSome = true :=
  ⟨sRuns_at0 (by decide) (by decide), by decide +kernel, by decide +kernel, by decide +kernel, by decide +kernel, by decide +kernel,
    by decide +kernel, by decide +kernel, rfl, rfl, by decide +kernel⟩

theorem wit_launchWord_decrement :
    (((nodeState 0x20001).nodeAt 0 0).map (fun w => (w.toNat % 16, w.toNat / 2 ^ 16 % 2 ^ 16)) = some (1, 2) ∧
      ((nodeState 0x20001).writeVA none 0 2 (toBytes 2 1)).isSome = true ∧ 0 ≠ 1) ∧
    (((nodeState 0x10001).nodeAt 0 0).map (fun w => (w.toNat % 16, w.toNat / 2 ^ 16 % 2 ^ 16)) = some (1, 1) ∧
      ((nodeState 0x10001).writeVA none 0 2 (toBytes 2 0)).isSome = true) ∧
    (0x201 / 2 ^ 8 % 2 ^ 8 ≤ 6 ∧ State.reset.wordVA 0 0 = some 0 ∧ (nodeState 1).wordVA 0 0 = some 1 ∧ 0x201 % 16 = 1) ∧
    0x604 % 16 = 4 ∧ 0x605 % 16 = 5 ∧
    (State.reset.wiping = false ∧ State.reset.launch? 63 = none ∧
      ({ State.reset with readyQ := [ctxLaunch] } : State).readyQ = [] ++ ctxLaunch :: []) := by decide +kernel

/-- The first of two columns done once, so that the next point is column 1's first. -/
def halfway : Launch := { frontLaunch with cols := [(0, 1)] }

/-- Where a launch of two columns finds its next point depends on no more than the parity of where the search starts. -/
theorem nextPoint_two {l : Launch} (h : l.ncol = 2) (start : Nat) : l.nextPoint start = l.nextPoint (start % 2) := by
  have hw : ∀ w, l.window start w = l.window (start % 2) w := fun w => by
    unfold Launch.window
    rw [h]
    exact List.map_congr_left fun i _ => by omega
  simp only [Launch.nextPoint, hw]

theorem wit_pointEvents_firePoint (s : State) (start : Nat) : s.firePoint frontLaunch start = some (0, 0) := by
  have h := nextPoint_two (l := frontLaunch) (by decide +kernel) start
  have hf : s.firePoint frontLaunch start = frontLaunch.nextPoint start := by
    unfold State.firePoint
    rw [show frontLaunch.refirePoint = none by decide +kernel]
    exact if_neg (by decide +kernel)
  rw [hf, h]
  rcases Nat.mod_two_eq_zero_or_one start with e | e <;> rw [e] <;> decide +kernel

/-- A launch of 65 columns finds another first point where its search starts behind the first column. -/
def wide : Launch := { ctxLaunch with hdr := BitVec.ofNat 1024 (2 ^ 14 + 4 * 2 ^ 24 + (65 + 2 ^ 17 + 3 * 2 ^ 34) * 2 ^ 128) }

theorem wit_pointEvents_fire :
    (frontLaunch.nextPoint 0 = some (0, 0) ∧ halfway.nextPoint 1 = some (1, 0) ∧ ({ frontLaunch with cols := [(0, 3), (1, 3)] } : Launch).nextPoint 0 = none ∧
      wide.ncol = 65 ∧ wide.nextPoint 0 = some (0, 0) ∧ wide.nextPoint 1 = some (1, 0)) ∧
    (let s := withLaunch State.reset frontLaunch
     s.launch? 0 = some frontLaunch ∧ s.wiping = false ∧ frontLaunch.isList = false ∧ frontLaunch.live = true ∧
       s.firePoint frontLaunch 0 = some (0, 0) ∧ frontLaunch.replay = 0 ∧ frontLaunch.needTiles ≤ (s.freeTiles 0).length ∧ s.nextSlot = some 0 ∧
       s.isFree 0 895 = true ∧ 0 - colH (frontLaunch.col 0) ≤ 7) ∧
    (let l : Launch := { frontLaunch with hdr := BitVec.ofNat 1024 (hdrFront.toNat + 896 * 2 ^ 14) }
     (withLaunch State.reset l).freeTiles 0 ≠ [] ∧ ((withLaunch State.reset l).freeTiles 0).length < l.needTiles ∧ (withLaunch State.reset l).firePoint l 0 = some (0, 0)) ∧
    (let s := withLaunch State.reset workLaunch
     workLaunch.isList = true ∧ workLaunch.started = false ∧ workLaunch.live = true ∧ workLaunch.mint ≤ (s.freeTiles 0).length ∧
       s.nextSlot = some 0 ∧ [3, 7].length = min workLaunch.maxt (s.freeTiles 0).length ∧ (∀ k ∈ [3, 7], s.isFree 0 k = true) ∧ [3, 7].Nodup) ∧
    (let l : Launch := { workLaunch with hdr := BitVec.ofNat 1024 (hdrWork.toNat + 896 * 2 ^ 14) }
     l.isList = true ∧ ((withLaunch State.reset l).freeTiles 0).length < l.mint) := by decide +kernel

theorem wit_pointEvents_run :
    (let s := withLaunch (at0 { point := some (frontPt false) }) frontLaunch
     (s.tile 0).point = some (frontPt false) ∧ s.mayStart (frontPt false) = true ∧ (s.tile 0).quenched = false ∧
       (s.tile 0).stop = none ∧ s.launch? 0 = some frontLaunch) ∧
    (let l := { frontLaunch with pts := [onePt (.onTile 0)] }
     let s := withLaunch (at0 { point := some (frontPt true), halted := true }) l
     (s.tile 0).point = some (frontPt true) ∧ (s.tile 0).halted = true ∧ (s.tile 0).settled = true ∧ (s.tile 0).stop = none ∧
       (s.tile 0).quenched = false ∧ s.launch? 0 = some l ∧ l.replay = 0 ∧ l.isList = false ∧
       ((l.dropTile 0).setCol 0 (recordDone (l.col 0) 0)).allDone = false ∧
       -- both columns at 2, and the last point of column 0 completing on a launch whose column 1 is done
       (let m := { l with cols := [(0, 2), (1, 3)], pts := [{ onePt (.onTile 0) with z := 2 }] }
        let d := (m.dropTile 0).setCol 0 (recordDone (m.col 0) 2)
        d.allDone = true ∧ d.pts = [] ∧ d.checkpointed = false ∧ { d with hdr := hdrFrontCk }.checkpointed = true)) ∧
    (let l := { workLaunch with pts := [onePt (.onTile 0), onePt (.onTile 1)] }
     l.isList = true ∧ (l.dropTile 0).pts ≠ []) ∧
    (colH (0 : BitVec 64) + 8 < 2 ^ 24 ∧ colH (0 : BitVec 64) ≤ 0 ∧ 7 ≤ colH (0 : BitVec 64) + 7) ∧
    (let l := { workLaunch with started := true, pts := [onePt (.onTile 0)] }
     let s := withLaunch (at0 { (({} : Tile).setWait .S 6) with point := some { pt0 with hdr := hdrWork } }) l
     s.launch? 0 = some l ∧ l.isList = true ∧ l.started = true ∧ l.cleared = false ∧ l.cntA = l.cntC ∧ s.inFlight 0 = 0 ∧
       (∀ p ∈ l.pts, s.quiet p = true) ∧ l.idle < 2 ^ 20 ∧ 2 ^ 20 ≤ { l with idle := 2 ^ 20 }.idle ∧
       (withLaunch s { l with idle := 2 ^ 20 }).deadlocked { l with idle := 2 ^ 20 } = true) := by decide +kernel

theorem noReplay_done (s : State) (k : Nat) (l : Launch) (h : s.launchOf k = some l) (r : l.replay = 0) :
    NoReplay { s with issue := { s.issue with tile := k } } := by
  intro m hm
  have : s.launchOf k = some m := hm
  rw [h] at this
  cases this; exact r

def savedOk : Saved → Bool
  | .ok _ => true
  | _ => false
def savedFault : Saved → Bool
  | .fault => true
  | _ => false

/-- A trapped point of a launch whose record can be written, and one whose area lies outside memory; a point being pre-empted. -/
def trapLaunch (h : BitVec 1024) : Launch := { ctxLaunch with hdr := h, pts := [onePt (.onTile 0)] }
def stopped (w : StopWhy) (tr : Bool) (h : BitVec 1024) : State :=
  withLaunch (at0 { point := some { frontPt true with hdr := h }, stop := some ⟨w, tr, none, 0, none, none, none⟩, ran := true }) (trapLaunch h)
def hdrOut : BitVec 1024 := BitVec.ofNat 1024 (hdrFront.toNat + 2 ^ (64 * 12 + 56))

theorem wit_preemptionEvents_save :
    (withLaunch State.reset frontLaunch).saveSet 0 frontLaunch = none ∧ frontLaunch.state ≠ 2 ∧
    (stopped .trap true hdrFront).saveSet 0 (trapLaunch hdrFront) = some [0] ∧ (stopped .preempt false hdrFront).saveSet 0 (trapLaunch hdrFront) = some [0] ∧
    (stopped .trap true hdrOut).saveSet 0 (trapLaunch hdrOut) = some [0] ∧ savedFault ((stopped .trap true hdrOut).savePoints 0 [0]) = true ∧
    ((stopped .trap true hdrFront).tile 0).runsPoint = true ∧ { frontLaunch with dying := some 1 }.dying ≠ none ∧
    -- a launch being parked whole, with nothing left on a tile and with a point at rest
    (let l := { frontLaunch with state := 2 }
     (withLaunch State.reset l).saveSet 0 l = some []) ∧
    (let l := { trapLaunch hdrFront with state := 2 }
     let s := withLaunch (stopped .park false hdrFront) l
     s.saveSet 0 l = some [0] ∧ s.parkedQ.length + s.stopping.length + (s.runningOf 0).length ≤ 16384) := by decide +kernel

theorem wit_preemptionEvents_record :
    (let s := withLaunch (at0 { point := some (frontPt false) }) (trapLaunch hdrFront)
     s.launch? 0 = some (trapLaunch hdrFront) ∧ (s.tile 0).unstarted = true) ∧ ((stopped .preempt false hdrFront).tile 0).unstarted = false ∧
    (stopped .preempt false hdrFront).logOf 0 = none ∧ (trapLaunch hdrFront).freeIdx [] = 0 ∧
    savedOk ((stopped .preempt false hdrFront).putRecord 0 (trapLaunch hdrFront) none 0) = true := by decide +kernel

theorem wit_preemptionEvents_frontier :
    savedOk ((withLaunch State.reset frontLaunch).saveFront 0) = true := by decide +kernel

def parkedLaunch : Launch := { frontLaunch with pts := [onePt (.parked 0)] }
def parked : State := { withLaunch State.reset parkedLaunch with parkedQ := [(0, 0)] }

theorem wit_preemptionEvents_restore :
    parked.parkedQ[0]? = some (0, 0) ∧ parked.launch? 0 = some parkedLaunch ∧ parked.wiping = false ∧ parked.markPhase ≠ 2 ∧
    parkedLaunch.live = true ∧ parkedLaunch.refirePoint = none ∧ (∀ p ∈ parked.parkedQ.take 0, p.1 ≠ 0) ∧ parkedLaunch.replay = 0 ∧
    parked.freeTiles 0 ≠ [] ∧ parked.nextSlot = some 0 ∧ parkedLaunch.hasParked = true ∧ parked.isFree 0 5 = true ∧
    parkedLaunch.pts.find? (fun p => p.place == .parked 0) = some (onePt (.parked 0)) ∧ parked.liveMap parkedLaunch = some 0 ∧
    parked.mapped 0 (parkedLaunch.recVA 0) recBody .read = true ∧
    (parkedLaunch.savedRows 0).all (fun r => parked.mapped 0 (parkedLaunch.recVA 0 + recRow r) 256 .read) = true := by decide +kernel

/-- A checkpointed launch with no point, being marked. -/
def marked : State := { withLaunch State.reset { ckptLaunch with hdr := hdrFrontCk } with markPhase := 1 }

theorem wit_preemptionEvents_mark :
    ({ marked with wiping := true }).wiping = true ∧ (∀ p ∈ State.reset.launches, p.2.dying = none) ∧
    State.reset.ckptSlots = [] ∧ marked.wiping = false ∧ marked.ckptSlots = [0] ∧ marked.markPhase = 1 ∧ marked.ckptGangs = [] ∧ marked.markReady = true ∧
    (let p := ckptLaunch
     let s := withLaunch (at0 { point := some { pt0 with hdr := hdrCkpt }, quenched := true }) p
     { s with markPhase := 1 }.ckptSlots = [0] ∧
       ({ s with markPhase := 1 }.askAll .mark (s.ckptTiles.filter fun k => (s.tile k).runsPoint)).markReady = false) ∧
    ((marked.markSave marked.ckptSlots).bind State.markSaved).isSome = true := by decide +kernel

/-- A gang of three: its rank 0, and a member; and a checkpointed launch of a gang that has started. -/
def gangOf (rank phase : Nat) : Gang := { gang := 7, rank := rank, nmem := 3, hdrVA := 0, gdone := 64, ctx := 0, phase := phase }
def ganged (g : Gang) : State := { State.reset with gangs := [(7, g)] }
def gangRun (rank : Nat) (ph : Nat) : State := { marked with gangs := [(7, { gangOf rank 2 with slot := some 0 })], markPhase := ph }

theorem wit_gangEvents :
    State.reset.gang? 7 = none ∧ (ganged (gangOf 0 1)).gang? 7 = some (gangOf 0 1) ∧ (gangOf 0 1).gang = 7 ∧
    (gangOf 0 0).phase = 0 ∧ (gangOf 0 0).rank = 0 ∧ 7 ∉ (ganged (gangOf 1 0)).prepHeld ∧ 7 ∈ ({ ganged (gangOf 1 0) with prepHeld := [7] }).prepHeld ∧
    1 ≤ 2 ∧ 2 < (gangOf 0 1).nmem ∧ (gangOf 1 1).rank ≠ 0 ∧ (gangOf 1 1).phase ≤ 1 ∧ 2 ≠ (gangOf 1 1).rank ∧
    (gangRun 0 1).gang? 7 = some { gangOf 0 2 with slot := some 0 } ∧ ((gangRun 0 1).launch? 0).isSome = true ∧
    (∃ h ∈ (gangRun 1 0).ckptGangs, h.gang = 7) ∧ (gangRun 1 0).markPhase = 0 ∧ (gangRun 1 1).markPhase ≠ 0 ∧
    ({ gangOf 0 2 with marking := true }).marking = true ∧ (gangRun 1 2).markEnd.isSome = true ∧
    (∃ r, r < 3 ∧ r ∉ [0, 1]) ∧ (∀ r, r < 3 → r ∈ [0, 1, 2]) ∧ (∃ g ∈ (gangRun 1 0).ckptGangs, g.rank ≠ 0) := by
  refine ⟨?_, ?_, ?_, ?_, ?_, ?_, ?_, ?_, ?_, ?_, ?_, ?_, ?_, ?_, ?_, ?_, ?_, ?_, ?_, ⟨2, ?_, ?_⟩, ?_, ?_⟩ <;> decide +kernel

/-- A descriptor at address 0 of gang 7: n members, this one of rank r, its member list at va. -/
def described' (n r va : Nat) : State := { State.reset with mem := Memory.writeLE (Memory.writeLE [] 0 8 (7 + n * 2 ^ 16 + r * 2 ^ 32)) 16 8 va }

/-- Descriptors with 1, 2 and 4,097 members, with a rank out of range, with a list that cannot be read; an abort before and after the
header is known. -/
theorem wit_gangEvents_described :
    ((described' 2 1 64).readVA 0 0 64).isSome = true ∧ ((described' 1 0 64).gangAt 0 0).isNone = true ∧
    ((described' 4097 0 64).gangAt 0 0).isNone = true ∧ ((described' 2 2 64).gangAt 0 0).isNone = true ∧
    ((described' 2 1 (768 * 2 ^ 30)).readVA 0 (768 * 2 ^ 30) 4).isNone = true ∧ ((described' 2 1 64).gangAt 0 0).map Gang.rank = some 1 ∧
    (gangOf 1 1).slot = none ∧ (gangOf 1 1).done = none ∧ (State.reset.readVA 0 0 128).isSome = true ∧
    ({ gangOf 1 1 with done := some (0, 64) }).done = some (0, 64) := by decide +kernel

/-! ### Witnesses: debugging, the life of the module, reset -/

theorem wit_debugEvents_quench :
    (let s := { at0 {} with quenchAt := [(0, 0)] }
     (∃ c : W64, (0, c) ∈ s.quenchAt ∧ c.toNat ≤ s.scyc.toNat) ∧ s.resultDue 0 = false) ∧
    ({ at0 { inflight := [inFlightOf .longLat 3 1] } with quenchAt := [(0, 0)] }).resultDue 0 = true ∧
    State.reset.quenchAt = [] ∧ State.reset.ctl.temperAt = none ∧ (ctlOf { temperAt := some 1 }).scyc.toNat < (1 : W64).toNat ∧
    (let s := { at0 { quenched := true } with mem := [(0, 1)], ctl := { temperAt := some 0 } }
     s.ctl.temperAt = some 0 ∧ (0 : W64).toNat ≤ s.scyc.toNat ∧ 0 ∈ s.maskTiles ∧ 0 ∉ s.blazeThaw ∧ (s.tile 0).quenched = true) := by
  refine ⟨⟨⟨0, ?_, ?_⟩, ?_⟩, ?_, ?_, ?_, ?_, ?_⟩ <;> decide +kernel

/-- A word of engine A with a row of v2 to write, a store on its way to row 5, and results due in known and in unknown cycles, at
an edge; a compute die that a marker has reached. -/
def lateRow : LateWord := { eng := .A, seq := 0, tag := 0, addr := 3, due := 0, flags := 8, outs := [.vrow 2 15 7, .prow 3 0 5] }
def rowOut5 : RowOut := { pos := 2, cls := 1, eng := .W, seq := 0, tag := 0, addr := 4, due := 0, at_ := 1280, bytes := [(9, true), (8, false)] }
def unfinished : Tile := { late := [lateRow], rowsOut := [rowOut5], inflight := [{ inFlightOf .longLat 4 with due := 9 }] }
def edgeState : State := { at0 unfinished with quenchAt := [(0, 0)] }

theorem wit_debugEvents_edge : edgeState.cutsDue = [] ∧ edgeState.resultDue 0 = false ∧ (edgeState.tile 0).quenched = false ∧
    (edgeState.tile 0).toServe = [] ∧
    (∃ w ∈ (edgeState.tile 0).late, ∃ n b v, RegOut.vrow n b v ∈ w.outs) ∧ rowOut5 ∈ (edgeState.tile 0).rowsOut ∧
    (let s := { State.reset with cutsDue := [(2, 7, true, [0])] }
     s.quenchAt = [] ∧ s.cutsDue = [(2, 7, true, [0])] ∧ 2 < 16 ∧ s.dieDue 2 = false) ∧
    (let s := { at0 { inflight := [inFlightOf .longLat 3 1] } with cutsDue := [(0, 7, false, [16])] }
     ∃ c ∈ s.cutsDue, s.dieDue c.1 = true) := by
  refine ⟨?_, ?_, ?_, ?_, ⟨lateRow, ?_, 2, 15, 7, ?_⟩, ?_, ?_, ⟨(0, 7, false, [16]), ?_, ?_⟩⟩ <;> decide +kernel

theorem wit_lateWritesFollow :
    (let x := unfinished
     x.quenched = false ∧ x.late.find? (fun w => w.eng == .A) = some lateRow ∧ lateRow.outs[0]? = some (.vrow 2 15 7) ∧
       lateRow.outs[1]? = some (.prow 3 0 5) ∧ 1 < lateRow.outs.length) ∧
    (let w := { lateRow with outs := [.acc 3 1] }
     ({ late := [w] } : Tile).late.find? (fun w => w.eng == .A) = some w ∧ w.outs[0]? = some (.acc 3 1) ∧ w.outs.length = 1) ∧
    (let x : Tile := { rowsOut := [rowOut5, rowOut5] }
     x.rowsOut[1]? = some rowOut5 ∧ ∃ q ∈ x.rowsOut.take 1, q.cls = rowOut5.cls) ∧
    (unfinished.rowsOut[0]? = some rowOut5 ∧ ∀ q ∈ unfinished.rowsOut.take 0, q.cls ≠ rowOut5.cls) ∧
    unfinished.inflight.any (unfinished.owes .A) = false ∧
    (let x := { unfinished with inflight := [inFlightOf (.entry 4) 4 7] }
     x.inflight.any (x.owes .A) = true) ∧
    (let r := { rowOut5 with bytes := List.replicate 128 (3, true), mask := some 5 }
     ({ rowsOut := [r] } : Tile).rowsOut[0]? = some r ∧ r.mask = some 5 ∧ r.bytes.length = 128 ∧ rowOut5.mask = none) := by
  refine ⟨?_, ?_, ⟨?_, rowOut5, ?_, ?_⟩, ?_, ?_, ?_, ?_⟩ <;> decide +kernel

theorem wit_debugEvents_results :
    (∀ k ∈ [InKind.longLat, .mdrain, .vtog, .entry 3, .entry 4, .entry 5, .entry 6],
      let x : Tile := { inflight := [inFlightOf k 3 1] }
      x.inflight[0]? = some (inFlightOf k 3 1) ∧ x.quenched = false ∧ (inFlightOf k 3 1).rem ≠ 0 ∧
        (inFlightOf k 3 1).rem ≤ (at0 x).scyc.toNat + 1) ∧
    (at0 {}).scyc.toNat + 1 < (inFlightOf .longLat 3 2).rem ∧ (inFlightOf .longLat 3 0).rem = 0 := by decide +kernel

/-- A blaze whose first cut the IO die has taken; its marker reaches transfer die 16 over link 24. -/
def blazing (cs : List BlazeCut) : State := { State.reset with ctl := { blazeEn := 1 }, cuts := cs }
def cutAt (d : Nat) (seen : List Nat) : BlazeCut := { die := d, scyc := 0, num := 3, seen := seen }

theorem wit_debugEvents_blaze :
    State.reset.ctl.blazeEn ≠ 1 ∧ (blazing []).ctl.blazeEn = 1 ∧ linkEnd 16 24 = some (some 24) ∧ linkEnd 0 0 = some (some 16) ∧
    linkEnd 24 24 = some (some 16) ∧ (blazing []).cut? 24 = none ∧
    (blazing [cutAt 24 []]).cut? 24 = some (cutAt 24 []) ∧ (blazing [cutAt 24 []]).cut? 16 = none ∧ (blazing [cutAt 24 []]).dieDue 16 = false ∧
    (blazing [cutAt 24 [], cutAt 16 [16]]).cut? 16 = some (cutAt 16 [16]) ∧ 24 ∉ (cutAt 16 [16]).seen ∧
    (let s := blazing [cutAt 24 [], cutAt 16 [24]]
     s.cut? 16 = some (cutAt 16 [24]) ∧ s.cut? 0 = none ∧ s.cutsDue = []) := by decide +kernel

theorem wit_lifeCycle :
    State.reset.on = true ∧ ({ State.reset with wiping := true }).wiping = true ∧ State.reset.wiping = false ∧
    ({ State.reset with on := false }).on = false ∧ 24 ≤ 24 ∧ 24 < 25 ∧ (ctlOf { hot := true }).ctl.hot = true ∧
    State.reset.ctl.hot = false ∧ State.reset.ctl.clkMHz.toNat ≤ 1250 ∧ 17 ≤ 17 ∧ State.reset.ctl.attestPA = none ∧
    (ctlOf { attestPA := some 0xBFFFFFFE00 }).ctl.attestPA = some 0xBFFFFFFE00 ∧ (0xBFFFFFFE00 : W64).toNat + 512 ≤ 768 * 2 ^ 30 ∧
    ({ State.reset with quenchAt := [(0, 0)] }).dueNow = true ∧
    (let s := at0 { point := some pt0, perfSel := 1 }
     s.dueNow = false ∧ s.graphQ = [] ∧ s.subQ = [] ∧ s.blazeThaw = [] ∧ (s.tile 0).point ≠ none ∧ (s.tile 0).quenched = false ∧
       (s.tile 1).toServe = [] ∧ (Tile.idle).toServe = [] ∧ ({ (s.tile 0) with quenched := true }).quenched = true ∧
       (s.tile 0).perfSel.toNat / 2 ^ (8 * 0) % 256 = 1 ∧ Assoc.wf Tile.idle s.tiles = true ∧ Assoc.wf Die.idle s.dies = true) := by
  decide +kernel

/-- The forms hold at reset, and of the state a step starts from that gives a next state. -/
theorem wit_formsKept : MemoriesOk haltNext ∧ TablesOk haltNext ∧
    (match step haltNext with | .next _ => true | _ => false) = true := by
  unfold MemoriesOk TablesOk; decide +kernel

/-! ### Witnesses: elements of move commands -/

/-- What ElementGoes asks of the first command of tile 0, watchpoints aside, as one question. -/
def elementGoes (s : State) (c : Command) : Bool :=
  (s.tile 0).cmd? 0 == some c && s.mayElement 0 c && !s.orderHold 0 c && (s.tile 0).copies.isEmpty && (s.logOfTile 0).isNone &&
    s.replayOf 0 == 0 && (List.range 4).all fun n => !((s.tile 0).readDbg (4 + n)).testBit 63

theorem elementGoes_of {s : State} {c : Command} (p : elementGoes s c = true) : ElementGoes s 0 0 c := by
  simp only [elementGoes, Bool.and_eq_true, beq_iff_eq, Bool.not_eq_true', List.isEmpty_iff, Option.isNone_iff_eq_none] at p
  obtain ⟨⟨⟨⟨⟨⟨p1, p2⟩, p3⟩, p4⟩, p5⟩, p6⟩, p7⟩ := p
  exact ⟨p1, p2, p3, unwatched_of p7, p4, p5, p6⟩

/-- What Performs asks of accesses: they translate, to rows or module memory on pages that are not counted, no byte is written twice and
none in rows 0 to 3; with the sizes of the writes. -/
def performs (s : State) (c : Command) (reads writes : List Machine.Acc) (sizes : List Nat) (tol : Bool := false) : Bool :=
  let near (y : Touched) : Bool := y.counts == [] && (!tol || y.tol) && y.spots.all fun p => match p with
    | .sp _ a n => a + n ≤ 2 ^ 22
    | .at (.mem pa) n => pa + n ≤ 768 * 2 ^ 30
    | .at _ _ => false
  let kc : XCtx := { t := 0, c := c, e := c.e }
  match touchAll kc reads s with
  | (s1, .ok rs) => match touchAll kc writes s1 with
    | (_, .ok ys) => (rs ++ ys).all near && decide (ys.flatMap cellsOf).Nodup && (ys.map fun y => (cellsOf y).length) == sizes &&
        writes.all fun w => match w.loc with | .sp _ a => 1024 ≤ a | .va _ => true
    | _ => false
  | _ => false

/-- The bytes that the reads of a command give. -/
def readOf (s : State) (c : Command) (reads : List Machine.Acc) : List (List Byte) :=
  match touchAll { t := 0, c := c, e := c.e } reads s with
  | (_, .ok rs) => rs.map fun y => (cellsOf y).map (cellOf s)
  | _ => []

/-- The accesses of a command's element perform, with the sizes of its writes. -/
def accsPerform (s : State) (c : Command) (sizes : List Nat) : Bool :=
  match (c.withIx (s.tile 0) c.e).accs (s.tile 0) 0 c.e with
  | .ok (r, w) => performs s c r w sizes
  | .error _ => false

/-- An X word of function fn with its entries and values, at element e; tile 0 with it, tiles 1 and 2 holding points of its context. -/
def xWord (fn : Nat) (sl dl : BitVec 512) (vals : List W64 := [0, 0, 0, 0, 4]) (var : BitVec 4 := 0) (sub : BitVec 5 := 0) : FwdWord :=
  ⟨wordOf 5 fn on { fXC with var := var, sub := sub }.toBits, 0, { vals := vals, sl := sl, dl := dl, seed := 5 }⟩
def xCmd (w : FwdWord) (e : Nat := 0) (count : Nat := 4) : Command := { cmd w with accepted := true, vtile := some 0, count := count, e := e }
def xState (c : Command) (sp : List Host.Cell := []) (mem : List Host.Cell := []) : State :=
  { at0 (chanOf [c] { point := some pt0, sp := sp }) with
    tiles := [(0, chanOf [c] { point := some pt0, sp := sp }), (1, { point := some pt0 }), (2, { point := some pt0 })], mem := mem }
def elementOk (c : Command) (sizes : List Nat) : Bool := elementGoes (xState c) c && accsPerform (xState c) c sizes

/-- Entry of a peer tile. -/
def onPeer (n base fmt desc : Nat) (hbase : Nat := 0) : BitVec 512 := lay (base + n * 2 ^ 32) 64 (if desc = 1 then 64 else 4) fmt desc 1 hbase
def blocks5 : BitVec 512 := lay 1024 64 64 5 1 0 8192

/-- Copies from memory to a row, to memory, from tile to tile, of a block, of half bytes; a gather and a scatter by stride and by index; a
transposition; a conversion; a multicast; a reduction and an atomic with its return on rows. -/
theorem wit_channelEvents_plain :
    (∀ p ∈ ([(xCmd (xWord 1 (lay 64 64 2 9 0 2) dst8), [2]), (xCmd (xWord 1 src4 (lay 192 64 2 9 0 2)) 1, [2]),
        (xCmd (xWord 1 (onPeer 1 1024 9 0) (onPeer 2 2048 9 0)) 2, [2]), (xCmd (xWord 1 blocks5 (lay 4096 64 64 5 1 0 9000)), [64, 2]),
        (xCmd (xWord 1 (lay 1024 64 1 15 0 0) (lay 2048 64 1 15 0 0)) 1, [1])] : List (Command × List Nat)), elementOk p.1 p.2 = true) ∧
    (∀ p ∈ ([(xCmd (xWord 2 (lay 64 64 2 9 0 2) dst8 [0, 0, 0, 0, 4] 0 3) 1, [2]), (xCmd (xWord 3 src4 (lay 64 64 2 9 0 2) [0, 0, 0, 0, 4] 0 3) 1, [2]),
        (xCmd (xWord 2 (lay 64 64 2 9 0 2) dst8 [0, 6, 0, 0, 4] 8), [2]), (xCmd (xWord 4 src4 (onPeer 1 2048 9 0)), [2])] :
        List (Command × List Nat)), elementOk p.1 p.2 = true) ∧
    elementOk (xCmd (xWord 5 (lay 1024 512 4 10 0 0) (lay 3072 64 64 5 1 0 9000) [0, 0, 0, 0, 4] 4) 1) [64, 2] = true ∧
    elementOk { xCmd (xWord 6 src4 (onPeer 0 2048 9 0)) with mask := [1, 2] } [2, 2] = true ∧
    elementOk (xCmd (xWord 7 (lay 1024 64 4 2 0 0) (lay 2048 64 4 2 0 0) [0, 0, 0, 0, 4] 1 1)) [4] = true ∧
    elementOk (xCmd (xWord 8 (lay 1024 64 4 2 0 0) (onPeer 1 2048 2 0) [0, 0, 0, 0, 4] 0 1)) [4, 4] = true := by decide +kernel

/-- To a FIFO, to a scale queue, a block's head and payload, an odd half byte; a conversion to a stream. -/
theorem wit_channelEvents_streams :
    (∀ c ∈ [xCmd (xWord 1 src4 (lay 1 64 2 9 0 3)), xCmd (xWord 1 src4 (lay 2 64 2 9 0 3)), xCmd (xWord 1 blocks5 (lay 0 64 64 5 1 3)),
        xCmd (xWord 1 (lay 1024 64 1 15 0 0) (lay 0 64 1 15 0 3)) 1], elementOk c [] = true) ∧
    elementOk (xCmd (xWord 5 (lay 1024 512 4 10 0 0) (lay 1 64 64 6 1 3)) 1) [] = true := by decide +kernel

/-- On memory: an atomic with its return, and a reduction. -/
theorem wit_channelEvents_atomics :
    (let c := xCmd (xWord 8 (lay 1024 64 4 2 0 0) (lay 0 64 4 2 0 2) [0, 0, 0, 0, 4] 0 1)
     elementOk c [4, 4] = true ∧ (xState c).cuts = []) ∧ elementOk (xCmd (xWord 7 (lay 1024 64 4 2 0 0) (lay 64 64 4 2 0 2)) 1) [4] = true := by
  decide +kernel

/-- A launch of two work lists of 8 items; an XAPND of its tile 0, to itself and to home tile 1. -/
def hdrLists : BitVec 1024 := BitVec.ofNat 1024 (1 + 2 ^ 14 + 2 * 2 ^ 24 + 0x40000 * 2 ^ (64 * 12) + (8 + 2 * 2 ^ 14) * 2 ^ 320)
def appending (c : Command) (count : Nat) (away : Bool := false) : State :=
  let pt (k : Nat) : Point := { pt0 with hdr := hdrLists, home := k }
  let l : Launch := { ctxLaunch with
    hdr := hdrLists, started := true
    pts := [{ col := 0, z := 0, home := 0, place := .onTile 0 }, { col := 0, z := 0, home := 1, place := if away then .parked 0 else .onTile 1 }] }
  { withLaunch State.reset l with
    tiles := [(0, chanOf [c] { point := some (pt 0), wlCount := count }), (1, { point := some (pt 1), wlCount := count })] }

/-- Where the item of an XAPND stands. -/
def itemOf (c : Command) : XLoc := match c.itemAt 0 c.e with | .ok l => l | .error _ => .sp 0 0
def atOk {α ε : Type} (r : Except ε α) : Bool := match r with | .ok _ => true | .error _ => false

/-- With room, full, to a point away. -/
theorem wit_channelEvents_append :
    (∀ p ∈ ([(xCmd (xWord 9 (lay 1024 64 64 9 0 0) (lay 0 64 64 9 0 0)), 0), (xCmd (xWord 9 (lay 64 64 64 9 0 2) (onPeer 1 0 9 0)) 1, 1)] :
        List (Command × Nat)),
      let c := p.1
      let u := p.2
      let s := appending c 7
      elementGoes s c = true ∧ s.appendTo 0 c.word = .tile u ∧ atOk (c.itemAt 0 c.e) = true ∧
        performs s c [⟨itemOf c, 64, .read, 0, none⟩] [] [] = true ∧
        (let y := s.tile u
         y.isList = true ∧ s.sameCtx 0 u = true ∧ y.nwl ≠ 0 ∧ y.wlGone = false ∧ y.wlDone = false ∧ y.wlCount < y.wlCap ∧
           y.wlSlot ((y.wlHead + y.wlCount) % y.wlCap) + 64 ≤ 2 ^ 22 ∧ y.wlCap ≤ ((appending c 8).tile u).wlCount)) ∧
    (let c := xCmd (xWord 9 (lay 1024 64 64 9 0 0) (onPeer 1 0 9 0))
     elementGoes (appending c 0 true) c = true ∧ (appending c 0 true).appendTo 0 c.word = .away) := by decide +kernel

/-- A prefetch; a wait that is not begun, is not served, is served, and of 0; an element whose place is beyond its extent. -/
theorem wit_channelEvents_lists :
    (let c := xCmd (xWord 12 (lay 64 64 2 9 0 2) 0)
     elementGoes (xState c) c = true ∧ c.fn = 12) ∧
    (let c := xCmd (xWord 11 0 0) 0 1
     elementGoes (xState c) c = true ∧ c.fn = 11 ∧ 0 < c.val 4 % 2 ^ 32 ∧ (∀ w ∈ (chanOf [c]).waiters, w.eng ≠ .X) ∧
       ∀ b ∈ [true, false],
         let v : Waiter := { eng := .X, sem := 0, n := 4, start := 0, served := b }
         let s := { xState c with tiles := [(0, chanOf [c] { point := some pt0, waiters := [v] })] }
         elementGoes s c = true ∧ (s.tile 0).waiters.find? (fun w => w.eng == .X) = some v) ∧
    (let c := xCmd (xWord 11 0 0 [0, 0, 0, 0, 0]) 0 1
     elementGoes (xState c) c = true ∧ c.val 4 % 2 ^ 32 = 0) ∧
    (let c := xCmd (xWord 1 (lay 1024 1 2 9 0 0) dst8) 1
     elementGoes (xState c) c = true ∧ c.transforms = false ∧ c.expands = false ∧ c.fn = 1 ∧
       atOk ((c.withIx ((xState c).tile 0) c.e).accs ((xState c).tile 0) 0 c.e) = false) := by decide +kernel

/-- A head and a payload held, for either side, with room and with none. -/
theorem wit_channelEvents_pushes :
    let h : HeldPush := { side := 0, head := some 7, payload := some [1, 2] }
    let c := { ready (copyFrom src4 dst8) with held := some h }
    (∀ x ∈ [chanOf [c], chanOf [c] { sqa := List.replicate 1024 0 }, chanOf [c] { fifoA := List.replicate 16383 0 }],
      x.cmd? 0 = some c ∧ x.quenched = false ∧ x.xTrapped = false) ∧ h.side < 2 ∧ { h with side := 1, payload := none }.side < 2 := by
  decide +kernel

/-- The unit of a command at e and the base of dl, where they lie. -/
def unitOf (c : Command) (n : Nat) : XLoc := match c.unitAt 0 n c.e with | .ok l => l | .error _ => .sp 0 0
def baseOf (c : Command) : XLoc := match c.baseAt 0 with | .ok l => l | .error _ => .sp 0 0
def transformGoes (s : State) (c : Command) : Bool := elementGoes s c && s.takeLane 0 c == some c

theorem wit_transferIntake_tables :
    (let h := toBytes 64 (bufHeader 1 1 0 640 1)
     let c := xCmd (xWord 0x13 (lay 1024 64 64 9 0 0) (lay 256 1 64 9 0 2)) 0 1
     let s := xState c (Memory.writeN [] 1024 h)
     transformGoes s c = true ∧ atOk (c.unitAt 0 64 0) = true ∧ atOk (c.baseAt 0) = true ∧ bufValid (ofBytes h) = true ∧
       readOf s c [readAt (unitOf c 64) 64 0] = [h] ∧ performs s c [readAt (unitOf c 64) 64 0] [writeAt (baseOf c) h] [64] = true) ∧
    (let c := xCmd (xWord 0x18 (lay 1024 2 1024 2 0 0) 0 [0, 0, 5, 0, 2]) 1 2
     let s := xState c
     transformGoes s c = true ∧ atOk (c.unitAt 0 1024 c.e) = true ∧ s.lanesOn (s.dieOf 0) = [] ∧
       performs s c [readAt (unitOf c 1024) 1024 0] [] [] = true) ∧
    (let c := { xCmd (xWord 0x19 (lay 1024 64 1 0 0 0) (lay 2048 64 1 0 0 0)) 1 with tab := some 0 }
     let s := xState c
     transformGoes s c = true ∧ c.e < c.count ∧ atOk (c.unitAt 0 1 c.e) = true ∧ readOf s c [readAt (unitOf c 1) 1 0] = [[0]] ∧
       (laneByte [] 0 0 1025 c.lane).isSome = true ∧ atOk (xAt 0 c.dl 1 (c.co 2 + 16)) = true) ∧
    (let c := { xCmd (xWord 0x19 (lay 1024 64 1 0 0 0) (lay 2048 64 1 0 0 0)) 4 with tab := some 0 }
     transformGoes (xState c) c = true ∧ c.count ≤ c.e ∧ atOk (xAt 0 c.dl 1 (c.co 2 + 15)) = true) := by decide +kernel

/-- An XCOMP of 256 bytes with codec k, at e. -/
def packing (k e : Nat) (bytes : W64 := 256) : Command :=
  { xCmd (xWord 0x10 (lay 1024 64 64 9 0 0) (lay 256 1 64 9 0 2) [0, 0, 0, 0, bytes] (BitVec.ofNat 4 (4 * k + 1))) e (bytes.toNat / 64) with outPos := 128 }

/-- Of nothing; a line of codec 0; the first of a frame of codec 1, and its last, of 256 zero bytes. -/
theorem wit_transferIntake_compress :
    (transformGoes (xState (packing 0 0 0)) (packing 0 0 0) = true ∧ (packing 0 0 0).count = 0) ∧
    (∀ c ∈ [packing 0 1, packing 1 0, packing 1 3], transformGoes (xState c) c = true ∧ atOk (c.baseAt 0) = true ∧ c.count = 4 ∧
      atOk (c.unitAt 0 64 c.e) = true ∧ performs (xState c) c [readAt (unitOf c 64) 64 0] [] [] = true) ∧
    (packing 1 3).codec = 1 ∧ encodeFrame 1 0 [] 0 (List.replicate 4 (zeros 64, 0)) = some (2, []) := by decide +kernel

/-- A tolerant buffer at VA 0x1000 of context 1, its blocks all equal, its references and its candidates as given. -/
def tolHead : Nat := bufHeader 0 0 0 640 0 + 2 ^ 44 + 2 ^ 256 * (4 + 10 * 2 ^ 16) + 2 ^ 384 * 1024 + 2 ^ 448 * 1200
def merging (ref1 ref3 cand : Nat) : State :=
  let c := xCmd (xWord 0x11 0 (lay 0x1000 1 64 9 0 2) [0, 0, 1, 0, 4])
  let m := Memory.writeN (hostPage 128) 0x1000 (toBytes 64 tolHead)
  let m := Memory.writeN (Memory.writeN m 0x1404 (toBytes 4 ref1)) 0x140C (toBytes 4 ref3)
  { xState c [] (Memory.writeN m 0x14B0 (toBytes 4 cand)) with tiles := [(0, chanOf [c] { point := some ctx1Pt })] }
def mergeReads (k : Nat) (cand : Nat) : List Machine.Acc :=
  [readAt (.va 0x1000) 64 1, readAt (.va 0x1404) 4 1, readAt (.va 0x1080) 64 1, readAt (.va 0x14B0) 4 1,
    readAt (.va (0x1400 + 4 * cand)) 4 1, readAt (.va (0x1040 + 64 * cand)) 64 1].take k

/-- A block that has a reference; one with no candidate; with a candidate that has one; with one that has none. -/
theorem wit_transferIntake_merge :
    let free := 0xFFFFFFFF
    let c := xCmd (xWord 0x11 0 (lay 0x1000 1 64 9 0 2) [0, 0, 1, 0, 4])
    bufValid tolHead = true ∧ bufTol tolHead = true ∧ tolSum (bufTfmt tolHead) (zeros 64) % 1024 = 0 ∧ bufBase 0 c.dl = .va 0x1000 ∧
    (∀ p ∈ ([(5, 0, 0, 2), (free, 0, free, 4), (free, 5, 3, 5), (free, free, 3, 6)] : List (Nat × Nat × Nat × Nat)),
      let s := merging p.1 p.2.1 p.2.2.1
      elementGoes s c = true ∧ performs s c (mergeReads p.2.2.2 p.2.2.1) [] [] true = true ∧
        ((readOf s c (mergeReads p.2.2.2 p.2.2.1)).map ofBytes).take 6 =
          [tolHead, p.1, 0, p.2.2.1, p.2.1, 0].take p.2.2.2) := by decide +kernel

/-- A block that an XSNAP appends, and its last step. -/
theorem wit_transferIntake_snap :
    (let c := xCmd (xWord 0x12 (lay 0 2 4096 9 0 2) (lay 0x10000 1 64 9 0 2) [0, 0x8000, 0, 0, 2]) 1 2
     elementGoes (xState c) c = true ∧ atOk (c.baseAt 0) = true ∧ c.e < c.count ∧ atOk (c.unitAt 0 4096 c.e) = true) ∧
    (let c := xCmd (xWord 0x12 (lay 0 2 4096 9 0 2) (lay 0x10000 1 64 9 0 2) [0, 0x8000, 0, 0, 2]) 2 2
     elementGoes (xState c) c = true ∧ c.count ≤ c.e) := by decide +kernel

/-- A plain buffer of codec 0 at VA 0x1000, and a tolerant one whose block 0 has a reference. -/
def expanding (h : Nat) (dl : BitVec 512) : State :=
  let c := xCmd (xWord 1 (lay 0x1000 64 2 9 0 2) dl [0, 0, 0, 0, 4] 0 1)
  xState c [] (Memory.writeN (Memory.writeN [] 0x1000 (toBytes 64 h)) 0x1400 [3])

theorem wit_transferIntake_expand :
    ∀ p ∈ ([(dst8, bufHeader 0 0 0 640 0, []), (dst8, tolHead, [readAt (.va 0x1400) 4 0]), (lay 1 64 2 9 0 3, bufHeader 0 0 0 640 0, [])] :
        List (BitVec 512 × Nat × List Machine.Acc)),
      let c := xCmd (xWord 1 (lay 0x1000 64 2 9 0 2) p.1 [0, 0, 0, 0, 4] 0 1)
      let s := expanding p.2.1 p.1
      transformGoes s c = true ∧ c.expands = true ∧ bufValid p.2.1 = true ∧ expandBad c p.2.1 0 = none ∧ c.ref = none ∧
        s.racing 0 c p.2.1 0 = false ∧ readOf s c [readAt (.va 0x1000) 64 0] = [toBytes 64 p.2.1] ∧
        performs s c (readAt (.va 0x1000) 64 0 :: p.2.2 ++ [readAt (.va 0x1040) 64 0]) [] [] = true := by decide +kernel

/-! ### Witnesses: what operations, the launch processor and records do -/

/-- An operation whose command hears of it and takes the value that stood there; one of a checkpointed launch, whose line is not in the
undo log, is, and finds the log full; a host's write that is to be walked again behind none and behind an earlier one, to no page, to a
page that migrates, to module memory, and to a module that no link reaches. -/
theorem wit_memoryEvents_operations :
    (let c := { xCmd (xWord 8 (lay 1024 64 4 2 0 0) (lay 0 64 4 2 0 2) [0, 0, 0, 0, 4] 0 1) 1 with opsOut := 1 }
     let o := { op0 with slot := 0, ret := some (0, 1028) }
     let s := { xState c with dies := [(0, { wqIn := [o] })] }
     (s.die 0).wqIn[0]? = some o ∧ heardBy s o = some c ∧ s.logOf o.slot = none ∧ s.launch? 0 = none) ∧
    (let st (x : Die) : State := { withLaunch State.reset ckptLaunch with dies := [(0, { x with wqIn := [{ op0 with slot := 0 }], undoBase := 0x100000 })] }
     (st {}).logOf 0 = some 0 ∧ (∀ a ∈ op0.pas, a / 64 = 0) ∧ dieOfLine 0 = 0 ∧ ckptLaunch.replay = 0 ∧ ckptLaunch.dying = none ∧
       0 ∉ ((st {}).die 0).undoLines ∧ 0 ∈ ((st { undoLines := [0] }).die 0).undoLines ∧
       2 ^ 30 < ((st { undoUsed := 2 ^ 30 - 64 }).die 0).undoUsed + 72 ∧ 0x100000 + ((st {}).die 0).undoUsed + 72 ≤ 768 * 2 ^ 30) ∧
    (let p (m va : Nat) : Posted := ⟨m, va, [7], 1, va, true, 0⟩
     let at_ (s : State) (va : Nat) : State := { s with posted := [p 1 va] }
     (at_ State.reset 5).posted[0]? = some (p 1 5) ∧ (p 1 5).rewalk = true ∧ (at_ State.reset 5).posted.take 0 = [] ∧
       (let s := { State.reset with posted := [p 1 4, p 1 5] }
        ∃ q ∈ s.posted.take 1, q.m = (p 1 5).m ∧ sameLine q.va q.data.length 5 1 = true) ∧
       atOk (State.reset.hostXlate 1 5 .write).2 = false ∧ atOk ((bar2Ctx1 32).hostXlate 1 5 .write).2 = true ∧
       (match ((bar2Ctx1 32).hostXlate 1 5 .write).2 with | .ok l => pteMig l.pte | .error _ => false) = true ∧
       (match ((bar2Ctx1 0).hostXlate 1 5 .write).2 with | .ok l => !pteMig l.pte && l.place 5 == .mem 5 | .error _ => false) = true ∧
       (match ((bar2Ctx1 (16 + 3 * 2 ^ 40 + 0xFE * 2 ^ 56)).hostXlate 1 5 .write).2 with
         | .ok l => !pteMig l.pte && l.place 5 == .far 3 5
         | .error _ => false) = true) := by
  refine ⟨?_, ?_, ?_, ?_, ?_, ⟨⟨1, 4, [7], 1, 4, true, 0⟩, ?_, ?_, ?_⟩, ?_⟩ <;> decide +kernel

/-- A plain register of control space has no row of its own; its writer is not the owner. -/
theorem wit_controlCommands_plain : [(0 : Byte), 0, 0, 0, 0, 0, 0, 0].length = 8 ∧ (0x1000 : Nat) ≠ 0x18 ∧ (∀ v, rowAt 1 0x1000 v = none) ∧
    Passes (ctlOf { owner := 0 }) 1 ∧ (ctlOf { owner := 0 }).ctl.owner.toNat ≠ 1 ∧ (ctlOf { owner := 0 }).reaches 1 = true ∧
    ({ State.reset with heldQ := [(0, .submit 1 0)] }).heldBy 1 = true := by
  unfold Passes
  exact ⟨rfl, by decide, fun v => by simp [rowAt], by decide +kernel, by decide, by decide +kernel, by decide +kernel⟩

/-- A launch with a point; with an operation on the way; whose word's page migrates; dying. -/
theorem wit_controlCommands_kill :
    (let s := withLaunch (at0 { point := some pt0 }) { ctxLaunch with pts := [onePt (.onTile 0)] }
     s.tilesOf 0 = [0] ∧ s.slotOps 0 = false ∧ ((s.vacateAll (s.tilesOf 0)).writeCompletion ctxLaunch 0 0).isSome = true ∧
       { s with dies := [(0, { wqIn := [{ op0 with slot := 0 }] })] }.slotOps 0 = true) ∧
    (let l : Launch := { ctxLaunch with hdr := BitVec.ofNat 1024 (hdrArea.toNat + 2 ^ (64 * 13)) }
     ((withLaunch (bar2Ctx1 32) l).writeCompletion l 0 0).isNone = true) ∧
    (let l : Launch := { ctxLaunch with dying := some 1, state := 2 }
     (withLaunch State.reset l).launch? 0 = some l ∧ l.dying = some 1 ∧ ((withLaunch State.reset l).writeCompletion l 0 0).isSome = true) := by
  decide +kernel

/-- A completion word that does not translate, on a page that migrates, in module memory, in a host's, on a far page, and of a checkpointed
launch whose undo log is full. -/
theorem wit_launchWord_completion :
    State.reset.mapped 0 (768 * 2 ^ 30) 8 .write = false ∧
    (let leaf (s : State) : Bool × Place := match s.translate 1 0x200 .write with
      | .ok l => (pteMig l.pte, l.place 0x200)
      | .error _ => (false, .far 0 0)
     leaf (bar2Ctx1 32) = (true, .mem 0x200) ∧ leaf (bar2Ctx1 0) = (false, .mem 0x200) ∧ leaf (bar2Ctx1 16) = (false, .host 0 0x200) ∧
       leaf (bar2Ctx1 (16 + 3 * 2 ^ 40 + 0xFE * 2 ^ 56)) = (false, .far 3 0x200)) ∧
    (0x200 % 65536 ≤ 65528 ∧ (bar2Ctx1 0).linkTo 3 = false ∧ 0x200 % 64 ≤ 56) ∧
    (let s := onDie0 { undoUsed := 2 ^ 30 - 71 }
     dieOfLine 8 = 0 ∧ 8 ∉ (s.die 0).undoLines ∧ 2 ^ 30 < (s.die 0).undoUsed + 72) := by decide +kernel

/-- A frontier header and a list header that pass their checks, at 0x1000. -/
def hdrGood : BitVec 1024 := BitVec.ofNat 1024 (hdrFront.toNat + 2 ^ 13 + (1 + 2 * 2 ^ 7 + 2 ^ 42 + 3 * 2 ^ 45) * 2 ^ 64)
def hdrGoodList : BitVec 1024 := BitVec.ofNat 1024 (hdrWork.toNat + 2 ^ 13 + (1 + 2 ^ 17 + 2 ^ 34) * 2 ^ 128)
def withHdr (h : BitVec 1024) : State := { State.reset with mem := Memory.writeN [] 0x1000 (toBytes 128 h.toNat) }

/-- A header that cannot be read, each case of its checks, an image that is not there, no free slot, a launch waiting, a frontier saved. -/
theorem wit_launchWord_submit :
    (State.reset.readVA 0 (768 * 2 ^ 30) 128).isNone = true ∧ ((withHdr hdrGood).readVA 0 0x1000 128).map ofBytes = some hdrGood.toNat ∧
    checkHeader hdrGood 7 = 0 ∧ checkHeader hdrGoodList 7 = 0 ∧
    (let n := hdrGood.toNat
     ∀ p ∈ ([(1, n + 0x7E * 2 ^ 64), (2, n + 6 * 2 ^ 106), (3, hdrFront.toNat), (4, n + 2 ^ 128), (6, n + 5 * 2 ^ 8), (7, n - 2 ^ 14),
         (8, n + (2 ^ 20 + 2 ^ 34) * 2 ^ 256), (9, n + 2 ^ 11), (10, n - 2 ^ 13)] : List (Nat × Nat)), checkHeader (BitVec.ofNat 1024 p.2) 6 = p.1) ∧
    (let h := BitVec.ofNat 1024 (hdrGood.toNat + 768 * 2 ^ 30 * 2 ^ (64 * 7))
     checkHeader h 7 = 0 ∧ (State.reset.readVA 0 (hdrField h 7 0 64) 16384).isNone = true) ∧
    (hdrField hdrGood 7 0 64 = 0 ∧ hdrField hdrGood 8 0 64 = 0 ∧ State.reset.readyQ = [] ∧ State.reset.launch? 0 = none ∧
      State.reset.ctl.replayMode = 0 ∧ ({ ctxLaunch with hdr := hdrGoodList } : Launch).isList = true ∧
      0 < ({ ctxLaunch with hdr := hdrGood } : Launch).ncol ∧ ({ ctxLaunch with hdr := hdrGood } : Launch).extz ≠ 0) ∧
    (let s := { State.reset with launches := (List.range 64).map fun n => (n, ctxLaunch) }
     ∀ n, n < 64 → s.launch? n ≠ none) ∧
    (let l : Launch := { ctxLaunch with hdr := hdrGood, hdrVA := 0x1000 }
     (match ({ withHdr hdrGood with launches := [(0, l)] }).saveFront 0 with
       | .ok u => (u.readVA 0 0x40000 16).map ofBytes == some (0x53465848 + 2 ^ 32 + 0x1000 * 2 ^ 64) && (u.loadFrontier l).isSome
       | _ => false) = true) := by
  decide +kernel

/-- A checkpointed launch with a point on tile 0, one line of whose memory is in die 0's undo log. -/
def toRollBack : State :=
  { withLaunch (at0 { point := some { pt0 with hdr := hdrFrontCk } }) { ckptLaunch with hdr := hdrFrontCk, pts := [onePt (.onTile 0)] } with
    dies := [(0, { undoBase := 0x100000, undoUsed := 72, undoLines := [4] })], mem := Memory.writeLE (Memory.writeLE [] 256 8 5) 0x100000 8 256 }

theorem wit_memoryEvents_rollback : Tab.wf toRollBack.launches = true ∧ toRollBack.ckptSlots = [0] ∧ 0 ∈ toRollBack.tilesOf 0 ∧
    (toRollBack.die 0).undoUsed / 72 = 1 ∧ (∀ d, d < 8 → d ≠ 0 → (toRollBack.die d).undoUsed / 72 = 0) ∧
    toRollBack.wordPA 0x100000 % 2 ^ 40 / 64 = 4 ∧ toRollBack.wordPA 0x100000 % 2 ^ 40 % 64 = 0 ∧ 64 * 4 + 64 ≤ 0x100000 ∧
    -- what is restored: from its start, from a frontier that is there or not, and a list with and without a mark
    frontLaunch.isList = false ∧ frontLaunch.markPts = none ∧ frontLaunch.saved = false ∧ workLaunch.isList = true ∧ workLaunch.markPts = none ∧
    ({ workLaunch with markPts := some [onePt (.parked 1)] }).markPts = some [onePt (.parked 1)] ∧ (State.reset.loadFrontier frontLaunch).isNone = true ∧
    (let l : Launch := { ctxLaunch with hdr := hdrGood, hdrVA := 0x1000, saved := true }
     (match ({ withHdr hdrGood with launches := [(0, l)] }).saveFront 0 with | .ok u => (u.loadFrontier l).isSome | _ => false) = true) := by
  decide +kernel

/-- A launch that completes, whose word is written, and one whose word's page migrates; a list launch's point that stops before it starts. -/
theorem wit_pointEvents_finish :
    ((withLaunch State.reset frontLaunch).writeCompletion frontLaunch 0 2).isSome = true ∧ frontLaunch.gang = none ∧
    (let l : Launch := { ctxLaunch with hdr := BitVec.ofNat 1024 (hdrArea.toNat + 2 ^ (64 * 13)) }
     ((withLaunch (bar2Ctx1 32) l).writeCompletion l 0 2).isNone = true) ∧
    (let p : Point := { pt0 with hdr := hdrLists, started := false }
     let s := withLaunch (at0 { point := some p, stop := some ⟨.preempt, false, none, 0, none, none, none⟩ }) { workLaunch with hdr := hdrLists, started := true }
     (s.tile 0).point = some p ∧ p.started = false ∧ s.mayStart p = true ∧ (s.tile 0).quenched = false ∧ (s.tile 0).isList = true ∧
       (s.launch? p.slot).isSome = true) := by decide +kernel

/-- Five tiles with points of two launches of least priority, and a launch of a higher one. -/
def crowd (ps qs : List LPoint) (queued : Nat := 0) : State :=
  { State.reset with
    launches := [(0, { frontLaunch with pts := ps }), (1, { frontLaunch with pts := qs }), (2, { frontLaunch with hdr := BitVec.ofNat 1024 (hdrFront.toNat + 8) })]
    tiles := (List.range 5).map (fun k => (k, { point := some (frontPt true) })), parkedQ := List.replicate queued (5, 5) }
def ptOn (k o : Nat) : LPoint := { onePt (.onTile k) with ord := o }

/-- Too few free tiles: a launch of a point more than mint, the point placed last; none with more; room for one more in the queue. -/
theorem wit_preemptionEvents_room :
    (let s := crowd [ptOn 1 5, ptOn 3 9] [ptOn 4 7]
     Tab.wf s.launches = true ∧ (s.freeTiles 2).length + s.stopping.length < 1000 ∧ frontLaunch.ctxVA ≠ 0 ∧ frontLaunch.mint = 1 ∧
       frontLaunch.prio < ({ frontLaunch with hdr := BitVec.ofNat 1024 (hdrFront.toNat + 8) } : Launch).prio ∧
       (s.tile 3).stop = none ∧ (s.tile 3).quenched = false ∧ (s.tile 3).parking = false ∧ s.parkedQ.length + s.stopping.length + 1 ≤ 16384) ∧
    (let s := crowd [ptOn 3 9] [ptOn 4 7] 16384
     (s.freeTiles 2).length + s.stopping.length < 1000 ∧ 16384 < s.parkedQ.length + s.stopping.length + 1) ∧
    4 ≤ (State.reset.freeTiles 2).length := by decide +kernel

/-- Points to be parked with room for them and with none; one that a mark has stopped. -/
theorem wit_preemptionEvents_askPark :
    (let s := withLaunch (at0 { point := some (frontPt true) }) { frontLaunch with state := 2, pts := [onePt (.onTile 0)] }
     TablesOk s ∧ s.runningOf 0 = [0] ∧ s.parkedQ.length + s.stopping.length + 1 ≤ 16384 ∧ 16384 < (List.replicate 16384 (0, 0)).length + 0 + 1) ∧
    (let s := withLaunch (at0 { point := some (frontPt true), stop := some ⟨.mark, false, none, 0, none, none, none⟩ })
        { frontLaunch with pts := [onePt (.onTile 0)] }
     (s.tilesOf 0).filter (fun k => (s.tile k).stopsFor .mark) = [0]) := by unfold TablesOk; decide +kernel

/-- A tile in use fits its record and its dump. -/
def inUse : Tile :=
  { g := [(1, 5)], v := [(2, 7)], p := [(1, 3)], layout := [(4, 9)], fifoA := [1], sqa := [2], chan := [ready (copyFrom src4 dst8)]
    secs := [secOf .A [vaddWord]], point := some (frontPt true), sp := [(1024, 1)] }

theorem wit_preemptionEvents_recordFits : TileFits inUse false ∧ TileFits inUse true ∧ Memory.wf inUse.sp = true ∧
    (∀ c ∈ inUse.sp, c.1 < 2 ^ 22) ∧ inUse.flightList.length ≤ 2 ^ 22 ∧ 0x100000 + 20 * 2 ^ 20 ≤ 768 * 2 ^ 30 ∧
    State.reset.liveMap frontLaunch = some 0 ∧ frontLaunch.tctx = 0 ∧ frontLaunch.recVA 0 + 2 ^ 24 ≤ 768 * 2 ^ 30 := by
  refine ⟨⟨?_, ?_, ?_, ?_, ?_, ?_, ?_, ?_, ?_, ?_, ?_, ?_, ?_, ?_, ?_, ?_, ?_⟩, ⟨?_, ?_, ?_, ?_, ?_, ?_, ?_, ?_, ?_, ?_, ?_, ?_, ?_, ?_, ?_, ?_, ?_⟩,
    ?_, ?_, ?_, ?_, ?_, ?_, ?_⟩ <;> decide +kernel

/-- In context 0 a record's bytes lie one behind the other, whatever memory holds. -/
theorem wit_preemptionEvents_recordPlace (v : State) (o : Nat) (h : o < 2 ^ 24) : ∃ f : Leaf, v.translate 0 (frontLaunch.recVA 0 + o) .write = .ok f ∧
    pteMig f.pte = false ∧ f.place ((frontLaunch.recVA 0 + o) % 2 ^ 57) = .mem (frontLaunch.recVA 0 + o) := by
  have hb : frontLaunch.recVA 0 + 2 ^ 24 ≤ 768 * 2 ^ 30 := by decide +kernel
  have hm : (frontLaunch.recVA 0 + o) % 2 ^ 57 = frontLaunch.recVA 0 + o := Nat.mod_eq_of_lt (by omega)
  have hl : frontLaunch.recVA 0 + o < Config.memBytes := by unfold Config.memBytes; omega
  refine ⟨⟨(frontLaunch.recVA 0 + o) / 65536 * 65536 + 0xF, 16, 0⟩, ?_, ?_, ?_⟩
  · simp only [State.translate, hm, if_true, physLeaf, hl]
  · simp only [pteMig, bit, Nat.testBit_eq_decide_div_mod_eq, decide_eq_false_iff_not]; omega
  · rw [hm]
    have hh : pteHost ((frontLaunch.recVA 0 + o) / 65536 * 65536 + 0xF) = false := by
      simp only [pteHost, bit, Nat.testBit_eq_decide_div_mod_eq, decide_eq_false_iff_not]; omega
    simp only [Leaf.place, hh, Bool.not_false, if_true, pteFrame, bits, Place.mem.injEq]
    omega

/-- A gang's member whose header cannot be read, fails, passes; with a candidate; that starts. -/
theorem wit_gangEvents_prepare :
    (let g : Gang := { gangOf 0 0 with hdrVA := 0x1000 }
     g.phase = 0 ∧ g.rank = 0 ∧ g.cand = none ∧ (State.reset.readVA 0 (768 * 2 ^ 30) 128).isNone = true ∧
       (match State.reset.acceptLaunch 0x1000 0 0 0 7 with | .rejected _ => true | _ => false) = true ∧
       (match (withHdr hdrGood).acceptLaunch 0x1000 0 0 0 7 with | .accepted _ _ => true | _ => false) = true) ∧
    (let g : Gang := { gangOf 1 0 with cand := some { ctxLaunch with hdr := hdrGood } }
     7 ∈ ({ ganged g with prepHeld := [7] }).prepHeld ∧ State.reset.launch? 0 = none ∧ ({ ctxLaunch with hdr := hdrGood } : Launch).mint ≤ (State.reset.freeTiles 0).length) ∧
    ((State.reset.freeTiles 0).length < ({ ctxLaunch with hdr := BitVec.ofNat 1024 (hdrGood.toNat + 896 * 2 ^ 14) } : Launch).mint) ∧
    (let l : Launch := { ctxLaunch with hdr := hdrGood, reserved := true, gang := some 7 }
     (withLaunch State.reset l).launch? 0 = some l ∧ l.saved = false ∧ l.isList = false ∧ l.allDone = false ∧ State.reset.ctl.replayMode = 0 ∧
       ({ gangOf 0 1 with slot := some 0 }).slot = some 0) := by decide +kernel

/-- A mark that begins; one whose points are saved, a gang holding it, and none; its end; a member told, and not; a committed member of a
checkpointed launch; an abort whose header cannot be read. -/
theorem wit_gangEvents_mark :
    (let s := withLaunch (at0 { point := some { pt0 with hdr := hdrFrontCk } }) { ckptLaunch with hdr := hdrFrontCk, pts := [onePt (.onTile 0)] }
     TablesOk s ∧ s.ckptSlots = [0] ∧ 0 ∈ s.tilesOf 0 ∧ (s.tile 0).runsPoint = true ∧ Tab.wf s.launches = true ∧ s.markEnd.isSome = true ∧
       (∀ p ∈ s.launches, p.2.held = false ∧ p.2.dying = none ∧ p.2.ending = false ∧ p.2.replay = 0) ∧ s.doneWait = [] ∧ s.resumeWait = []) ∧
    (¬ LetsGo { gangOf 0 2 with marking := true, marked := [1] } ∧ LetsGo { gangOf 0 2 with marking := true, marked := [1, 2] } ∧
      LetsGo { gangOf 1 2 with marking := true, resumed := true } ∧ LetsGo (gangOf 1 2)) ∧
    (gangRun 1 0).markDue = true ∧ ({ gangOf 1 2 with told := true }).told = true ∧ (gangOf 1 2).told = false ∧
    (gangRun 1 2).markPhase = 2 ∧ ckptLaunch.checkpointed = true ∧
    ((∃ g ∈ (gangRun 1 0).ckptGangs, g.rank ≠ 0) ∧ ∀ g ∈ (gangRun 1 0).ckptGangs, g.asked = false) ∧
    (State.reset.readVA 0 (768 * 2 ^ 30) 128).isNone = true := by
  refine ⟨?_, ⟨?_, .inr (.inl ⟨rfl, fun r h1 h2 => ?_⟩), .inr (.inr ⟨?_, rfl⟩), .inl rfl⟩, ?_, ?_, ?_, ?_, ?_, ⟨?_, ?_⟩, ?_⟩
  · unfold TablesOk; decide +kernel
  · rintro (h | ⟨_, h⟩ | ⟨h, _⟩)
    · exact absurd h (by decide)
    · exact absurd (h 2 (by decide) (by decide)) (by decide)
    · exact h rfl
  · change r < 3 at h2; have : r = 1 ∨ r = 2 := by omega
    rcases this with rfl | rfl <;> decide
  all_goals decide +kernel

/-- A marker with an operation ahead of it on its link; a tick with nothing to settle. -/
theorem wit_debugEvents_ahead :
    (let s := { blazing [cutAt 24 []] with dies := [(1, { wqIn := [{ op0 with tile := 0 }] })] }
     s.opsAhead 17 16 = true ∧ linkEnd 17 16 = some (some 16) ∧ (blazing [cutAt 24 []]).opsAhead 17 16 = false) ∧
    (let s := at0 { point := some pt0, perfSel := 1 }
     s.doneWait = [] ∧ s.resumeWait = [] ∧ (∀ p ∈ s.launches, p.2.dying = none ∧ p.2.ending = false)) := by decide +kernel

/-! ### One step of an instruction, against the spec's own tables and examples -/

/-- Tile 0 after an instruction of tile x. -/
def after (i : Instr) (x : Tile := {}) (e : Engine := .S) : Tile :=
  match exec i (at0 x e) with
  | .next t => t.tile 0
  | _ => { trapCause := 0xFFFF }

/-- g1 and g2, and the first 64 bits of v1, v2 and v3. -/
def gs (a b : W64) : Tile := { g := [(1, a), (2, b)] }
def vs (a b c : Nat) : Tile := { v := [(1, BitVec.ofNat 32768 a), (2, BitVec.ofNat 32768 b), (3, BitVec.ofNat 32768 c)] }
def low (n w : Nat) (x : Tile) : Nat := (x.readV n).toNat % 2 ^ w

-- R101: a sum wraps; MULH takes the signed product's high half; SAR fills with the sign
theorem test_add_wraps : (after (.add on fS) (gs (BitVec.allOnes 64) 2)).readG 3 = 1 := by decide +kernel
theorem test_mulh_signed : (after (.mulh on fS) (gs (-3) 2)).readG 3 = BitVec.allOnes 64 ∧
    (after (.mulhn on fS) (gs (-3) 2)).readG 3 = 1 := by decide +kernel
theorem test_sari : (after (.sari on { fS with gb := 0, imm := 4 }) (gs 0x8000000000000000 0)).readG 3 = 0xF800000000000000 := by decide +kernel
-- R102: quotients truncate toward zero, the remainder takes the dividend's sign; a zero divisor traps nothing
theorem test_div_truncates : (after (.div on fS) (gs (-7) 2)).readG 3 = -3 ∧ (after (.rem on fS) (gs (-7) 2)).readG 3 = -1 := by decide +kernel
theorem test_divn_zero : (after (.divn on fS) (gs 9 0)).readG 3 = BitVec.allOnes 64 ∧ (after (.remn on fS) (gs 9 0)).readG 3 = 9 := by
  decide +kernel
-- R103's example: BFX g4, g2, 12, 20 extracts bits 31:12
theorem test_bfx_example : (after (.bfx on { fS0 with gd := 4, ga := 2, imm := 0x50C }) (gs 0 0xABCDE12345678)).readG 4 = 0x12345 := by
  decide +kernel
-- R104: MOVI then MOVHI; here the second on a negative low half
theorem test_movhi_keeps_low : (after (.movhi on { fS0 with gd := 1, imm := 7 }) (gs (-1) 0)).readG 1 = 0x7FFFFFFFF := by decide +kernel
-- R106: the .z compare with a false guard clears both
theorem test_compare_z_void : (after (.cmp off { fS0 with ct := 4, cf := 5, cs := 16 }) { c := 0xFF }).readC 4 = false ∧
    (after (.cmp off { fS0 with ct := 4, cf := 5, cs := 0 }) { c := 0xFF }).readC 4 = true := by decide +kernel
-- R86: a write to g0 is discarded
theorem test_g0_discards : (after (.movi on { fS0 with imm := 5 })).readG 0 = 0 ∧ (after (.movi on { fS0 with imm := 5 })).pc = 1 := by decide +kernel
-- R132, R133: VADD wraps and sets no flag, VADDS clamps and sets sat; VABS of the most negative value; VADDI of a narrow type
theorem test_vadd_wraps : low 3 32 (after (.vadd on { fV3 with vc := 0 }) (vs 0x7FFFFFFF 1 0) .A) = 0x80000000 ∧
    (after (.vadd on { fV3 with vc := 0 }) (vs 0x7FFFFFFF 1 0) .A).fp = 0 := by decide +kernel
theorem test_vadds_clamps : low 3 32 (after (.vadds on { fV3 with vc := 0 }) (vs 0x7FFFFFFF 1 0) .A) = 0x7FFFFFFF ∧
    (after (.vadds on { fV3 with vc := 0 }) (vs 0x7FFFFFFF 1 0) .A).fp ≠ 0 := by decide +kernel
theorem test_vabs_min : low 3 16 (after (.vabs on { fV3 with vb := 0, vc := 0, ty := 0 }) (vs 0xFF80 0 0) .A) = 0x0180 := by decide +kernel
theorem test_vmad_wraps_once : low 3 8 (after (.vmad on { fV3 with vc := 3, ty := 4 }) (vs 16 16 5) .A) = 5 := by decide +kernel
-- R134, R136: 1.5 + 2.25 = 3.75 in .f32; -0 is less than +0, a NaN operand gives the other
theorem test_vfadd : low 3 32 (after (.vfadd on { fV3 with vc := 0, ty := 10 }) (vs 0x3FC00000 0x40100000 0) .A) = 0x40700000 := by decide +kernel
theorem test_vfmin : low 3 64 (after (.vfmin on { fV3 with vc := 0, ty := 10 }) (vs 0x7FC0000000000000 0x3F80000080000000 0) .A) = 0x3F80000080000000 := by
  decide +kernel
-- R135: 2^3 is exact, and the result is in flight until it is written
theorem test_vfexp2_in_flight : (after (.vfexp2 on { fV3 with vb := 0, vc := 0, ty := 10 }) (vs 0x40400000 0 0) .A).emptyV 3 = true ∧
    ((after (.vfexp2 on { fV3 with vb := 0, vc := 0, ty := 10 }) (vs 0x40400000 0 0) .A).inflight.map fun i => i.payload.toNat % 2 ^ 32) = [0x41000000] := by
  decide +kernel
-- R121: TRAP counts as retired, and TRAP_DATA holds its immediate under bit 63
theorem test_trap : (after (.trap on { fS0 with imm := 9 })).pc = 1 ∧
    (after (.trap on { fS0 with imm := 9 })).trapData = 0x8000000000000009 ∧
    (after (.trap on { fS0 with imm := 9 })).stop.isSome = true := by decide +kernel

/-! ### Every word form decodes

One word for each form, its fields laid out by hand from Tables 03-1 to 03-11 with the codes of Tables 03-17 to 03-20. -/

/-- The slot decodes to the instruction. -/
def dec (w : Slot) (i : Instr) : Bool := match decode w with | .ok j => j == i | .error _ => false

theorem test_decode_scalar_wordsa : (
    dec 0x004C49D04F8500000000C000 (.add ⟨49, 2, 7, 4⟩ ⟨4, 62, 5, 0, 1, 1, 0, 0, 0, 0⟩) &&
    dec 0x008C8F9C5F40FFFFFFFB8000 (.addi ⟨50, 3, 14, 7⟩ ⟨5, 61, 0, 4294967291, 1, 0, 0, 0, 0, 0⟩) &&
    dec 0x00CCD1686F0F00000000C000 (.sub ⟨51, 4, 5, 10⟩ ⟨6, 60, 15, 0, 1, 1, 0, 0, 0, 0⟩) &&
    dec 0x010D17347ED4000000008000 (.mul ⟨52, 5, 12, 13⟩ ⟨7, 59, 20, 0, 1, 0, 0, 0, 0, 0⟩) &&
    dec 0x014D58C08E80800000018000 (.muli ⟨53, 6, 3, 0⟩ ⟨8, 58, 0, 2147483649, 1, 0, 0, 0, 0, 0⟩) &&
    dec 0x018D9E8C9E5E000000008000 (.mulh ⟨54, 7, 10, 3⟩ ⟨9, 57, 30, 0, 1, 0, 0, 0, 0, 0⟩) &&
    dec 0x01CDE058AE2300000000C000 (.mulhn ⟨55, 8, 1, 6⟩ ⟨10, 56, 35, 0, 1, 1, 0, 0, 0, 0⟩) &&
    dec 0x020E2624BDE8000000008000 (.div ⟨56, 9, 8, 9⟩ ⟨11, 55, 40, 0, 1, 0, 0, 0, 0, 0⟩) &&
    dec 0x024E6BF0CDAD00000000C000 (.divn ⟨57, 10, 15, 12⟩ ⟨12, 54, 45, 0, 1, 1, 0, 0, 0, 0⟩) &&
    dec 0x028EADBCDD72000000008000 (.rem ⟨58, 11, 6, 15⟩ ⟨13, 53, 50, 0, 1, 0, 0, 0, 0, 0⟩) &&
    dec 0x02CEF348ED3700000000C000 (.remn ⟨59, 12, 13, 2⟩ ⟨14, 52, 55, 0, 1, 1, 0, 0, 0, 0⟩) &&
    dec 0x030F3514FCFC000000008000 (.and ⟨60, 13, 4, 5⟩ ⟨15, 51, 60, 0, 1, 0, 0, 0, 0, 0⟩) &&
    dec 0x034F7AE10C80000000F08000 (.andi ⟨61, 14, 11, 8⟩ ⟨16, 50, 0, 240, 1, 0, 0, 0, 0, 0⟩) &&
    dec 0x038FBCAD1C46000000008000 (.or ⟨62, 15, 2, 11⟩ ⟨17, 49, 6, 0, 1, 0, 0, 0, 0, 0⟩) &&
    dec 0x03CFC6792C000000000F8000 (.ori ⟨63, 1, 9, 14⟩ ⟨18, 48, 0, 15, 1, 0, 0, 0, 0, 0⟩)) = true := by decide +kernel
theorem test_decode_scalar_wordsb : (
    dec 0x041008053BD0000000008000 (.xor ⟨64, 2, 0, 1⟩ ⟨19, 47, 16, 0, 1, 0, 0, 0, 0, 0⟩) &&
    dec 0x04504DD14B805A5A5A5A8000 (.xori ⟨65, 3, 7, 4⟩ ⟨20, 46, 0, 1515870810, 1, 0, 0, 0, 0, 0⟩) &&
    dec 0x0490939D5B5A000000008000 (.andn ⟨66, 4, 14, 7⟩ ⟨21, 45, 26, 0, 1, 0, 0, 0, 0, 0⟩) &&
    dec 0x04D0D5696B1F00000000C000 (.shl ⟨67, 5, 5, 10⟩ ⟨22, 44, 31, 0, 1, 1, 0, 0, 0, 0⟩) &&
    dec 0x05111B357AC00000003F8000 (.shli ⟨68, 6, 12, 13⟩ ⟨23, 43, 0, 63, 1, 0, 0, 0, 0, 0⟩) &&
    dec 0x05515CC18AA900000000C000 (.shr ⟨69, 7, 3, 0⟩ ⟨24, 42, 41, 0, 1, 1, 0, 0, 0, 0⟩) &&
    dec 0x0591A28D9A40000000218000 (.shri ⟨70, 8, 10, 3⟩ ⟨25, 41, 0, 33, 1, 0, 0, 0, 0, 0⟩) &&
    dec 0x05D1E459AA3300000000C000 (.sar ⟨71, 9, 1, 6⟩ ⟨26, 40, 51, 0, 1, 1, 0, 0, 0, 0⟩) &&
    dec 0x06122A25B9C00000003E8000 (.sari ⟨72, 10, 8, 9⟩ ⟨27, 39, 0, 62, 1, 0, 0, 0, 0, 0⟩) &&
    dec 0x06526FF1C9BD00000000C000 (.rol ⟨73, 11, 15, 12⟩ ⟨28, 38, 61, 0, 1, 1, 0, 0, 0, 0⟩) &&
    dec 0x0692B1BDD9400000001F8000 (.roli ⟨74, 12, 6, 15⟩ ⟨29, 37, 0, 31, 1, 0, 0, 0, 0, 0⟩) &&
    dec 0x06D2F749E90700000000C000 (.min ⟨75, 13, 13, 2⟩ ⟨30, 36, 7, 0, 1, 1, 0, 0, 0, 0⟩) &&
    dec 0x07133915F8CC000000008000 (.minn ⟨76, 14, 4, 5⟩ ⟨31, 35, 12, 0, 1, 0, 0, 0, 0, 0⟩) &&
    dec 0x07537EE2089100000000C000 (.max ⟨77, 15, 11, 8⟩ ⟨32, 34, 17, 0, 1, 1, 0, 0, 0, 0⟩) &&
    dec 0x079384AE1856000000008000 (.maxn ⟨78, 1, 2, 11⟩ ⟨33, 33, 22, 0, 1, 0, 0, 0, 0, 0⟩)) = true := by decide +kernel
theorem test_decode_scalar_wordsc : (
    dec 0x07D3CA7A2800000000008000 (.clz ⟨79, 2, 9, 14⟩ ⟨34, 32, 0, 0, 1, 0, 0, 0, 0, 0⟩) &&
    dec 0x08140C0637C0000000008000 (.ctz ⟨80, 3, 0, 1⟩ ⟨35, 31, 0, 0, 1, 0, 0, 0, 0, 0⟩) &&
    dec 0x085451D24780000000008000 (.popc ⟨81, 4, 7, 4⟩ ⟨36, 30, 0, 0, 1, 0, 0, 0, 0, 0⟩) &&
    dec 0x0894979E5740000005288000 (.bfx ⟨82, 5, 14, 7⟩ ⟨37, 29, 0, 1320, 1, 0, 0, 0, 0, 0⟩) &&
    dec 0x08D4D96A6700000005288000 (.bfi ⟨83, 6, 5, 10⟩ ⟨38, 28, 0, 1320, 1, 0, 0, 0, 0, 0⟩) &&
    dec 0x09151F3676C9000000004180 (.sel ⟨84, 7, 12, 13⟩ ⟨39, 27, 9, 0, 0, 1, 0, 6, 0, 0⟩) &&
    dec 0x095560C2F00089ABCDEF0000 (.movi ⟨85, 8, 3, 0⟩ ⟨47, 0, 0, 2309737967, 0, 0, 0, 0, 0, 0⟩) &&
    dec 0x0995A68EF00089ABCDEF0000 (.movhi ⟨86, 9, 10, 3⟩ ⟨47, 0, 0, 2309737967, 0, 0, 0, 0, 0, 0⟩) &&
    dec 0x0A15E858016C0000000073D0 (.cmp ⟨87, 10, 1, 6⟩ ⟨0, 5, 44, 0, 0, 1, 25, 7, 2, 0⟩) &&
    dec 0x0A562E240C80800000008A70 (.cmpi ⟨88, 11, 8, 9⟩ ⟨0, 50, 0, 2147483648, 1, 0, 5, 1, 6, 0⟩) &&
    dec 0x0A9673F00000000E43210140 (.plog ⟨89, 12, 15, 12⟩ ⟨0, 0, 0, 934689, 0, 0, 0, 5, 0, 0⟩) &&
    dec 0x0AD6B5BE1000000000000000 (.pmovPack ⟨90, 13, 6, 15⟩ ⟨33, 0, 0, 0, 0, 0, 0, 0, 0, 0⟩) &&
    dec 0x0AD6FB480840000000018000 (.pmovUnpack ⟨91, 14, 13, 2⟩ ⟨0, 33, 0, 1, 1, 0, 0, 0, 0, 0⟩)) = true := by decide +kernel
theorem test_decode_control_wordsa : (
    dec 0x0C173D17FFFFFFC000000000 (.br ⟨92, 15, 4, 5⟩ ⟨4294967280, 0, 0, 0, 0, 0, 0⟩) &&
    dec 0x0C5746E0000048D009408000 (.brx ⟨93, 1, 11, 8⟩ ⟨4660, 0, 37, 0, 1, 0, 0⟩) &&
    dec 0x0C9788ADFFFFFFFFE0000000 (.call ⟨94, 2, 2, 11⟩ ⟨2147483647, 62, 0, 0, 0, 0, 0⟩) &&
    dec 0x0CD7CE78000000000A408000 (.ret ⟨95, 3, 9, 14⟩ ⟨0, 0, 41, 0, 1, 0, 0⟩) &&
    dec 0x0D18100400120005FFFA3A00 (.lrec ⟨96, 4, 0, 1⟩ ⟨4, 32769, 32766, 35, 5, 0⟩) &&
    dec 0x0D5855D00000000000000000 (.loop ⟨97, 5, 7, 4⟩ ⟨0, 0, 0, 0, 0, 0, 0, 0, 0, 0⟩) &&
    dec 0x0D989B9E0000000005408000 (.lfor ⟨98, 6, 14, 7⟩ ⟨2147483648, 0, 21, 0, 1, 0, 0⟩) &&
    dec 0x0DD8DD6BFFFFFFF800000000 (.lnext ⟨99, 7, 5, 10⟩ ⟨4294967294, 0, 0, 0, 0, 0, 0⟩) &&
    dec 0x0E1923366000000000050000 (.lidx ⟨100, 8, 12, 13⟩ ⟨38, 0, 0, 5, 0, 0, 0, 0, 0, 0⟩) &&
    dec 0x0E5964C27000000000030000 (.pfld ⟨101, 9, 3, 0⟩ ⟨39, 0, 0, 3, 0, 0, 0, 0, 0, 0⟩) &&
    dec 0x0E59AA8E80000000000C0000 (.pfldW ⟨102, 10, 10, 3⟩ ⟨40, 0, 0, 12, 0, 0, 0, 0, 0, 0⟩) &&
    dec 0x0E99EC580000000000000000 (.halt ⟨103, 11, 1, 6⟩ ⟨0, 0, 0, 0, 0, 0, 0, 0, 0, 0⟩) &&
    dec 0x0EDA32240000DEADBEEF0000 (.trap ⟨104, 12, 8, 9⟩ ⟨0, 0, 0, 3735928559, 0, 0, 0, 0, 0, 0⟩) &&
    dec 0x0F1A77F00000000000000000 (.nop ⟨105, 13, 15, 12⟩ ⟨0, 0, 0, 0, 0, 0, 0, 0, 0, 0⟩) &&
    dec 0x101AB9BD18B3C39800018C00 (.sld ⟨106, 14, 6, 15⟩ ⟨17, 34, 51, 195, 9, 524289, 1, 0, 6, 0⟩)) = true := by decide +kernel
theorem test_decode_control_wordsb : (
    dec 0x105AFF4928F43C67FFFE4600 (.sst ⟨107, 15, 13, 2⟩ ⟨18, 35, 52, 60, 6, 524286, 0, 1, 3, 0⟩) &&
    dec 0x121B05169756002000000000 (.lset ⟨108, 1, 4, 5⟩ ⟨165, 6, 43, 0, 0, 0, 1, 0⟩) &&
    dec 0x125B4AE16A81600000000000 (.lget ⟨109, 2, 11, 8⟩ ⟨90, 5, 0, 44, 0, 0, 0, 0⟩) &&
    dec 0x129B8CAC005A06A000000000 (.rinit ⟨110, 3, 2, 11⟩ ⟨0, 0, 45, 0, 13, 0, 1, 0⟩) &&
    dec 0x12DBD27A640005C000000000 (.racq ⟨111, 4, 9, 14⟩ ⟨153, 0, 0, 0, 11, 1, 0, 0⟩) &&
    dec 0x131C14040000074000000000 (.rrel ⟨112, 5, 0, 1⟩ ⟨0, 0, 0, 0, 14, 1, 0, 0⟩) &&
    dec 0x135C59D0005C002000000000 (.launch ⟨113, 6, 7, 4⟩ ⟨0, 0, 46, 0, 0, 0, 1, 0⟩) &&
    dec 0x141C9F9F9DB8000000180800 (.sems ⟨114, 7, 14, 7⟩ ⟨231, 27, 2147483649, 2, 0, 1, 0⟩) &&
    dec 0x145CE169F9C7FFFFFFE40800 (.semw ⟨115, 8, 5, 10⟩ ⟨126, 28, 2147483646, 1, 0, 1, 0⟩) &&
    dec 0x149D2736F400000000035000 (.semr ⟨116, 9, 12, 13⟩ ⟨189, 0, 0, 0, 53, 0, 0⟩) &&
    dec 0x14DD68C00000000000000000 (.wpop ⟨117, 10, 3, 0⟩ ⟨0, 0, 0, 0, 0, 0, 0, 0, 0, 0⟩) &&
    dec 0x151DAE8F6000000000070000 (.cyc ⟨118, 11, 10, 3⟩ ⟨54, 0, 0, 7, 0, 0, 0, 0, 0, 0⟩) &&
    dec 0x161DF05A1084000000000000 (.fence ⟨119, 12, 1, 6⟩ ⟨33825, 0⟩) &&
    dec 0x165E36244920000000000000 (.xfence ⟨120, 13, 8, 9⟩ ⟨4680, 0⟩) &&
    dec 0x169E7BF00000000000000000 (.ifence ⟨121, 14, 15, 12⟩ ⟨0, 0⟩)) = true := by decide +kernel
theorem test_decode_control_wordsc : (
    dec 0x16DEBDBC0000000000000000 (.drain ⟨122, 15, 6, 15⟩ ⟨0, 0⟩) &&
    dec 0x181EC74B7000000001080000 (.crd ⟨123, 1, 13, 2⟩ ⟨55, 0, 0, 264, 0, 0, 0, 0, 0, 0⟩) &&
    dec 0x185F09140E00000000148000 (.cwr ⟨124, 2, 4, 5⟩ ⟨0, 56, 0, 20, 1, 0, 0, 0, 0, 0⟩) &&
    dec 0x189F4EE00E400000BEEF0000 (.tmark ⟨125, 3, 11, 8⟩ ⟨0, 57, 0, 48879, 0, 0, 0, 0, 0, 0⟩)) = true := by decide +kernel
theorem test_decode_memory_wordsa : (
    dec 0x205F90AED7496AFD8005B600 (.vld ⟨126, 4, 2, 11⟩ ⟨181, 210, 22, 43, 61, 32773, 11, 6, 0⟩) &&
    dec 0x209FD67AD7496AFD8005B6BE (.vldx ⟨127, 5, 9, 14⟩ ⟨181, 210, 22, 43, 61, 32773, 11, 6, 190⟩) &&
    dec 0x20E01806D7496AFD8005B600 (.vldb ⟨128, 6, 0, 1⟩ ⟨181, 210, 22, 43, 61, 32773, 11, 6, 0⟩) &&
    dec 0x21205DD01B496AFD8005B100 (.pld ⟨129, 7, 7, 4⟩ ⟨6, 210, 22, 43, 61, 32773, 11, 1, 0⟩) &&
    dec 0x2160A39C03496AFD8005B0D5 (.vfeed ⟨130, 8, 14, 7⟩ ⟨0, 210, 22, 43, 61, 32773, 11, 0, 213⟩) &&
    dec 0x21A0E56803496AFD8005B003 (.scld ⟨131, 9, 5, 10⟩ ⟨0, 210, 22, 43, 61, 32773, 11, 0, 3⟩) &&
    dec 0x60612B36D7496AFD8005B600 (.vst ⟨132, 10, 12, 13⟩ ⟨181, 210, 22, 43, 61, 32773, 11, 6, 0⟩) &&
    dec 0x60A16CC2D7496AFD8005B6BD (.vstx ⟨133, 11, 3, 0⟩ ⟨181, 210, 22, 43, 61, 32773, 11, 6, 189⟩) &&
    dec 0x60E1B28C17496AFD8005B100 (.pst ⟨134, 12, 10, 3⟩ ⟨5, 210, 22, 43, 61, 32773, 11, 1, 0⟩) &&
    dec 0x6121F45AD7496AFD8005B600 (.vstc ⟨135, 13, 1, 6⟩ ⟨181, 210, 22, 43, 61, 32773, 11, 6, 0⟩) &&
    dec 0x3C223A25ADDC0000003C0000 (.semwEngine .L ⟨136, 14, 8, 9⟩ ⟨107, 29, 3221225475, 3, 0, 0, 0⟩) &&
    dec 0x3C627FF1ADDC0000003C0000 (.semsEngine .L ⟨137, 15, 15, 12⟩ ⟨107, 29, 3221225475, 3, 0, 0, 0⟩) &&
    dec 0x3E2285BE0004000000000000 (.fenceEngine .L ⟨138, 1, 6, 15⟩ ⟨32769, 0⟩) &&
    dec 0x5C22CB49ADDC0000003C0000 (.semwEngine .A ⟨139, 2, 13, 2⟩ ⟨107, 29, 3221225475, 3, 0, 0, 0⟩) &&
    dec 0x5C630D15ADDC0000003C0000 (.semsEngine .A ⟨140, 3, 4, 5⟩ ⟨107, 29, 3221225475, 3, 0, 0, 0⟩)) = true := by decide +kernel
theorem test_decode_memory_wordsb : (
    dec 0x5E2352E20004000000000000 (.fenceEngine .A ⟨141, 4, 11, 8⟩ ⟨32769, 0⟩) &&
    dec 0x7C2394ADADDC0000003C0000 (.semwEngine .W ⟨142, 5, 2, 11⟩ ⟨107, 29, 3221225475, 3, 0, 0, 0⟩) &&
    dec 0x7C63DA79ADDC0000003C0000 (.semsEngine .W ⟨143, 6, 9, 14⟩ ⟨107, 29, 3221225475, 3, 0, 0, 0⟩) &&
    dec 0x7E241C060004000000000000 (.fenceEngine .W ⟨144, 7, 0, 1⟩ ⟨32769, 0⟩) &&
    dec 0x9C2461D1ADDC0000003C0000 (.semwEngine .M ⟨145, 8, 7, 4⟩ ⟨107, 29, 3221225475, 3, 0, 0, 0⟩) &&
    dec 0x9C64A79DADDC0000003C0000 (.semsEngine .M ⟨146, 9, 14, 7⟩ ⟨107, 29, 3221225475, 3, 0, 0, 0⟩)) = true := by decide +kernel
theorem test_decode_vector_wordsa : (
    dec 0x4064E969940A512FB43C0228 (.vadd ⟨147, 10, 5, 10⟩ ⟨101, 2, 2372, 190, 3343, 0, 4, 5, 0⟩) &&
    dec 0x40A52F3535625120000000EC (.vaddi ⟨148, 11, 12, 13⟩ ⟨77, 88, 2372, 2147483651, 1, 6, 0⟩) &&
    dec 0x40E570C19C1168EF25100318 (.vsub ⟨149, 12, 3, 0⟩ ⟨103, 4, 1443, 188, 2372, 0, 6, 3, 0⟩) &&
    dec 0x4125B68DA016512EF43C0020 (.vadds ⟨150, 13, 10, 3⟩ ⟨104, 5, 2372, 187, 3343, 0, 0, 4, 0⟩) &&
    dec 0x4165F859A41B43EE968C0228 (.vsubs ⟨151, 14, 1, 6⟩ ⟨105, 6, 3343, 186, 1443, 0, 4, 5, 0⟩) &&
    dec 0x41A63E25A81D68EE65100110 (.vmul ⟨152, 15, 8, 9⟩ ⟨106, 7, 1443, 185, 2372, 0, 2, 2, 0⟩) &&
    dec 0x41E647F1AC22512E343C0310 (.vmulh ⟨153, 1, 15, 12⟩ ⟨107, 8, 2372, 184, 3343, 0, 6, 2, 0⟩) &&
    dec 0x422689BDB02743EDD68E8490 (.vmad ⟨154, 2, 6, 15⟩ ⟨108, 9, 3343, 183, 1443, 161, 1, 2, 0⟩) &&
    dec 0x4266CF49B42968EDA5100208 (.vmin ⟨155, 3, 13, 2⟩ ⟨109, 10, 1443, 182, 2372, 0, 4, 1, 0⟩) &&
    dec 0x42A71115B82E512D743C0110 (.vmax ⟨156, 4, 4, 5⟩ ⟨110, 11, 2372, 181, 3343, 0, 2, 2, 0⟩) &&
    dec 0x42E756E1BC3343C000000210 (.vabs ⟨157, 5, 11, 8⟩ ⟨111, 12, 3343, 0, 0, 0, 4, 2, 0⟩) &&
    dec 0x432798ADC03568ECE5100020 (.vand ⟨158, 6, 2, 11⟩ ⟨112, 13, 1443, 179, 2372, 0, 0, 4, 0⟩) &&
    dec 0x4367DE79C43A512CB43C0228 (.vor ⟨159, 7, 9, 14⟩ ⟨113, 14, 2372, 178, 3343, 0, 4, 5, 0⟩) &&
    dec 0x43A82005C83F43EC568C0130 (.vxor ⟨160, 8, 0, 1⟩ ⟨114, 15, 3343, 177, 1443, 0, 2, 6, 0⟩) &&
    dec 0x43E865D1CC4168EC25100338 (.vandn ⟨161, 9, 7, 4⟩ ⟨115, 16, 1443, 176, 2372, 0, 6, 7, 0⟩)) = true := by decide +kernel
theorem test_decode_vector_wordsb : (
    dec 0x4428AB9DD046512BF43C0000 (.vshl ⟨162, 10, 14, 7⟩ ⟨116, 17, 2372, 175, 3343, 0, 0, 0, 0⟩) &&
    dec 0x4468ED69D44B43EB968C0208 (.vshr ⟨163, 11, 5, 10⟩ ⟨117, 18, 3343, 174, 1443, 0, 4, 1, 0⟩) &&
    dec 0x44A93335D84D68EB65100110 (.vsar ⟨164, 12, 12, 13⟩ ⟨118, 19, 1443, 173, 2372, 0, 2, 2, 0⟩) &&
    dec 0x44E974C1DC52510000000218 (.vclz ⟨165, 13, 3, 0⟩ ⟨119, 20, 2372, 0, 0, 0, 4, 3, 0⟩) &&
    dec 0x4529BA8DE05743C000000020 (.vpopc ⟨166, 14, 10, 3⟩ ⟨120, 21, 3343, 0, 0, 0, 0, 4, 0⟩) &&
    dec 0x4829FC5A108743E7D68C0051 (.vfadd ⟨167, 15, 1, 6⟩ ⟨132, 33, 3343, 159, 1443, 0, 0, 10, 1⟩) &&
    dec 0x486A0626148968E7A5100242 (.vfsub ⟨168, 1, 8, 9⟩ ⟨133, 34, 1443, 158, 2372, 0, 4, 8, 2⟩) &&
    dec 0x48AA4BF2188E5127743C014B (.vfmul ⟨169, 2, 15, 12⟩ ⟨134, 35, 2372, 157, 3343, 0, 2, 9, 3⟩) &&
    dec 0x48EA8DBE1C9343E7168E87D4 (.vfma ⟨170, 3, 6, 15⟩ ⟨135, 36, 3343, 156, 1443, 161, 7, 10, 4⟩) &&
    dec 0x492AD34A209568E6E51284C1 (.vfnma ⟨171, 4, 13, 2⟩ ⟨136, 37, 1443, 155, 2372, 161, 1, 8, 1⟩) &&
    dec 0x496B1516249A5126B43C0248 (.vfmin ⟨172, 5, 4, 5⟩ ⟨137, 38, 2372, 154, 3343, 0, 4, 9, 0⟩) &&
    dec 0x49AB5AE2289F43E6568C0150 (.vfmax ⟨173, 6, 11, 8⟩ ⟨138, 39, 3343, 153, 1443, 0, 2, 10, 0⟩) &&
    dec 0x49EB9CAE2CA168C000000240 (.vfabs ⟨174, 7, 2, 11⟩ ⟨139, 40, 1443, 0, 0, 0, 4, 8, 0⟩) &&
    dec 0x4A2BE27A30A6510000000048 (.vfneg ⟨175, 8, 9, 14⟩ ⟨140, 41, 2372, 0, 0, 0, 0, 9, 0⟩) &&
    dec 0x4A6C240634AB43C000000252 (.vfrcp ⟨176, 9, 0, 1⟩ ⟨141, 42, 3343, 0, 0, 0, 4, 10, 2⟩)) = true := by decide +kernel
theorem test_decode_vector_wordsc : (
    dec 0x4AAC69D238AD68C000000043 (.vfrsq ⟨177, 10, 7, 4⟩ ⟨142, 43, 1443, 0, 0, 0, 0, 8, 3⟩) &&
    dec 0x4AECAF9E3CB251000000024C (.vfsqrt ⟨178, 11, 14, 7⟩ ⟨143, 44, 2372, 0, 0, 0, 4, 9, 4⟩) &&
    dec 0x4B2CF16A40B743E4D68C0051 (.vfdiv ⟨179, 12, 5, 10⟩ ⟨144, 45, 3343, 147, 1443, 0, 0, 10, 1⟩) &&
    dec 0x4B6D373644B968C000000242 (.vfexp2 ⟨180, 13, 12, 13⟩ ⟨145, 46, 1443, 0, 0, 0, 4, 8, 2⟩) &&
    dec 0x4BAD78C248BE51000000004B (.vflog2 ⟨181, 14, 3, 0⟩ ⟨146, 47, 2372, 0, 0, 0, 0, 9, 3⟩) &&
    dec 0x4BEDBE8E4CC343C000000254 (.vftanh ⟨182, 15, 10, 3⟩ ⟨147, 48, 3343, 0, 0, 0, 4, 10, 4⟩) &&
    dec 0x4C2DC45A50C568C000000040 (.vfexpo ⟨183, 1, 1, 6⟩ ⟨148, 49, 1443, 0, 0, 0, 0, 8, 0⟩)) = true := by decide +kernel
theorem test_decode_lanes_wordsa : (
    dec 0x4E2E0A26B9ED68CB743C1238 (.vcmp ⟨184, 2, 8, 9⟩ ⟨5, 3, 1, 0, 123, 1443, 45, 3343, 4, 2, 0, 7, 0⟩) &&
    dec 0x4E6E4FF1E9F343E000001D66 (.vcmpi ⟨185, 3, 15, 12⟩ ⟨3, 6, 1, 0, 124, 3343, 134217735, 5, 1, 3, 0⟩) &&
    dec 0x4EAE91BF11F6510B968C2D50 (.vfcmp ⟨186, 4, 6, 15⟩ ⟨6, 1, 0, 0, 125, 2372, 46, 1443, 11, 1, 0, 10, 0⟩) &&
    dec 0x4EEED748F9F968C00002D650 (.vfclass ⟨187, 5, 13, 2⟩ ⟨1, 7, 1, 0, 126, 1443, 0, 0, 181, 2, 0, 10, 0⟩) &&
    dec 0x502F19160C3168C00000C24B (.vcvt ⟨188, 6, 4, 5⟩ ⟨131, 12, 1443, 0, 0, 6, 0, 0, 2, 9, 3⟩) &&
    dec 0x506F5EE21036510000019244 (.vfcvt ⟨189, 7, 11, 8⟩ ⟨132, 13, 2372, 0, 0, 12, 1, 0, 2, 8, 4⟩) &&
    dec 0x50AFA0AE143B43E58002A252 (.vqnt ⟨190, 8, 2, 11⟩ ⟨133, 14, 3343, 150, 0, 21, 0, 0, 2, 10, 2⟩) &&
    dec 0x50EFE67A183D68E5F43D0189 (.vdqnt ⟨191, 9, 9, 14⟩ ⟨134, 15, 1443, 151, 3343, 8, 0, 0, 1, 17, 1⟩) &&
    dec 0x52302805B12568C000000078 (.vmov ⟨192, 10, 0, 1⟩ ⟨108, 73, 1443, 0, 0, 0, 0, 15, 0⟩) &&
    dec 0x52706DD1B52A510246940208 (.vbcst ⟨193, 11, 7, 4⟩ ⟨109, 74, 2372, 9, 421, 0, 4, 1, 0⟩) &&
    dec 0x52B0B39DB800000000000038 (.viota ⟨194, 12, 14, 7⟩ ⟨110, 0, 0, 0, 0, 0, 0, 7, 0⟩) &&
    dec 0x52F0F569BD3168DD25100350 (.vperm ⟨195, 13, 5, 10⟩ ⟨111, 76, 1443, 116, 2372, 0, 6, 10, 0⟩) &&
    dec 0x53313B35C136511CF43E84A0 (.vrmrg ⟨196, 14, 12, 13⟩ ⟨112, 77, 2372, 115, 3343, 161, 1, 4, 0⟩) &&
    dec 0x53717CC1C53B43DC968C1A68 (.vsel ⟨197, 15, 3, 0⟩ ⟨113, 78, 3343, 114, 1443, 6, 4, 13, 0⟩) &&
    dec 0x53B1868CE93D68C000000048 (.vtog ⟨198, 1, 10, 3⟩ ⟨58, 79, 1443, 0, 0, 0, 0, 9, 0⟩)) = true := by decide +kernel
theorem test_decode_lanes_wordsb : (
    dec 0x5431C859D14743C00001D410 (.vred ⟨199, 2, 1, 6⟩ ⟨116, 81, 3343, 0, 0, 117, 0, 2, 0⟩) &&
    dec 0x54720E25D54968C000010A53 (.vfred ⟨200, 3, 8, 9⟩ ⟨117, 82, 1443, 0, 0, 66, 4, 10, 3⟩) &&
    dec 0x54B253F1D94E510000014420 (.vscan ⟨201, 4, 15, 12⟩ ⟨118, 83, 2372, 0, 0, 81, 0, 4, 0⟩) &&
    dec 0x54F295BDDD5343C00001824A (.vfscan ⟨202, 5, 6, 15⟩ ⟨119, 84, 3343, 0, 0, 96, 4, 9, 2⟩) &&
    dec 0x5632DB49F1665111C0000270 (.vspcmp ⟨203, 6, 13, 2⟩ ⟨124, 89, 2372, 71, 0, 0, 4, 14, 0⟩) &&
    dec 0x56731D15F56B43D9968C0260 (.vspexp ⟨204, 7, 4, 5⟩ ⟨125, 90, 3343, 102, 1443, 0, 4, 12, 0⟩) &&
    dec 0x583362E1400000000003A000 (.vplog ⟨205, 8, 11, 8⟩ ⟨2, 4, 0, 0, 0, 0, 0, 0, 232, 0, 0, 0, 0⟩) &&
    dec 0x5873A4AC000000000C000000 (.vpcnt ⟨206, 9, 2, 11⟩ ⟨0, 0, 0, 0, 0, 0, 0, 768, 0, 0, 0, 0, 0⟩) &&
    dec 0x58B3EA780000000000000400 (.vpfind ⟨207, 10, 9, 14⟩ ⟨0, 0, 0, 0, 0, 0, 0, 0, 1, 0, 0, 0, 0⟩) &&
    dec 0x58F42C040000000000004400 (.vpmov ⟨208, 11, 0, 1⟩ ⟨0, 0, 0, 0, 0, 0, 0, 0, 17, 0, 0, 0, 0⟩)) = true := by decide +kernel
theorem test_decode_matrix_wordsa : (
    dec 0x807471D30000000000000000 (.mzero ⟨209, 12, 7, 4⟩ ⟨3, 0, 0, 0, 0, 0, 0, 0⟩) &&
    dec 0x80B4B79E0003FFF820000000 (.mma ⟨210, 13, 14, 7⟩ ⟨2, 0, 0, 0, 65534, 0, 1, 0⟩) &&
    dec 0x80F4F9692EA4001C20000000 (.mmas ⟨211, 14, 5, 10⟩ ⟨1, 0, 186, 9, 7, 0, 1, 0⟩) &&
    dec 0x81353F362F00000000000000 (.mdrain ⟨212, 15, 12, 13⟩ ⟨2, 0, 188, 0, 0, 0, 0, 0⟩) &&
    dec 0x817544C325C0000000000000 (.mload ⟨213, 1, 3, 0⟩ ⟨3, 0, 151, 0, 0, 0, 0, 0⟩) &&
    dec 0xA0758A8F14E8B5A1B3796821 (.xcopy ⟨214, 2, 10, 3⟩ ⟨197, 58, 11, 22, 33, 44, 55, 150, 2, 0, 1, 1⟩) &&
    dec 0xA0B5CC5B14E8B5A1B3796835 (.xgath ⟨215, 3, 1, 6⟩ ⟨197, 58, 11, 22, 33, 44, 55, 150, 2, 0, 1, 21⟩) &&
    dec 0xA0F6122714E8B5A1B3796A20 (.xscat ⟨216, 4, 8, 9⟩ ⟨197, 58, 11, 22, 33, 44, 55, 150, 2, 8, 1, 0⟩) &&
    dec 0xA13657F314E8B5A1B3796820 (.xtran ⟨217, 5, 15, 12⟩ ⟨197, 58, 11, 22, 33, 44, 55, 150, 2, 0, 1, 0⟩) &&
    dec 0xA17699BF14E8B5A1B37968E0 (.xconv ⟨218, 6, 6, 15⟩ ⟨197, 58, 11, 22, 33, 44, 55, 150, 2, 3, 1, 0⟩) &&
    dec 0xA1B6DF4B14E8B5A1B3796820 (.xmcst ⟨219, 7, 13, 2⟩ ⟨197, 58, 11, 22, 33, 44, 55, 150, 2, 0, 1, 0⟩) &&
    dec 0xA1F7211714E8B5A1B3796B61 (.xred ⟨220, 8, 4, 5⟩ ⟨197, 58, 11, 22, 33, 44, 55, 150, 2, 13, 1, 1⟩) &&
    dec 0xA23766E314E8B5A1B37969A1 (.xatom ⟨221, 9, 11, 8⟩ ⟨197, 58, 11, 22, 33, 44, 55, 150, 2, 6, 1, 1⟩) &&
    dec 0xA277A8AF14E8B58003796820 (.xapnd ⟨222, 10, 2, 11⟩ ⟨197, 58, 11, 22, 0, 0, 55, 150, 2, 0, 1, 0⟩) &&
    dec 0xA2B7EE7800E8000003796820 (.xsig ⟨223, 11, 9, 14⟩ ⟨0, 58, 0, 0, 0, 0, 55, 150, 2, 0, 1, 0⟩)) = true := by decide +kernel
theorem test_decode_matrix_wordsb : (
    dec 0xA2F830040000000003796800 (.xwait ⟨224, 12, 0, 1⟩ ⟨0, 0, 0, 0, 0, 0, 55, 150, 2, 0, 0, 0⟩) &&
    dec 0xA33875D31400B58003796821 (.xpref ⟨225, 13, 7, 4⟩ ⟨197, 0, 11, 22, 0, 0, 55, 150, 2, 0, 1, 1⟩) &&
    dec 0xA438BB9F14E8B5A103796BA0 (.xcomp ⟨226, 14, 14, 7⟩ ⟨197, 58, 11, 22, 33, 0, 55, 150, 2, 14, 1, 0⟩) &&
    dec 0xA478FD6800E8002103796820 (.xmrg ⟨227, 15, 5, 10⟩ ⟨0, 58, 0, 0, 33, 0, 55, 150, 2, 0, 1, 0⟩) &&
    dec 0xA4B9073714E8B5A103796820 (.xsnap ⟨228, 1, 12, 13⟩ ⟨197, 58, 11, 22, 33, 0, 55, 150, 2, 0, 1, 0⟩) &&
    dec 0xA4F948C314E8B02100096820 (.xhdr ⟨229, 2, 3, 0⟩ ⟨197, 58, 11, 0, 33, 0, 0, 150, 2, 0, 1, 0⟩) &&
    dec 0xA6398E8F1400B02103796820 (.xtld ⟨230, 3, 10, 3⟩ ⟨197, 0, 11, 0, 33, 0, 55, 150, 2, 0, 1, 0⟩) &&
    dec 0xA679D05B14E8B5A103796820 (.xfst ⟨231, 4, 1, 6⟩ ⟨197, 58, 11, 22, 33, 0, 55, 150, 2, 0, 1, 0⟩)) = true := by decide +kernel

/-! ### The assembler and the loader -/

/-- The slots of a source. -/
def slotsOf (src : String) : Option (List Slot) := (parseSource src.toList).bind fun p => (Asm.assemble p).map Asm.Assembled.slots

-- R82's listing: its four slots
theorem test_assemble_listing : slotsOf
    ".module m\n        .kernel rowload\n        .engine L\n        .sec 3\n        VLD v4, L7(g3, g4, +16)   ; 16 rows, class 0\n        .engine S\n        .sec 0\n        .after L=3\n        HALT\n        .launch\n        .end\n" =
    some [0xE000000020600FFFFFFFFFF8, 0x207FC000101C310000100000, 0xE00000000000081FFFFFFFF8, 0x0EBFC0000000000000000000] := by decide +kernel
-- R79: a branch back to its own section's header, labelled b at the header, has offset -1; R81: a word of another engine; R79: no header
theorem test_assemble_branch :
    (slotsOf ".module m\nb: .engine S\n.sec 1\nBR b\n.launch\n.end").map (fun l => l.drop 1) = some [0x0C3FC003FFFFFFFC00000000] ∧
    slotsOf ".module m\n.engine L\n.sec 1\nHALT\n.launch\n.end" = none ∧ slotsOf ".module m\n.engine S\n.sec 1\nNOP\nb: BR b\n.launch\n.end" = none := by decide +kernel
-- R80, R82: a `.loop` whose labels lie 4, 7 and 11 slots on is the LREC that chapter 06 writes out, and its liveness bits are all 1
theorem test_assemble_loop : (slotsOf
    ".module m\n.engine S\n.sec 1\n.loop l, g5, 2\nl.pro:\n.engine S\n.sec 2\nNOP\nNOP\nl.ker:\n.engine S\n.sec 3\nNOP\nNOP\nNOP\nl.epi:\n.engine S\n.sec 4\nHALT\n.launch\n.end").map
      (fun l => (l.drop 1).take 4) = some [0x0D3FC0000010001C002C5200, BitVec.allOnes 96, BitVec.allOnes 96, BitVec.allOnes 96] := by decide +kernel
/-- The guard of the example in spec/03: p2 and not s1 has TT 0x30. -/
theorem test_guard : encodeGuard .A (.and (.name (.p 2)) (.not (.name (.s 1)))) = some ⟨0x30, 2, 9, 0⟩ ∧
    encodeGuard .S (.name (.p 2)) = none ∧ encodeGuard .A (.const false) = none := by decide +kernel
theorem test_real_literal : realBits .f32 false 1 0 true = 0x3F800000 ∧ realBits .f32 false 25 4 false = 0x3B23D70A ∧
    realBits .bf16 true 75 2 false = 0xBF40 := by decide +kernel
theorem test_expression : AExpr.eval (fun _ => none) (.bin .mod (.bin .sub (.lit 0) (.lit 7)) (.lit 4)) = some (-3) ∧
    AExpr.eval (fun _ => none) (.bin .shl (.lit 1) (.lit 63)) = none := by decide +kernel
/-- An image with a launch header alone, its digest worked out with another SHAKE256; and the same with one byte changed. -/
def oneHdr (b : Byte) : List Byte :=
  toBytes 4 0x494C5848 ++ toBytes 2 1 ++ toBytes 2 1 ++ List.replicate 24 0 ++ toBytes 32 0x7f4b41aa60e4ac63fed57336579acc29fa576e5e0b8d36652f6539e59db3142e ++
    toBytes 8 4 ++ toBytes 8 96 ++ toBytes 8 128 ++ toBytes 8 0 ++ List.replicate 32 0 ++ toBytes 8 0x400011 ++ List.replicate 87 0 ++ [b]
theorem test_image : imageOk (oneHdr 0) = true ∧ imageOk (oneHdr 1) = false := by decide +kernel
/-- A relocation adds the parameter block's address to the header's params field. -/
theorem test_relocation : ((relocate 0 [⟨4, 0x1000, List.replicate 128 0⟩, ⟨6, 0x20000, [1]⟩] ⟨4, 6, 72⟩).map fun g => ofBytes (imgCut g.bytes 72 8)) =
    [0x20000, 0] := by decide +kernel
theorem test_launch_keys : packKeys launchKeys [("code", .num 4), ("entry", .num 17)] = some (0x400011 * 2 ^ 256) ∧
    packKeys launchKeys [("code", .num 16384)] = none ∧ packKeys launchKeys [("row", .num 1)] = none := by decide +kernel

end Sys2Proof.Tests
end

section
/-! SUPPORT, then the proof of O22: the bits that an entry of the layout table keeps (R2, R181), and what LSET and LGET answer (R183,
R186). A word of an entry is `bits e (64 * w) 64`. -/

namespace Sys2Proof.Machine

open Sys2Proof.Safety

/-! ### Bit fields -/

theorem testBit_bits (x lo len n : Nat) : (bits x lo len).testBit n = (decide (n < len) && x.testBit (lo + n)) := by
  simp [bits, Nat.testBit_mod_two_pow, Nat.testBit_div_two_pow, Nat.add_comm]

theorem bits_lt (x lo len : Nat) : bits x lo len < 2 ^ len := Nat.mod_lt _ (Nat.two_pow_pos len)

/-- A field that lies below bit m is that of the number cut to m bits. -/
theorem bits_mod_two_pow (x : Nat) {lo len m : Nat} (h : lo + len ≤ m) : bits (x % 2 ^ m) lo len = bits x lo len := by
  refine Nat.eq_of_testBit_eq fun n => ?_
  by_cases hn : n < len
  · simp [testBit_bits, Nat.testBit_mod_two_pow, show lo + n < m by omega]
  · simp [testBit_bits, hn]

/-! ### A word of an entry replaced -/

/-- What stands above word i, the new word, and what stands below it. -/
theorem setWord_eq (v i w : Nat) :
    setWord v i w = 2 ^ (64 * i) * (2 ^ 64 * (v / 2 ^ (64 * i) / 2 ^ 64) + w % 2 ^ 64) + v % 2 ^ (64 * i) := by
  have low := Nat.div_add_mod v (2 ^ (64 * i))
  have high := Nat.div_add_mod (v / 2 ^ (64 * i)) (2 ^ 64)
  unfold setWord bits
  generalize v / 2 ^ (64 * i) = top at *
  generalize v % 2 ^ (64 * i) = lo at *
  generalize top / 2 ^ 64 = hi at *
  generalize top % 2 ^ 64 = mid at *
  subst high low
  have apart : 2 ^ (64 * i) * (2 ^ 64 * hi + mid) + lo = 2 ^ (64 * i) * (2 ^ 64 * hi) + lo + mid * 2 ^ (64 * i) := by ring
  rw [apart, Nat.add_sub_cancel]
  ring

theorem testBit_setWord (v i w n : Nat) :
    (setWord v i w).testBit n = if n / 64 = i then w.testBit (n % 64) else v.testBit n := by
  rw [setWord_eq, Nat.testBit_two_pow_mul_add _ (Nat.mod_lt _ (Nat.two_pow_pos _))]
  by_cases below : n < 64 * i
  · rw [if_pos below, if_neg (by omega)]
    simp [Nat.testBit_mod_two_pow, below]
  · rw [if_neg below, Nat.testBit_two_pow_mul_add _ (Nat.mod_lt _ (Nat.two_pow_pos _))]
    by_cases inside : n - 64 * i < 64
    · rw [if_pos inside, if_pos (by omega), show n % 64 = n - 64 * i by omega, Nat.testBit_mod_two_pow]
      simp only [inside, decide_true, Bool.true_and]
    · rw [if_neg inside, if_neg (by omega)]
      simp only [Nat.testBit_div_two_pow]
      congr 1
      omega

theorem word_setWord (v i w j : Nat) :
    bits (setWord v i w) (64 * j) 64 = if j = i then w % 2 ^ 64 else bits v (64 * j) 64 := by
  refine Nat.eq_of_testBit_eq fun n => ?_
  by_cases hn : n < 64
  · have word : (64 * j + n) / 64 = j := by omega
    have place : (64 * j + n) % 64 = n := by omega
    rw [testBit_bits, testBit_setWord, word, place]
    split <;> simp only [testBit_bits, Nat.testBit_mod_two_pow]
  · rw [testBit_bits, decide_eq_false hn, Bool.false_and]
    split <;> simp only [testBit_bits, Nat.testBit_mod_two_pow, hn, decide_false, Bool.false_and]

/-! ### The defined bits of an entry -/

/-- Word 5 is the one with reserved bits between its fields (Table 10-2). -/
theorem fields_eq_and_layDefined (u : Nat) :
    bits u 0 13 + bits u 16 5 * 2 ^ 16 + bits u 38 10 * 2 ^ 38 = u &&& layDefined 5 := by
  have lowFields (a b : Nat) (ha : a < 2 ^ 13) (hb : b < 2 ^ 5) : 2 ^ 16 * b + a < 2 ^ 38 := by omega
  have mask : layDefined 5 = 2 ^ 38 * (2 ^ 10 - 1) + (2 ^ 16 * (2 ^ 5 - 1) + (2 ^ 13 - 1)) := rfl
  have fields : bits u 0 13 + bits u 16 5 * 2 ^ 16 + bits u 38 10 * 2 ^ 38 =
      2 ^ 38 * bits u 38 10 + (2 ^ 16 * bits u 16 5 + bits u 0 13) := by ring
  rw [mask, fields]
  refine Nat.eq_of_testBit_eq fun n => ?_
  have h13 := bits_lt u 0 13
  have h16 : bits u 0 13 < 2 ^ 16 := by omega
  rw [Nat.testBit_and, Nat.testBit_two_pow_mul_add _ (lowFields _ _ h13 (bits_lt u 16 5)),
    Nat.testBit_two_pow_mul_add _ (lowFields _ _ (by decide) (by decide)),
    Nat.testBit_two_pow_mul_add _ h16, Nat.testBit_two_pow_mul_add _ (by decide)]
  simp only [testBit_bits, Nat.testBit_two_pow_sub_one]
  split
  · split
    · simp [Bool.and_comm]
    · rw [show 16 + (n - 16) = n by omega, Bool.and_comm]
  · rw [show 38 + (n - 38) = n by omega, Bool.and_comm]

theorem layMask_eq (v : Nat) : layMask v = 2 ^ 320 * (bits v 320 64 &&& layDefined 5) + v % 2 ^ 320 := by
  have low : bits v 0 (64 * 5) = v % 2 ^ 320 := by simp only [bits, Nat.reduceMul, pow_zero, Nat.div_one]
  rw [layMask, fields_eq_and_layDefined, low, Nat.add_comm]

/-- Each word of an entry as LSET leaves it holds its defined bits. -/
theorem word_layMask (v w : Nat) : bits (layMask v) (64 * w) 64 = bits v (64 * w) 64 &&& layDefined w := by
  have low : v % 2 ^ 320 < 2 ^ 320 := Nat.mod_lt _ (by positivity)
  refine Nat.eq_of_testBit_eq fun n => ?_
  rw [testBit_bits, layMask_eq, Nat.testBit_two_pow_mul_add _ low]
  simp only [Nat.testBit_and, testBit_bits, Nat.testBit_mod_two_pow]
  by_cases hn : n < 64
  · rcases Nat.lt_trichotomy w 5 with hw | rfl | hw
    · have ones : layDefined w = 2 ^ 64 - 1 := if_pos hw
      have inLow : 64 * w + n < 320 := by omega
      simp only [ones, Nat.testBit_two_pow_sub_one, hn, inLow, if_true, decide_true, Bool.true_and, Bool.and_true]
    · rw [if_neg (by omega), show 64 * 5 + n - 320 = n by omega]
      simp only [hn, decide_true, Bool.true_and]
    · have zero : layDefined w = 0 := by simp only [layDefined, show ¬ w < 5 by omega, show ¬ w = 5 by omega, if_false]
      have above : ¬ 64 * w + n - 320 < 64 := by omega
      rw [if_neg (by omega), zero, Nat.zero_testBit]
      simp only [above, decide_false, Bool.false_and, Bool.and_false]
  · simp only [hn, decide_false, Bool.false_and]

/-! ### An S word that writes a general register -/

/-- The layout table is no part of what a retiring S word may always change. -/
theorem layout_of_fixedS {x y : Tile} (h : fixedS x = fixedS y) : x.layout = y.layout :=
  (congrArg Tile.layout h :)

/-- Nor are the general registers. -/
theorem g_of_fixedS {x y : Tile} (h : fixedS x = fixedS y) : x.g = y.g :=
  (congrArg Tile.g h :)

/-- A general register written is no other change. -/
theorem Tile.fixedS_writeG (x : Tile) (n : Nat) (v : W64) : { fixedS (x.writeG n v) with g := [] } = { fixedS x with g := [] } := by
  unfold Tile.writeG
  split <;> rfl

/-- What an S word that writes one general register and retires answers. -/
theorem sGives_putG {s : State} (he : s.issue.eng = .S) (n : Nat) (v : W64) : SGives s (finish s (.retire (s.putG n v))) n v := by
  have sel : ((here s).writeG n v).perfSel = (here s).perfSel := by
    unfold Tile.writeG
    split <;> rfl
  obtain ⟨t, ht, hn, hf⟩ := finish_retireS he (Tile.writeG_pcs (here s) n v) sel
  refine ⟨t, ht, hn, fun m => ?_, ?_⟩
  · rw [Tile.readG_of_g (g_of_fixedS hf), Tile.readG_writeG]
  · rw [hf, Tile.fixedS_writeG]

/-! ### What LSET and LGET do -/

theorem exec_lset (g : Guard) (f : FmtT) (s : State) : exec (.lset g f) s = execLset g f s := rfl

theorem exec_lget (g : Guard) (f : FmtT) (s : State) : exec (.lget g f) s = execLget g f s := rfl

theorem Tile.layHold_iff (x : Tile) (k : Nat) :
    x.layHold k = true ↔ ∃ c ∈ x.secs, ∃ w ∈ c.words, w.vmLay? c.eng = some k := by
  simp [Tile.layHold]

/-- An entry read depends on the table alone. -/
theorem Tile.readLay_of_layout {x y : Tile} (h : x.layout = y.layout) (k : Nat) : x.readLay k = y.readLay k := by
  simp [Tile.readLay, h]

/-- The tile with word w of layout entry k replaced: reserved bits are ignored (R2, R186). -/
def Tile.setLayWord (x : Tile) (k w : Nat) (v : W64) : Tile := x.writeLay k (layMask (setWord (x.readLay k) w v.toNat))

theorem Tile.readLay_setLayWord_ne (x : Tile) {k j : Nat} (w : Nat) (v : W64) (h : j ≠ k) :
    (x.setLayWord k w v).readLay j = x.readLay j := by
  rw [Tile.setLayWord, Tile.readLay_writeLay, if_neg h]

theorem Tile.word_readLay_setLayWord (x : Tile) (k i : Nat) (v : W64) {w : Nat} (hw : w < 8) :
    bits ((x.setLayWord k i v).readLay k) (64 * w) 64 =
      (if w = i then v.toNat else bits (x.readLay k) (64 * w) 64) &&& layDefined w := by
  rw [Tile.setLayWord, Tile.readLay_writeLay, if_pos rfl, bits_mod_two_pow _ (by omega), word_layMask, word_setWord,
    Nat.mod_eq_of_lt v.isLt]

/-- A layout entry written is no other change. -/
theorem Tile.fixedS_writeLay (x : Tile) (k v : Nat) :
    { fixedS (x.writeLay k v) with layout := [] } = { fixedS x with layout := [] } := rfl

theorem Tile.writeLay_perfSel (x : Tile) (k v : Nat) : (x.writeLay k v).perfSel = x.perfSel := rfl

theorem execLset_on {s : State} {g : Guard} {f : FmtT} (h : SRuns s g [f.ga.toNat]) :
    execLset g f s = finish s (if (here s).layHold f.lay.toNat then .wait s 8
      else .retire (s.putTile ((here s).setLayWord f.lay.toNat f.wd.toNat ((here s).readG f.ga.toNat)))) := by
  obtain ⟨-, hg, full⟩ := h
  rw [execLset, sWord_on hg, Tile.gateG_full (by simpa [tA] using full) (by simp)]
  rfl

theorem execLget_on {s : State} {g : Guard} {f : FmtT} (h : SRuns s g [f.gd.toNat]) :
    execLget g f s = finish s (.retire (s.putG f.gd.toNat
      (BitVec.ofNat 64 (bits ((here s).readLay f.lay.toNat) (64 * f.wd.toNat) 64 &&& layDefined f.wd.toNat)))) := by
  obtain ⟨-, hg, full⟩ := h
  rw [execLget, sWord_on hg, Tile.gateG_full (by simp) full, layField, Nat.add_zero, word_layMask]

/-- Settles O22: LSET replaces a word of an entry by the defined bits of the register once no unretired word names the entry, and
LGET reads them. -/
theorem layoutTableWords : Obligations.LayoutTableWords := by
  refine ⟨fun s g f hs => ⟨fun held => ?_, fun free => ?_⟩, fun s g f hs => ?_⟩
  · rw [exec_lset, execLset_on hs, if_pos ((Tile.layHold_iff ..).mpr held)]
    exact finish_wait 8
  · rw [exec_lset, execLset_on hs, if_neg fun hold => free ((Tile.layHold_iff ..).mp hold)]
    obtain ⟨t, ht, hn, hf⟩ := finish_retireS (y := (here s).setLayWord f.lay.toNat f.wd.toNat ((here s).readG f.ga.toNat)) hs.1
      (Tile.writeLay_pcs ..) (Tile.writeLay_perfSel ..)
    have table := Tile.readLay_of_layout (layout_of_fixedS hf)
    refine ⟨t, ht, hn, fun j hj => ?_, fun w hw => ?_, ?_⟩
    · rw [table, Tile.readLay_setLayWord_ne _ _ _ hj]
    · rw [table]
      exact Tile.word_readLay_setLayWord _ _ _ _ hw
    · rw [hf, Tile.setLayWord, Tile.fixedS_writeLay]
  · rw [exec_lget, execLget_on hs]
    exact sGives_putG hs.1 ..

end Sys2Proof.Machine
end

section
/-! The proof of O59: how the reset state and an idle tile read (R17, R19, R86, R238). -/

namespace Sys2Proof.Machine

open Sys2Proof.Safety

theorem Memory.readN_nil (a n : Nat) : Memory.readN [] a n = List.replicate n 0 := by
  induction n generalizing a with
  | zero => rfl
  | succ n ih =>
    rw [Memory.readN, ih, List.replicate_succ]
    rfl

theorem State.tile_reset (k : Nat) : State.reset.tile k = Tile.idle := rfl

theorem State.readPA1_reset (a : Nat) : State.reset.readPA1 a = 0 := by
  have noEntry : Tab.get? (a / 64) (State.reset.die (dieOfLine (a / 64))).wq = none := rfl
  rw [State.readPA1, noEntry]
  exact ite_self 0

theorem Tile.emptyG_idle (n : Nat) : Tile.idle.emptyG n = false := by
  have full : Tile.idle.gEmpty.getLsbD n = false := BitVec.getLsbD_zero
  rw [Tile.emptyG, full, Bool.and_false]

theorem Tile.readG_idle (n : Nat) : Tile.idle.readG n = 0 := ite_self 0

theorem Tile.readC_idle (n : Nat) : Tile.idle.readC n = (n == 0) := by
  rw [Tile.readC, show Tile.idle.c = 1#8 from rfl, BitVec.getLsbD_one]
  cases n <;> rfl

theorem Tile.sem_idle (n : Nat) : Tile.idle.sem n = 0 := by
  rw [Tile.sem, Memory.readLE, show Tile.idle.sp = [] from rfl, Memory.readN_nil]
  rfl

/-- Settles O59: every table and queue of the reset state is empty, so that a tile, a die and a byte read as their defaults. -/
theorem resetValues : Obligations.ResetValues := by
  refine ⟨rfl, rfl, rfl, fun _ => rfl, rfl, rfl, rfl, rfl, rfl, rfl, rfl, rfl, rfl, State.readPA1_reset, fun k => ?_,
    memoriesOk_reset, tablesOk_reset⟩
  rw [State.tile_reset]
  exact ⟨rfl, fun n => ⟨Tile.readG_idle n, rfl, rfl, Tile.emptyG_idle n, BitVec.getLsbD_zero, Tile.sem_idle n, rfl⟩,
    Tile.readC_idle, rfl, rfl, rfl, rfl⟩

end Sys2Proof.Machine
end

section
/-! The proof of O5: every arm of `exec` answers a next state, and so does every turn and every item of the agenda (R17, log 1). -/

namespace Sys2Proof.Machine

/-- An outcome is a next state: no fault and no refusal. -/
def Answers (r : Res) : Prop := ∃ t, r = .next t

theorem answers_next (t : State) : Answers (.next t) := ⟨t, rfl⟩

theorem answers_finish (s : State) (e : Ending) : Answers (finish s e) := answers_next _

theorem answers_ite {c : Prop} [Decidable c] {a b : Res} (ha : Answers a) (hb : Answers b) : Answers (if c then a else b) := by
  split
  · exact ha
  · exact hb

/-- A compare or predicate word answers at once in its `.z` form with no lane enabled, and else as it ends. -/
theorem answers_pairWord (s : State) (g : Guard) (pt pf : Nat) (z : Bool) (k : Tile → PMask → Ending) :
    Answers (pairWord s g pt pf z k) :=
  answers_ite (answers_next _) (answers_finish ..)

theorem answers_vtog (g : Guard) (f : FmtV3) (s : State) : Answers (execVtog g f s) :=
  answers_ite (answers_next _) (answers_finish ..)

theorem answers_loop (g : Guard) (f : FmtS) (s : State) : Answers (execLoop g f s) := by
  unfold execLoop
  refine answers_ite (answers_finish ..) ?_
  split
  · exact answers_finish ..
  · exact answers_ite (answers_finish ..) (answers_next _)

/-- A word of the tables and most events answer through `finish`, or as one next state, by definition. The arms listed first have
branches of their own, each of which does. -/
theorem exec_answers (i : Instr) (s : State) : Answers (exec i s) := by
  cases i
  case loop g f => exact answers_loop g f s
  case lrec g f => exact answers_ite (answers_finish ..) (answers_finish ..)
  case cmp g f | cmpi g f => exact answers_ite (answers_next _) (answers_finish ..)
  case vtog g f => exact answers_vtog g f s
  case vcmp | vcmpi | vfcmp | vfclass | vplog | vpcnt | vpfind | vpmov =>
    dsimp only [exec, execVcmp, execVcmpi, execVfcmp, execVfclass, execVplog, execVpcnt, execVpfind, execVpmov, vpWord, predWord]
    exact answers_pairWord ..
  case mmaStep | rrelComplete | launchSlotFree | pointFire | listLaunchStart | pointStart | pointComplete | clearing |
      workListDeadlock | commandAccept | elementPerform | queuePush | commandRetire | sectionForward | sectionStart | bar2Write |
      bar2Read | bar4Write | bar4Read | faultRecordEnter | migrationRewalk | writeQueueOperation | writeQueueDrain | shootdownAck |
      completionTimeout | remotePageAccess | eccCorrected | uncorrectableSoftError | orderingPointRelease | controlWrite |
      contextSave | contextRestore | checkpointMark | prepare | ready | refuse | commit | abort | gangPrepareTimeout |
      gangMemberLost | mark | marked | gangResume | gangCompletion | linkDown | linkUp | clockStep | thermalThrottle | thermalTrip |
      attestationReport | scheduleCycleTick | temperRestart | inflightWrite | quenchEdge | blazeMarker =>
    dsimp only [exec, execMmaStep, execRrelComplete, execLaunchSlotFree, execPointFire, execListLaunchStart, execPointStart,
      execPointComplete, execClearing, execWorkListDeadlock, execCommandAccept, execElementPerform, execQueuePush,
      execCommandRetire, execSectionForward, execSectionStart, execBar2Write, execBar2Read, execBar4Write, execBar4Read,
      execFaultRecordEnter, execMigrationRewalk, execWriteQueueOperation, execWriteQueueDrain, execShootdownAck,
      execCompletionTimeout, execRemotePageAccess, execEccCorrected, execUncorrectableSoftError, execOrderingPointRelease,
      execControlWrite, execContextSave, execContextRestore, execCheckpointMark, execPrepare, execReady, execRefuse, execCommit,
      execAbort, execGangPrepareTimeout, execGangMemberLost, execMark, execMarked, execGangResume, execGangCompletion,
      execLinkDown, execLinkUp, execClockStep, execThermalThrottle, execThermalTrip, execAttestationReport,
      execScheduleCycleTick, execTemperRestart, execInflightWrite, execQuenchEdge, execBlazeMarker]
    repeat' split
    all_goals exact answers_next _
  all_goals exact answers_next _

/-! ### Turns and items of the agenda -/

theorem answers_runWord (s : State) (e : Engine) (i : Issue) (w : FwdWord) : Answers (s.runWord e i w) := by
  refine answers_ite (answers_next _) ?_
  split
  · exact exec_answers ..
  · exact answers_next _

theorem answers_runParts (s : State) (t : Nat) (e : Engine) (i : Issue) (w : FwdWord) (late : Bool) :
    Answers (s.runParts t e i w late) := by
  dsimp only [State.runParts]
  split
  · exact answers_next _
  · exact answers_runWord ..

theorem answers_turnS (s : State) (t : Nat) (late : Bool) : Answers (s.turnS t late) := by
  refine answers_ite (answers_next _) (answers_ite ?header (answers_ite (answers_next _) ?word))
  case header =>
    split
    · exact answers_ite (exec_answers ..) (exec_answers ..)
    · exact exec_answers ..
  case word =>
    split
    · exact answers_next _
    · exact exec_answers ..

theorem answers_turn (s : State) (t : Nat) (e : Engine) (late : Bool) : Answers (s.turn t e late) := by
  refine answers_ite (exec_answers ..) (answers_ite (exec_answers ..) (answers_ite (exec_answers ..) ?_))
  split
  · exact answers_ite (answers_runParts ..) (answers_runWord ..)
  · exact answers_next _

theorem answers_runEngine (s : State) (t : Nat) (e : Engine) (late : Bool) : Answers (s.runEngine t e late) :=
  answers_ite (answers_turnS ..) (answers_turn ..)

theorem answers_actOn (s : State) (a : Act) : Answers (s.actOn a) := by
  cases a with
  | run t e | runLate t e => exact answers_ite (answers_runEngine ..) (answers_next _)
  | event i => exact answers_ite (answers_next _) (exec_answers ..)
  | land | perform | keep | drop | load | image => exact answers_next _

theorem answers_act (s : State) (a : Act) : Answers (s.act a) := by
  obtain ⟨u, hu⟩ := answers_actOn s a
  rw [State.act, hu]
  exact answers_next _

/-- Settles O5: every arm of `exec`, and so every turn and every item of the agenda, answers a next state; what is left of `step` is
the empty agenda, where power decides. -/
theorem stepStopsOnlyWithoutPower : Obligations.StepStopsOnlyWithoutPower := by
  refine ⟨exec_answers, fun s ⟨hon, hag⟩ => by simp [step, hon, hag], fun s h => ?_⟩
  unfold step
  split
  · exact answers_act ..
  next hag =>
    have hon : s.on = true := by simpa [hag] using h
    rw [if_pos hon]
    exact answers_act ..

end Sys2Proof.Machine
end

section
/-! The refutation of O57: a wipe replaces the module's transfer dies, T0 to T7, and leaves an entry of the table under any other number
as it is. -/

namespace Sys2Proof.Machine

/-- Dies set one after another, each to a function of what it was in s. -/
theorem State.die_foldl_setDie (s : State) (f : Die → Die) (ds : List Nat) (s0 : State) (e : Nat) :
    (ds.foldl (fun s' d => s'.setDie d (f (s.die d))) s0).die e = if e ∈ ds then f (s.die e) else s0.die e := by
  induction ds generalizing s0 with
  | nil => rfl
  | cons d ds ih =>
    rw [List.foldl_cons, ih, State.die_setDie]
    by_cases hd : e = d
    · subst hd
      simp
    · simp [hd]

theorem State.die_mapDies (s : State) (f : Die → Die) (e : Nat) :
    (s.mapDies f).die e = if e < Config.numDies then f (s.die e) else s.die e := by
  rw [State.mapDies, State.die_foldl_setDie]
  simp only [List.mem_range]

theorem State.die_wipe (s : State) (e : Nat) : s.wipe.die e = if e < Config.numDies then (s.die e).wiped else s.die e :=
  State.die_mapDies s Die.wiped e

/-- The reset state with a shootdown pending at a die of number 8, which the module does not have. -/
def ninthDiePending : State := State.reset.setDie 8 { shootPend := true }

theorem shootPend_wipe_ninthDiePending : (ninthDiePending.wipe.die 8).shootPend = true := by
  rw [State.die_wipe, if_neg (by decide), ninthDiePending, State.die_setDie, if_pos rfl]

/-- Refutes O57: its clause on a wipe speaks of the die of every number d, without d < 8. In `ninthDiePending` the shootdown that the
table holds under number 8 is still pending after the wipe. -/
theorem not_lifeCycle : ¬ Obligations.LifeCycle := by
  rintro ⟨-, wiped, -⟩
  obtain ⟨-, -, -, -, -, -, -, -, -, -, -, -, dies⟩ := wiped ninthDiePending
  obtain ⟨-, -, -, -, -, -, pending, -⟩ := dies 8
  exact Bool.noConfusion (shootPend_wipe_ninthDiePending.symm.trans pending)

end Sys2Proof.Machine
end

section
/-! The refutation of O52: a stray decrement writes its record into the fault queue, which lies in module memory (R192, R310, R341). -/

namespace Sys2Proof.Machine

open Sys2Proof.Safety

/-- The reset state with the fault queue enabled and empty, with room for one record at address 4096. -/
def withFaultQueue : State := { State.reset with fq := { base := 4096, en := true } }

/-- A decrement of the submission queue that reaches the node at address 0 of context 0. -/
def strayDec : Dec := { node := 0, ctx := 0, priv := 7, src := 0, lid := 0 }

/-- The node is there, with every word 0: a kernel whose pending count is 0. -/
theorem nodeAt_strayDec : withFaultQueue.nodeAt strayDec.ctx strayDec.node = some 0#512 := by decide +kernel

theorem applyDec_strayDec : withFaultQueue.applyDec strayDec = some (withFaultQueue.recStray 0 (2 ^ 63) 0, []) := by
  decide +kernel

/-- The last byte of W0 of the record holds its kind, 8, in its upper half. -/
theorem readPA1_recStray : (withFaultQueue.recStray 0 (2 ^ 63) 0).readPA1 4103 = 0x80 := by decide +kernel

theorem readPA1_withFaultQueue (a : Nat) : withFaultQueue.readPA1 a = 0 := State.readPA1_reset a

/-- Refutes O52: of a decrement whose count is 0 it says that no byte of module memory differs. With the fault queue enabled, as in
`withFaultQueue`, a kind 8 record is written to it, and byte 4103 becomes 0x80. -/
theorem not_launchWord : ¬ Obligations.LaunchWord := by
  rintro ⟨-, decrement, -⟩
  have kind : (0#512).toNat % 16 ≤ 5 := by rw [BitVec.toNat_zero]; decide
  have count : (0#512).toNat / 2 ^ 16 % 2 ^ 16 = 0 := by rw [BitVec.toNat_zero, Nat.zero_div, Nat.zero_mod]
  obtain ⟨-, -, stray⟩ := decrement withFaultQueue withFaultQueue strayDec 0#512 nodeAt_strayDec kind
  obtain ⟨u, answer, same, -⟩ := stray count
  have record : u = withFaultQueue.recStray 0 (2 ^ 63) 0 :=
    (Prod.mk.inj (Option.some.inj (answer.symm.trans applyDec_strayDec))).1
  have kept : u.readPA1 4103 = withFaultQueue.readPA1 4103 := same 4103
  rw [record, readPA1_recStray, readPA1_withFaultQueue] at kept
  exact absurd kept (by decide)

end Sys2Proof.Machine
end

section
/-! SUPPORT for O45: what the S engine finds at a header, the check of a section's words, and their captures (R46, R66, R67, R72). -/

namespace Sys2Proof.Machine

open Sys2Proof.Safety

/-! ### Slots whose old contents nobody may find (R300) -/

/-- The slots at n addresses from a up, as the scratchpad holds them. -/
def Tile.slots (x : Tile) (a n : Nat) : List Slot := (List.range' a n).map x.slotAt

@[simp] theorem Tile.length_slots (x : Tile) (a n : Nat) : (x.slots a n).length = n := by simp [Tile.slots]

theorem Tile.getElem_slots (x : Tile) (a n i : Nat) (hi : i < (x.slots a n).length) : (x.slots a n)[i] = x.slotAt (a + i) := by
  simp [Tile.slots]

theorem Tile.mem_slots {x : Tile} {a n : Nat} {w : Slot} : w ∈ x.slots a n ↔ ∃ i, i < n ∧ w = x.slotAt (a + i) := by
  simp only [List.mem_iff_getElem, Tile.getElem_slots, Tile.length_slots]
  constructor
  · rintro ⟨i, hi, rfl⟩
    exact ⟨i, hi, rfl⟩
  · rintro ⟨i, hi, rfl⟩
    exact ⟨i, hi, rfl⟩

theorem decodeAt_of_codeOld {s : State} {t : Nat} (hc : (s.tile t).codeOld = []) (a : Nat) :
    s.decodeAt t a = ((s.tile t).slotAt a, s) := by
  simp [State.decodeAt, hc]

theorem decodeRun_of_codeOld {s : State} {t : Nat} (hc : (s.tile t).codeOld = []) (a n : Nat) :
    s.decodeRun t a n = ((s.tile t).slots a n, s) := by
  induction n generalizing a with
  | zero => rfl
  | succ n ih =>
    simp only [State.decodeRun, decodeAt_of_codeOld hc, ih]
    rfl

/-! ### The header at PC -/

theorem decodePC_of_codeOld {s : State} {t : Nat} (hs : (s.tile t).standing = none) (hc : (s.tile t).codeOld = []) :
    s.decodePC t = ((s.tile t).slotAt (s.tile t).pc.toNat, s) := by
  simp [State.decodePC, hs, hc]

theorem breakAt_of_breakHit {s : State} {t : Nat} (h : (s.tile t).breakHit s.scyc.toNat (s.tile t).pc.toNat = none) (num : Nat) :
    s.breakAt t num = none := by
  simp [State.breakAt, h]

theorem fetchH_of_standsAtHeader {s : State} {k : Nat} {h : Header} (hs : StandsAtHeader s k h) : s.fetchH k = .hdr h s := by
  obtain ⟨-, -, inPC, header, inLen, standing, codeOld, noBreak⟩ := hs
  simp [State.fetchH, inPC, decodePC_of_codeOld standing codeOld, header, inLen, breakAt_of_breakHit noBreak]

theorem exec_sectionForward {s : State} {k : Nat} {h : Header} (hs : StandsAtHeader s k h) (he : 1 ≤ h.eng.toNat) :
    exec (.sectionForward k) s = .next (s.forward k h) := by
  obtain ⟨ready, between, -⟩ := id hs
  have notS : h.eng ≠ 0#3 := by
    rintro h0
    simp [h0] at he
  change execSectionForward k s = _
  simp [execSectionForward, ready, between, fetchH_of_standsAtHeader hs, notS]

theorem exec_sectionStart_S {s : State} {k : Nat} {h : Header} (hs : StandsAtHeader s k h) (he : h.eng = 0) :
    exec (.sectionStart k .S) s = .next (s.beginS k h) := by
  obtain ⟨ready, between, -⟩ := id hs
  change execSectionStart k .S s = _
  simp [execSectionStart, ready, between, fetchH_of_standsAtHeader hs, he]

/-- An engine's code, read back. -/
theorem code_engOf {n : Nat} (h : n ≤ 5) : (engOf n).code = n := by
  interval_cases n <;> rfl

/-! ### The check of a section's words (R72) -/

theorem slotClass_of_decode {w : Slot} {j : Instr} (h : decode w = .ok j) : slotClass w ≤ 5 := by
  unfold decode at h
  split at h
  · cases h
  next hc => exact Nat.le_of_lt_succ (Nat.lt_of_not_le hc)

theorem wordFault_of_class {e : Engine} {w : Slot} (h5 : slotClass w ≤ 5) (he : slotClass w ≠ e.code) :
    wordFault e w = some (2, slotClass w + 16 * e.code) := by
  simp [wordFault, h5, he]

theorem wordFault_of_not_decode {e : Engine} {w : Slot} (hc : slotClass w = e.code ∨ 6 ≤ slotClass w) (hd : ∀ j, decode w ≠ .ok j) :
    wordFault e w = some (1, 0) := by
  have other : (decide (slotClass w ≤ 5) && slotClass w != e.code) = false := by
    rcases hc with hc | hc
    · simp [hc]
    · simp [show ¬ slotClass w ≤ 5 by omega]
  cases h : decode w with
  | ok j => exact absurd h (hd j)
  | error _ => simp [wordFault, other, h]

theorem wordFault_of_decode {e : Engine} {w : Slot} {j : Instr} (hc : slotClass w = e.code) (hd : decode w = .ok j) :
    wordFault e w = none := by
  simp [wordFault, hc, hd]

theorem firstBadWord_none {e : Engine} {ws : List Slot} (h : ∀ w ∈ ws, wordFault e w = none) (a : Nat) :
    firstBadWord e a ws = none := by
  induction ws generalizing a with
  | nil => rfl
  | cons w ws ih =>
    rw [firstBadWord, h w (List.mem_cons_self ..)]
    exact ih (fun v hv => h v (List.mem_cons_of_mem _ hv)) _

/-- The lowest word that fails a check is the one reported. -/
theorem firstBadWord_some {e : Engine} {ws : List Slot} {i cause data : Nat} (hi : i < ws.length)
    (bad : wordFault e ws[i] = some (cause, data)) (below : ∀ j (hj : j < i), wordFault e ws[j] = none) (a : Nat) :
    firstBadWord e a ws = some (a + i, cause, data) := by
  induction ws generalizing a i with
  | nil => exact absurd hi (Nat.not_lt_zero _)
  | cons w ws ih =>
    cases i with
    | zero =>
      rw [List.getElem_cons_zero] at bad
      rw [firstBadWord, bad]
      rfl
    | succ i =>
      have first : wordFault e w = none := below 0 (Nat.succ_pos _)
      rw [firstBadWord, first]
      have := ih (Nat.lt_of_succ_lt_succ hi) bad (fun j hj => below (j + 1) (Nat.succ_lt_succ hj)) (a + 1)
      rw [show a + (i + 1) = a + 1 + i by omega]
      exact this

/-! ### Captures (R66, R87) -/

@[simp] theorem Tile.length_fwdWords (x : Tile) (a q : Nat) (ws : List Slot) : (x.fwdWords a q ws).length = ws.length := by
  induction ws generalizing a q with
  | nil => rfl
  | cons w ws ih => simp [Tile.fwdWords, ih]

theorem Tile.getElem_fwdWords (x : Tile) (a q : Nat) (ws : List Slot) (i : Nat) (hi : i < (x.fwdWords a q ws).length)
    (hw : i < ws.length) : (x.fwdWords a q ws)[i] = ⟨rotateSlot x.rb ws[i], a + i, x.capture ws[i] (q + i)⟩ := by
  induction ws generalizing a q i with
  | nil => exact absurd hw (Nat.not_lt_zero _)
  | cons w ws ih =>
    cases i with
    | zero => rfl
    | succ i =>
      simp only [Tile.fwdWords, List.getElem_cons_succ]
      rw [ih _ _ _ _ (Nat.lt_of_succ_lt_succ hw), Nat.add_right_comm a, Nat.add_right_comm q]
      rfl

/-- A predicate's name has four bits. -/
theorem namedPreds_lt {w : Slot} {p : Nat} (h : p ∈ namedPreds w) : p < 16 := by
  have four : ∀ x lo, bits x lo 4 < 16 := fun x lo => Nat.mod_lt _ (by decide)
  unfold namedPreds at h
  rcases List.mem_append.mp h with h | h
  · simp only [List.mem_cons, List.not_mem_nil, or_false] at h
    rcases h with rfl | rfl | rfl <;> exact four ..
  · split at h
    · simp only [List.mem_cons, List.not_mem_nil, or_false] at h
      rcases h with rfl | rfl | rfl <;> exact four ..
    · exact absurd h List.not_mem_nil

/-- Bit p of a mask into which the names of a list are put where they satisfy `on`. -/
theorem getLsbD_foldl_names (on : Nat → Bool) (ns : List Nat) (m : BitVec 16) {p : Nat} (hp : p < 16) :
    (ns.foldl (fun m n => if on n then m ||| (1#16 <<< n) else m) m).getLsbD p = (m.getLsbD p || (decide (p ∈ ns) && on p)) := by
  induction ns generalizing m with
  | nil => simp
  | cons n ns ih =>
    have one : (1#16 <<< n).getLsbD p = decide (p = n) := by
      rw [BitVec.getLsbD_shiftLeft, BitVec.getLsbD_one]
      by_cases h : p < n
      · simp [hp, h, Nat.ne_of_lt h]
      · simp [hp, h, show p - n = 0 ↔ p = n by omega]
    rw [List.foldl_cons, ih]
    by_cases h : p = n
    · subst h
      cases on p <;> simp [one]
    · cases on n <;> simp [one, h]

theorem Tile.getLsbD_capPreds (x : Tile) {w : Slot} {p : Nat} (hp : p ∈ namedPreds w) (hc : 8 ≤ p ∨ 4 ≤ slotClass w) :
    (x.capPreds w).getLsbD p = x.readCS p := by
  rw [Tile.capPreds, getLsbD_foldl_names _ _ _ (namedPreds_lt hp)]
  have cond : (decide (8 ≤ p) || decide (4 ≤ slotClass w)) = true := by simpa using hc
  simp [hp, cond]

/-! ### Registers that a section's VTOGs empty (R155) -/

theorem Tile.emptyG_markG (x : Tile) (g : Nat) {k : Nat} (hk : k < 64) :
    (x.markG g true).emptyG k = (x.emptyG k || (k != 0 && decide (k = g))) := by
  unfold Tile.markG Tile.emptyG
  by_cases hg : g = 0
  · subst hg
    by_cases h : k = 0 <;> simp [h]
  · have one : (1#64 <<< g).getLsbD k = decide (k = g) := by
      rw [BitVec.getLsbD_shiftLeft, BitVec.getLsbD_one]
      by_cases h : k < g
      · simp [hk, h, Nat.ne_of_lt h]
      · simp [hk, h, show k - g = 0 ↔ k = g by omega]
    simp only [hg, if_false, if_true, BitVec.getLsbD_or, one]
    cases k != 0 <;> simp

theorem Tile.emptyG_foldl_markG (x : Tile) (gs : List Nat) {k : Nat} (hk : k < 64) :
    (gs.foldl (fun z g => z.markG g true) x).emptyG k = (x.emptyG k || (k != 0 && decide (k ∈ gs))) := by
  induction gs generalizing x with
  | nil => simp
  | cons g gs ih =>
    rw [List.foldl_cons, ih, Tile.emptyG_markG x g hk, Bool.or_assoc, ← Bool.and_or_distrib_left]
    simp only [List.mem_cons, Bool.decide_or]

theorem Tile.markG_eq (x : Tile) (g : Nat) (b : Bool) : ∃ m, x.markG g b = { x with gEmpty := m } := by
  unfold Tile.markG
  split
  · exact ⟨x.gEmpty, rfl⟩
  · exact ⟨_, rfl⟩

theorem Tile.foldl_markG_eq (x : Tile) (gs : List Nat) : ∃ m, gs.foldl (fun z g => z.markG g true) x = { x with gEmpty := m } := by
  induction gs generalizing x with
  | nil => exact ⟨x.gEmpty, rfl⟩
  | cons g gs ih =>
    obtain ⟨m, hm⟩ := Tile.markG_eq x g true
    obtain ⟨m', hm'⟩ := ih (x.markG g true)
    exact ⟨m', by rw [List.foldl_cons, hm', hm]⟩

/-! ### Older contents that a section no longer reads (R294) -/

theorem OldCopy.follows_iff (named : List Nat) (c : OldCopy) :
    c.follows named = true ↔ ∃ r ∈ c.ended, ∃ q ∈ named, r.sec = some q := by
  simp only [OldCopy.follows, List.any_eq_true]
  refine exists_congr fun r => and_congr_right fun _ => ?_
  cases r.sec <;> simp

theorem OldCopy.endedFor_iff (c : OldCopy) (f : Engine) (p : Nat) :
    c.endedFor f p = true ↔ ∃ r ∈ c.ended, r.eng = f ∧ r.lo ≤ p ∧ ∀ m, r.hi = some m → p < m := by
  simp only [OldCopy.endedFor, List.any_eq_true]
  refine exists_congr fun r => and_congr_right fun _ => ?_
  cases r.hi <;> simp [and_assoc]

/-- A section's span ends the accesses that are the section's. -/
theorem endedFor_span (c : OldCopy) (d : Section) (f : Engine) (p : Nat) :
    OldCopy.endedFor { c with ended := [d.span] } f p = true ↔ OfSection d f p := by
  rw [OldCopy.endedFor_iff]
  simp only [List.mem_singleton, exists_eq_left]
  unfold Section.span OfSection
  by_cases hx : d.eng = .X
  · simp only [hx, if_true]
    cases d.words <;> simp [eq_comm]
  · simp [hx, eq_comm]

theorem bareCopy_follow (named : List Nat) (r : Ended) (c : OldCopy) : bareCopy (OldCopy.follow named r c) = bareCopy c := by
  unfold OldCopy.follow
  split <;> rfl

/-- Where each of the contents kept is kept on with an entry more, the accesses of that entry no longer read those that follow. -/
theorem endsAlso_follow {x y : Tile} (named : List Nat) (d : Section) (h : y.copies = x.copies.map (OldCopy.follow named d.span)) :
    EndsAlso x y fun o f p => (∃ r ∈ o.ended, ∃ q ∈ named, r.sec = some q) ∧ OfSection d f p := by
  refine ⟨?_, fun i c c' hc hc' f p => ?_⟩
  · rw [h, List.map_map]
    exact List.map_congr_left fun c _ => bareCopy_follow ..
  · rw [h, List.getElem?_map, hc, Option.map_some] at hc'
    obtain rfl := Option.some.inj hc'
    rw [OldCopy.endedFor_follow, Bool.or_eq_true, Bool.and_eq_true, endedFor_span, OldCopy.follows_iff]

end Sys2Proof.Machine
end

section
/-! The proof of O45: forwarding a section, beginning an S section, and starting a forwarded one (R66 to R72, R87, R113, R294). -/

namespace Sys2Proof.Machine

open Sys2Proof.Safety

/-! ### Forwarding -/

/-- The slots behind the header at PC that are the section's words. -/
def Tile.bodySlots (x : Tile) (h : Header) : List Slot := x.slots (x.pc.toNat + 1) h.len.toNat

/-- A general register that a word captures, or the target of a VTOG, is empty. -/
def Tile.awaits (x : Tile) (w : Slot) : Prop :=
  (∃ g ∈ captured w, x.emptyG g = true) ∨ ∃ g, vtogTarget w = some g ∧ x.emptyG g = true

/-- The section of the header at PC as it is forwarded now. -/
def Tile.sectionAt (x : Tile) (h : Header) : Section :=
  let e := engOf h.eng.toNat
  { eng := e, hdr := h, hdrAddr := x.pc.toNat, seq := x.seqNext, tag := x.tagNow, gens := x.records,
    deps := (x.depsOf h e).filter x.live, words := x.fwdWords (x.pc.toNat + 1) x.xq (x.bodySlots h) }

/-- The tile with that section in its queue, and fetch behind it. -/
def Tile.queueSection (x : Tile) (h : Header) : Tile :=
  let e := engOf h.eng.toNat
  { x with
    secs := x.secs ++ [x.sectionAt h]
    copies := x.copies.map (OldCopy.follow (x.depsOf h e) (x.sectionAt h).span)
    seqNext := x.seqNext + 1
    lastSec := Assoc.set 0 (256 * e.code + h.num.toNat) (x.seqNext + 1) x.lastSec
    xq := if e == Engine.X then (x.xq + h.len.toNat) % 2 ^ 32 else x.xq
    pc := BitVec.ofNat 20 (x.pc.toNat + 1 + h.len.toNat)
    atLoop := false, bpPassed := false, standing := none }

/-- The same with the targets of its VTOGs empty, and the S engine waiting no longer. -/
def Tile.forwarded (x : Tile) (h : Header) : Tile :=
  (((x.bodySlots h).filterMap vtogTarget).foldl (fun z g => z.markG g true) (x.queueSection h)).setWait .S 0

/-- What becomes of a section that nothing holds back: a trap at its lowest bad word, a wait for an empty register, or its place in the
queue. -/
def State.forwardBody (s : State) (k : Nat) (h : Header) : State :=
  let x := s.tile k
  match firstBadWord (engOf h.eng.toNat) (x.pc.toNat + 1) (x.bodySlots h) with
  | some (addr, cause, data) => s.trapS k addr h.num.toNat true cause data
  | none =>
    if ((x.bodySlots h).flatMap captured).any x.emptyG || ((x.bodySlots h).filterMap vtogTarget).any x.emptyG then s.waitS k 3
    else s.setTile k (x.forwarded h)

section
variable {s : State} {k : Nat} {h : Header}

theorem forward_eq (hc : (s.tile k).codeOld = []) :
    s.forward k h =
      if (s.tile k).stop.isSome then s.waitS k 7
      else if h.gfence == 1 && !(s.tile k).drained then s.waitS k 8
      else if (s.tile k).slipHold then s.waitS k 5
      else if (s.tile k).queueFull (engOf h.eng.toNat) h.len.toNat then s.waitS k 4
      else s.forwardBody k h := by
  simp only [State.forward, decodeRun_of_codeOld hc]
  rfl

theorem gfence_iff : (h.gfence == 1 && !(s.tile k).drained) = true ↔ h.gfence = 1 ∧ (s.tile k).drained = false := by
  simp

theorem forward_stop (hc : (s.tile k).codeOld = []) (hs : (s.tile k).stop ≠ none) : s.forward k h = s.waitS k 7 := by
  rw [forward_eq hc, if_pos (Option.isSome_iff_ne_none.mpr hs)]

variable (hc : (s.tile k).codeOld = []) (hs : (s.tile k).stop = none)
include hc hs

theorem forward_gfence (hf : h.gfence = 1 ∧ (s.tile k).drained = false) : s.forward k h = s.waitS k 8 := by
  rw [forward_eq hc, hs, if_neg (by decide), if_pos (gfence_iff.mpr hf)]

variable (hf : ¬ (h.gfence = 1 ∧ (s.tile k).drained = false))
include hf

theorem forward_slip (hd : (s.tile k).slipHold = true) : s.forward k h = s.waitS k 5 := by
  rw [forward_eq hc, hs, if_neg (by decide), if_neg (mt gfence_iff.mp hf), if_pos hd]

variable (hd : (s.tile k).slipHold = false)
include hd

theorem forward_full (hq : (s.tile k).queueFull (engOf h.eng.toNat) h.len.toNat = true) : s.forward k h = s.waitS k 4 := by
  rw [forward_eq hc, hs, if_neg (by decide), if_neg (mt gfence_iff.mp hf), hd, if_neg (by decide), if_pos hq]

theorem forward_room (hq : (s.tile k).queueFull (engOf h.eng.toNat) h.len.toNat = false) : s.forward k h = s.forwardBody k h := by
  rw [forward_eq hc, hs, if_neg (by decide), if_neg (mt gfence_iff.mp hf), hd, if_neg (by decide), hq, if_neg (by decide)]

end

/-! ### The body of a section that nothing holds back -/

section
variable {s : State} {k : Nat} {h : Header}

theorem any_empty_iff (x : Tile) (ws : List Slot) :
    ((ws.flatMap captured).any x.emptyG || (ws.filterMap vtogTarget).any x.emptyG) = true ↔ ∃ w ∈ ws, x.awaits w := by
  simp only [Bool.or_eq_true, List.any_eq_true, List.mem_flatMap, List.mem_filterMap, Tile.awaits]
  constructor
  · rintro (⟨g, ⟨w, hw, hg⟩, he⟩ | ⟨g, ⟨w, hw, hg⟩, he⟩)
    · exact ⟨w, hw, .inl ⟨g, hg, he⟩⟩
    · exact ⟨w, hw, .inr ⟨g, hg, he⟩⟩
  · rintro ⟨w, hw, ⟨g, hg, he⟩ | ⟨g, hg, he⟩⟩
    · exact .inl ⟨g, ⟨w, hw, hg⟩, he⟩
    · exact .inr ⟨g, ⟨w, hw, hg⟩, he⟩

theorem forwardBody_bad {addr cause data : Nat}
    (hb : firstBadWord (engOf h.eng.toNat) ((s.tile k).pc.toNat + 1) ((s.tile k).bodySlots h) = some (addr, cause, data)) :
    s.forwardBody k h = s.takeTrap (s.issueS k addr h.num.toNat) true cause data := by
  simp only [State.forwardBody, hb]
  rfl

theorem forwardBody_awaits (hb : firstBadWord (engOf h.eng.toNat) ((s.tile k).pc.toNat + 1) ((s.tile k).bodySlots h) = none)
    (ha : ∃ w ∈ (s.tile k).bodySlots h, (s.tile k).awaits w) : s.forwardBody k h = s.waitS k 3 := by
  simp only [State.forwardBody, hb, (any_empty_iff ..).mpr ha, if_true]

theorem forwardBody_joins (hb : firstBadWord (engOf h.eng.toNat) ((s.tile k).pc.toNat + 1) ((s.tile k).bodySlots h) = none)
    (ha : ¬ ∃ w ∈ (s.tile k).bodySlots h, (s.tile k).awaits w) : s.forwardBody k h = s.setTile k ((s.tile k).forwarded h) := by
  have full := mt (any_empty_iff ..).mp ha
  simp only [State.forwardBody, hb, if_neg full]

end

/-! What a forwarded section leaves of its tile. -/

section
variable (x : Tile) (h : Header)

/-- Forwarding changes what `queueSection` changes, which registers are empty, and why the S engine waits. -/
theorem Tile.forwarded_eq :
    ∃ m, x.forwarded h = { x.queueSection h with gEmpty := m, waits := Assoc.set 0 0 0 x.waits } := by
  obtain ⟨m, hm⟩ := Tile.foldl_markG_eq (x.queueSection h) ((x.bodySlots h).filterMap vtogTarget)
  exact ⟨m, by rw [Tile.forwarded, hm]; rfl⟩

theorem Tile.forwarded_waitWhy : (x.forwarded h).waitWhy .S = 0 := Tile.waitWhy_setWait ..

theorem Tile.forwarded_secs : (x.forwarded h).secs = x.secs ++ [x.sectionAt h] := by
  obtain ⟨m, hm⟩ := Tile.forwarded_eq x h
  rw [hm]
  rfl

theorem Tile.forwarded_seqNext : (x.forwarded h).seqNext = x.seqNext + 1 := by
  obtain ⟨m, hm⟩ := Tile.forwarded_eq x h
  rw [hm]
  rfl

theorem Tile.forwarded_pc : (x.forwarded h).pc.toNat = (x.pc.toNat + 1 + h.len.toNat) % 2 ^ 20 := by
  obtain ⟨m, hm⟩ := Tile.forwarded_eq x h
  rw [hm]
  exact BitVec.toNat_ofNat ..

theorem Tile.forwarded_copies :
    (x.forwarded h).copies = x.copies.map (OldCopy.follow (x.depsOf h (engOf h.eng.toNat)) (x.sectionAt h).span) := by
  obtain ⟨m, hm⟩ := Tile.forwarded_eq x h
  rw [hm]
  rfl

theorem Tile.forwarded_xq : (x.forwarded h).xq = if engOf h.eng.toNat = .X then (x.xq + h.len.toNat) % 2 ^ 32 else x.xq := by
  obtain ⟨m, hm⟩ := Tile.forwarded_eq x h
  rw [hm]
  exact if_congr beq_iff_eq rfl rfl

theorem Tile.forwarded_emptyG {g : Nat} (hg : g < 64) :
    (x.forwarded h).emptyG g = (x.emptyG g || (g != 0 && decide (∃ w ∈ x.bodySlots h, vtogTarget w = some g))) := by
  have marks := Tile.emptyG_foldl_markG (x.queueSection h) ((x.bodySlots h).filterMap vtogTarget) hg
  simp only [List.mem_filterMap] at marks
  exact marks

end

/-! The words of the section, each by its place behind the header. -/

section
variable (x : Tile) (h : Header)

theorem Tile.mem_bodySlots {w : Slot} : w ∈ x.bodySlots h ↔ ∃ i, i < h.len.toNat ∧ w = x.slotAt (x.pc.toNat + 1 + i) :=
  Tile.mem_slots

theorem Tile.exists_mem_bodySlots (p : Slot → Prop) :
    (∃ w ∈ x.bodySlots h, p w) ↔ ∃ i, i < h.len.toNat ∧ p (x.slotAt (x.pc.toNat + 1 + i)) := by
  simp only [Tile.mem_bodySlots]
  constructor
  · rintro ⟨_, ⟨i, hi, rfl⟩, hp⟩
    exact ⟨i, hi, hp⟩
  · rintro ⟨i, hi, hp⟩
    exact ⟨_, ⟨i, hi, rfl⟩, hp⟩

@[simp] theorem Tile.length_bodySlots : (x.bodySlots h).length = h.len.toNat := Tile.length_slots ..

theorem Tile.firstBadWord_none (good : ∀ i, i < h.len.toNat → wordFault (engOf h.eng.toNat) (x.slotAt (x.pc.toNat + 1 + i)) = none) :
    firstBadWord (engOf h.eng.toNat) (x.pc.toNat + 1) (x.bodySlots h) = none := by
  refine Machine.firstBadWord_none (fun w hw => ?_) _
  obtain ⟨i, hi, rfl⟩ := (Tile.mem_bodySlots x h).mp hw
  exact good i hi

theorem Tile.firstBadWord_some {i cause data : Nat} (hi : i < h.len.toNat)
    (bad : wordFault (engOf h.eng.toNat) (x.slotAt (x.pc.toNat + 1 + i)) = some (cause, data))
    (below : ∀ j, j < i → wordFault (engOf h.eng.toNat) (x.slotAt (x.pc.toNat + 1 + j)) = none) :
    firstBadWord (engOf h.eng.toNat) (x.pc.toNat + 1) (x.bodySlots h) = some (x.pc.toNat + 1 + i, cause, data) := by
  have len : i < (x.bodySlots h).length := by rwa [Tile.length_bodySlots]
  refine Machine.firstBadWord_some len ?_ (fun j hj => ?_) _
  · rw [← bad]
    exact congrArg _ (Tile.getElem_slots ..)
  · rw [← below j hj]
    exact congrArg _ (Tile.getElem_slots ..)

theorem Tile.length_sectionAt : (x.sectionAt h).words.length = h.len.toNat :=
  (Tile.length_fwdWords ..).trans (Tile.length_bodySlots x h)

theorem Tile.getElem_sectionAt (i : Nat) (hi : i < (x.sectionAt h).words.length) :
    (x.sectionAt h).words[i] = ⟨rotateSlot x.rb (x.slotAt (x.pc.toNat + 1 + i)), x.pc.toNat + 1 + i,
      x.capture (x.slotAt (x.pc.toNat + 1 + i)) (x.xq + i)⟩ := by
  have len : i < (x.bodySlots h).length := by rwa [Tile.length_bodySlots, ← Tile.length_sectionAt x h]
  have slot : (x.bodySlots h)[i] = x.slotAt (x.pc.toNat + 1 + i) := Tile.getElem_slots ..
  rw [← slot]
  exact Tile.getElem_fwdWords x _ _ _ i hi len

/-- What an X word captures beside its registers and predicates (R53, R66, R255). -/
theorem Tile.capture_X {w : Slot} (hw : slotClass w = 5) (q : Nat) :
    (x.capture w q).seed = x.seed ∧ (x.capture w q).q = q % 2 ^ 32 ∧
      (x.capture w q).sl.toNat = x.readLay (w.toNat / 2 ^ 58 % 256) ∧ (x.capture w q).dl.toNat = x.readLay (w.toNat / 2 ^ 50 % 256) := by
  have entry : ∀ k, (BitVec.ofNat 512 (x.readLay k)).toNat = x.readLay k := fun k => by
    rw [Tile.readLay, BitVec.ofNat_toNat, BitVec.setWidth_eq]
  simp only [Tile.capture, hw, beq_self_eq_true, if_true, entry]
  exact ⟨trivial, trivial, rfl, rfl⟩

end

/-! ### S sections -/

/-- The tile with the S section of the header at PC begun (R68, R69, R113). -/
def Tile.begun (x : Tile) (h : Header) : Tile :=
  { x.endRecord with
    sIn := true, sHdr := x.pc, sNum := h.num.toNat, sEnd := x.pc.toNat + 1 + h.len.toNat
    pc := BitVec.ofNat 20 (x.pc.toNat + 1)
    copies := x.copies.map (OldCopy.beginS (x.depsOf h .S))
    atLoop := false, bpPassed := false, standing := none
    waits := Assoc.set 0 0 0 x.endRecord.waits }

/-- The dependences of an S header have retired, and where its gfence is set nothing is left to retire. -/
def Tile.mayBegin (x : Tile) (h : Header) : Prop := (h.gfence = 1 → x.drained = true) ∧ ∀ q ∈ x.depsOf h .S, x.live q = false

theorem held_iff_not_mayBegin (x : Tile) (h : Header) :
    ((h.gfence == 1 && !x.drained) || (x.depsOf h .S).any x.live) = true ↔ ¬ x.mayBegin h := by
  rw [← not_iff_not, not_not, Bool.not_eq_true, Bool.or_eq_false_iff, List.any_eq_false, Tile.mayBegin]
  refine and_congr ?_ (by simp)
  by_cases g : h.gfence = 1 <;> simp [g]

section
variable {s : State} {k : Nat} {h : Header}

theorem beginS_of_not_mayBegin (hr : ¬ (s.tile k).mayBegin h) : s.beginS k h = s.waitS k 8 :=
  if_pos ((held_iff_not_mayBegin ..).mpr hr)

theorem beginS_of_mayBegin (hr : (s.tile k).mayBegin h) : s.beginS k h = s.setTile k ((s.tile k).begun h) :=
  if_neg fun held => (held_iff_not_mayBegin ..).mp held hr

end

/-- Only the loop-index stack may differ where a record ends. -/
theorem Tile.endRecord_eq (x : Tile) : ∃ ks ids live, x.endRecord = { x with ks := ks, kIds := ids, kLive := live } := by
  unfold Tile.endRecord
  split
  · exact ⟨_, _, _, rfl⟩
  · split
    · exact ⟨_, _, _, rfl⟩
    · exact ⟨_, _, _, rfl⟩

/-- The innermost loop record has run its epilogue. -/
def Tile.recordOver (x : Tile) : Prop := ∃ l ks, x.ks = l :: ks ∧ kRec l = true ∧ kIdx l = kLim l

theorem Tile.endRecord_ks_of_over {x : Tile} (h : x.recordOver) : x.endRecord.ks = x.ks.tail := by
  obtain ⟨l, ks, hk, hr, hi⟩ := h
  simp [Tile.endRecord, hk, hr, hi, Tile.popK]

theorem Tile.endRecord_ks_of_not_over {x : Tile} (h : ¬ x.recordOver) : x.endRecord.ks = x.ks := by
  unfold Tile.endRecord
  split
  · rfl
  next l ks hk =>
    have going : (kRec l && kIdx l == kLim l) = false := by
      rw [Bool.and_eq_false_iff]
      by_contra both
      push Not at both
      exact h ⟨l, ks, hk, by simpa using both.1, by simpa using both.2⟩
    rw [going]
    rfl

theorem bareCopy_beginS (named : List Nat) (c : OldCopy) : bareCopy (OldCopy.beginS named c) = bareCopy c :=
  bareCopy_follow ..

/-- The accesses of an earlier S section are let go of, and those of this one follow an acquire that its header names. -/
theorem endedFor_beginS (named : List Nat) (c : OldCopy) (f : Engine) (p : Nat) :
    (OldCopy.beginS named c).endedFor f p = true ↔
      (∃ r ∈ c.ended, ¬ (r.eng = .S ∧ r.lo = 0) ∧ r.eng = f ∧ r.lo ≤ p ∧ ∀ m, r.hi = some m → p < m) ∨
      (f = .S ∧ ∃ r ∈ c.ended, ¬ (r.eng = .S ∧ r.lo = 0) ∧ ∃ q ∈ named, r.sec = some q) := by
  have kept : ∀ r : Ended, (r.eng != .S || r.lo != 0) = true ↔ ¬ (r.eng = .S ∧ r.lo = 0) := fun r => by
    rw [Bool.or_eq_true, not_and_or, bne_iff_ne, bne_iff_ne]
  have first : OldCopy.endedFor { c with ended := [{ eng := .S, lo := 0 }] } f p = true ↔ f = .S := by
    simp [OldCopy.endedFor_iff, @eq_comm _ f]
  rw [OldCopy.beginS, OldCopy.endedFor_follow, Bool.or_eq_true, Bool.and_eq_true, OldCopy.endedFor_iff, OldCopy.follows_iff]
  simp only [List.mem_filter, kept, and_assoc]
  rw [and_comm (b := _ = true)]
  exact or_congr Iff.rfl (and_congr first Iff.rfl)

theorem Tile.bareCopy_begun (x : Tile) (h : Header) : (x.begun h).copies.map bareCopy = x.copies.map bareCopy := by
  change (x.copies.map (OldCopy.beginS (x.depsOf h .S))).map bareCopy = _
  rw [List.map_map]
  exact List.map_congr_left fun c _ => bareCopy_beginS ..

theorem Tile.begun_copies (x : Tile) (h : Header) (i : Nat) (o o' : OldCopy) (ho : x.copies[i]? = some o)
    (ho' : (x.begun h).copies[i]? = some o') : o' = OldCopy.beginS (x.depsOf h .S) o := by
  have begun : (x.begun h).copies = x.copies.map (OldCopy.beginS (x.depsOf h .S)) := rfl
  rw [begun, List.getElem?_map, ho] at ho'
  exact (Option.some.inj ho').symm

/-! ### Sections of the other engines -/

theorem startable_of_waiting {x : Tile} {e : Engine} {c : Section} (hh : x.headSec e = some c) (hd : ∃ q ∈ c.deps, x.live q = true) :
    x.startable e = none := by
  have held : c.deps.any x.live = true := List.any_eq_true.mpr hd
  simp [Tile.startable, hh, held]

theorem startable_of_ready {x : Tile} {e : Engine} {c : Section} (hs : x.stop = none) (hh : x.headSec e = some c)
    (hc : c.started = false) (hd : ∀ q ∈ c.deps, x.live q = false) : x.startable e = some c := by
  have free : c.deps.any x.live = false := List.any_eq_false.mpr fun q hq => by simp [hd q hq]
  simp [Tile.startable, hh, hc, free, Tile.mayStart, hs]

section
variable {s : State} {k : Nat} {e : Engine} (he : e ≠ .S) (hq : (s.tile k).quenched = false)
include he hq

theorem exec_sectionStart_none (hs : (s.tile k).startable e = none) : exec (.sectionStart k e) s = .next s := by
  change execSectionStart k e s = _
  cases e with
  | S => exact absurd rfl he
  | L | A | W | M | X => simp [execSectionStart, hq, hs]

theorem exec_sectionStart_some {c : Section} (hs : (s.tile k).startable e = some c) :
    exec (.sectionStart k e) s = .next (s.setTile k ((s.tile k).setSec c.seq fun d => { d with started := true })) := by
  change execSectionStart k e s = _
  cases e with
  | S => exact absurd rfl he
  | L | A | W | M | X => simp [execSectionStart, hq, hs]

end

/-- Word i of a forwarded section of one class is the i-th slot behind the header, rotated, with its captures. -/
theorem Tile.sectionAt_words (x : Tile) {h : Header} (h5 : h.eng.toNat ≤ 5)
    (cls : ∀ i, i < h.len.toNat → slotClass (x.slotAt (x.pc.toNat + 1 + i)) = h.eng.toNat)
    (i : Nat) (hi : i < (x.sectionAt h).words.length) :
    let u := (x.sectionAt h).words[i]
    let w := x.slotAt (x.pc.toNat + 1 + i)
    u.addr = x.pc.toNat + 1 + i ∧ u.slot = rotateSlot x.rb w ∧ u.cap.vals = (captured w).map x.readG ∧ u.cap.rb = x.rb ∧
      (engOf h.eng.toNat = .X → u.cap.seed = x.seed ∧ u.cap.q = (x.xq + i) % 2 ^ 32 ∧
        u.cap.sl.toNat = x.readLay (w.toNat / 2 ^ 58 % 256) ∧ u.cap.dl.toNat = x.readLay (w.toNat / 2 ^ 50 % 256)) ∧
      (∀ p ∈ namedPreds w, 8 ≤ p ∨ 4 ≤ h.eng.toNat → u.cap.preds.getLsbD p = x.readCS p) := by
  intro u w
  have cls : slotClass w = h.eng.toNat := cls i (by rwa [Tile.length_sectionAt] at hi)
  have word : u = ⟨rotateSlot x.rb w, x.pc.toNat + 1 + i, x.capture w (x.xq + i)⟩ := Tile.getElem_sectionAt x h i hi
  rw [word]
  refine ⟨rfl, rfl, rfl, rfl, fun hX => Tile.capture_X x ?_ _, fun p hp hn => Tile.getLsbD_capPreds x hp ?_⟩
  · rw [cls, ← code_engOf h5, hX]
    rfl
  · rwa [cls]

/-- Settles O45: a section that nothing holds back is looked at word by word, and what joins the queue is `sectionAt`; an S section
begins, and another engine's starts, once its dependences are no longer live. -/
theorem sectionFlow : Obligations.SectionFlow := by
  refine ⟨?forward, ?begin, ?start⟩
  case forward =>
    intro s k h hs h1 h5 x e pc n w good r wait fence pass empty
    obtain ⟨-, -, -, -, -, -, fresh, -⟩ := id hs
    have answer : r = .next (s.forward k h) := exec_sectionForward hs h1
    have code : e.code = h.eng.toNat := code_engOf h5
    have noFault : ∀ i, good i → wordFault e (w i) = none := fun i ⟨hc, _, hd⟩ => wordFault_of_decode (hc.trans code.symm) hd
    have body : pass → r = .next (s.forwardBody k h) := fun ⟨hstop, hf, hd, hq⟩ =>
      answer.trans (congrArg _ (forward_room fresh hstop hf hd hq))
    have someAwaits : (∃ v ∈ x.bodySlots h, x.awaits v) ↔ ∃ i, i < n ∧ empty i := x.exists_mem_bodySlots h x.awaits
    refine ⟨fun hstop => answer.trans (congrArg _ (forward_stop fresh hstop)),
      fun hstop hf => answer.trans (congrArg _ (forward_gfence fresh hstop hf)),
      fun hstop hf hd => answer.trans (congrArg _ (forward_slip fresh hstop hf hd)),
      fun hstop hf hd hq => answer.trans (congrArg _ (forward_full fresh hstop hf hd hq)), fun hp i hi bad below => ?_,
      fun hp hg he => ?_, fun hp hg he => ?_⟩
    · have trap : ∀ {cause data}, wordFault e (w i) = some (cause, data) →
          r = .next (s.takeTrap (s.issueS k (pc + 1 + i) h.num.toNat) true cause data) := fun hw =>
        (body hp).trans (congrArg _ (forwardBody_bad (x.firstBadWord_some h hi hw fun j hj => noFault j (below j hj))))
      rw [← code]
      refine ⟨fun hc hne => trap (wordFault_of_class hc hne), fun hc => trap (wordFault_of_not_decode hc fun j hj => ?_)⟩
      rcases hc with hc | hc
      · exact bad ⟨hc.trans code, j, hj⟩
      · exact absurd (slotClass_of_decode hj) (Nat.not_le.mpr hc)
    · exact (body hp).trans (congrArg _ (forwardBody_awaits (x.firstBadWord_none h fun i hi => noFault i (hg i hi)) (someAwaits.mpr he)))
    · have none_ : ¬ ∃ v ∈ x.bodySlots h, x.awaits v := fun ha => by
        obtain ⟨i, hi, hv⟩ := someAwaits.mp ha
        exact he i hi hv
      refine ⟨_, x.sectionAt h,
        (body hp).trans (congrArg _ (forwardBody_joins (x.firstBadWord_none h fun i hi => noFault i (hg i hi)) none_)),
        onlyTile_setTile .., ?_⟩
      intro y
      have hy : y = x.forwarded h := State.tile_setTile_self ..
      rw [hy]
      refine ⟨x.forwarded_secs h, x.forwarded_seqNext h, x.forwarded_pc h, x.forwarded_waitWhy h, rfl, rfl, rfl, rfl, rfl, rfl, rfl, rfl,
        x.length_sectionAt h, x.sectionAt_words h5 fun i hi => (hg i hi).1, fun g hlt => ?_, endsAlso_follow _ _ (x.forwarded_copies h),
        fun hX => (x.forwarded_xq h).trans (if_pos hX), fun hX => (x.forwarded_xq h).trans (if_neg hX), ?_⟩
      · rw [x.forwarded_emptyG h hlt, decide_eq_decide.mpr (x.exists_mem_bodySlots h fun v => vtogTarget v = some g)]
      · obtain ⟨m, hm⟩ := x.forwarded_eq h
        rw [hm]
        rfl
  case begin =>
    intro s k h hs h0 x pc r ready
    have answer : r = .next (s.beginS k h) := exec_sectionStart_S hs h0
    refine ⟨fun hr => answer.trans (congrArg _ (beginS_of_not_mayBegin hr)), fun hr =>
      ⟨_, answer.trans (congrArg _ (beginS_of_mayBegin hr)), onlyTile_setTile .., ?_⟩⟩
    intro y
    have hy : y = x.begun h := State.tile_setTile_self ..
    rw [hy]
    refine ⟨rfl, rfl, rfl, rfl, BitVec.toNat_ofNat .., Tile.waitWhy_setWait x.endRecord .., Tile.endRecord_ks_of_over,
      Tile.endRecord_ks_of_not_over, ⟨?_, fun i o o' ho ho' => ?_⟩, ?_⟩
    · exact x.bareCopy_begun h
    · obtain rfl := x.begun_copies h i o o' ho ho'
      exact endedFor_beginS _ o
    · obtain ⟨ks, ids, live, hk⟩ := x.endRecord_eq
      rw [Tile.begun, hk]
      rfl
  case start =>
    intro s k e c he x r hq hstop hh hc
    exact ⟨fun hd => exec_sectionStart_none he hq (startable_of_waiting hh hd),
      fun hd => exec_sectionStart_some he hq (startable_of_ready hstop hh hc hd)⟩

end Sys2Proof.Machine
end

section
/-! The proof of O14: what a trap writes, what is given back where another trap gives way to it, and a semaphore set back (R96, R97,
R360, R361, R363). -/

namespace Sys2Proof.Machine

open Sys2Proof.Safety

/-! ### A semaphore read after it is set (R204) -/

@[simp] theorem length_toBytes (n x : Nat) : (toBytes n x).length = n := by
  induction n generalizing x with
  | zero => rfl
  | succ n ih => rw [toBytes, List.length_cons, ih]

theorem ofBytes_toBytes (n x : Nat) : ofBytes (toBytes n x) = x % 256 ^ n := by
  induction n generalizing x with
  | zero => rw [toBytes, ofBytes, pow_zero, Nat.mod_one]
  | succ n ih => rw [toBytes, ofBytes, ih, BitVec.toNat_ofNat, pow_succ' 256 n, Nat.mod_mul]

theorem ofBytes_lt (bs : List Byte) : ofBytes bs < 256 ^ bs.length := by
  induction bs with
  | nil => exact Nat.one_pos
  | cons b bs ih =>
    have low : b.toNat < 256 := b.isLt
    rw [ofBytes, List.length_cons, pow_succ]
    omega

@[simp] theorem Memory.length_readN (m : List Host.Cell) (a n : Nat) : (Memory.readN m a n).length = n := by
  induction n generalizing a with
  | zero => rfl
  | succ n ih => rw [Memory.readN, List.length_cons, ih]

theorem Memory.getElem_readN (m : List Host.Cell) (a n i : Nat) (hi : i < (Memory.readN m a n).length) :
    (Memory.readN m a n)[i] = Memory.read m (a + i) := by
  induction n generalizing a i with
  | zero => exact absurd hi (Nat.not_lt_zero i)
  | succ n ih =>
    cases i with
    | zero => rfl
    | succ i =>
      have rest := ih (a + 1) i (Nat.lt_of_succ_lt_succ hi)
      rw [Nat.add_assoc, Nat.add_comm 1 i] at rest
      exact rest

theorem Memory.readN_writeN (m : List Host.Cell) (a : Nat) (bs : List Byte) :
    Memory.readN (Memory.writeN m a bs) a bs.length = bs := by
  refine List.ext_getElem (Memory.length_readN ..) fun i hi hb => ?_
  rw [Memory.getElem_readN, Memory.read_writeN, if_pos ⟨Nat.le_add_right a i, Nat.add_lt_add_left hb a⟩, Nat.add_sub_cancel_left,
    List.getD_eq_getElem _ _ hb]

theorem Memory.readLE_writeLE (m : List Host.Cell) (a n x : Nat) : Memory.readLE (Memory.writeLE m a n x) a n = x % 256 ^ n := by
  have bytes := Memory.readN_writeN m a (toBytes n x)
  rw [length_toBytes] at bytes
  rw [Memory.readLE, Memory.writeLE, bytes, ofBytes_toBytes]

theorem Tile.sem_lt (x : Tile) (n : Nat) : x.sem n < 256 ^ 4 := by
  have h := ofBytes_lt (Memory.readN x.sp (4 * n) 4)
  rwa [Memory.length_readN] at h

theorem Tile.sem_setSem (x : Tile) (n v : Nat) : (x.setSem n v).sem n = v % 256 ^ 4 := Memory.readLE_writeLE ..

/-- A semaphore set changes its four bytes alone. -/
theorem Tile.spOutside_setSem (x : Tile) (n v : Nat) : SpOutside x (x.setSem n v) (4 * n) 4 := by
  intro b hb
  rw [Tile.setSem, Memory.writeLE, Memory.read_writeN, length_toBytes, if_neg (by omega)]

/-! ### What is given back (R97) -/

/-- What taking back an amount makes of the tile that has the semaphore. -/
theorem State.tile_semBack (s : State) (u n k : Nat) (b : Nat × Nat × Nat) :
    (s.semBack (u, n, k, b)).tile u =
      { (s.tile u).setSem n ((s.tile u).sem n - k) with missed := (s.tile u).missed.erase (n, b) } := State.tile_setTile_self ..

theorem State.giveBack_none {s : State} {t : Nat} (h : (s.tile t).stop.bind Stop.back = none) : s.giveBack t = s := by
  rw [State.giveBack, h]

theorem State.giveBack_some {s : State} {t : Nat} {b : Undo} (h : (s.tile t).stop.bind Stop.back = some b) :
    s.giveBack t = (b.sems.foldl State.semBack s).setTile t (((b.sems.foldl State.semBack s).tile t).unretire b) := by
  rw [State.giveBack, h]

/-- The tile with what had retired in its place again. -/
def Tile.withBack (x : Tile) (b : Undo) : Tile :=
  { x with
    chan := b.cmd.toList ++ x.chan
    secs := match b.sec with | some c => putSec c x.secs | none => x.secs }

theorem Tile.unretire_eq (x : Tile) (b : Undo) : x.unretire b = (x.withBack b).count b.event (2 ^ 48 - 1) := rfl

theorem Tile.unretire_chan (x : Tile) (b : Undo) : (x.unretire b).chan = b.cmd.toList ++ x.chan := Tile.count_chan ..

theorem Tile.unretire_secs (x : Tile) (b : Undo) : (x.unretire b).secs = (x.withBack b).secs := Tile.count_secs ..

theorem Tile.unretire_pcs (x : Tile) (b : Undo) : (x.unretire b).pcs = (x.count b.event (2 ^ 48 - 1)).pcs := by
  rw [Tile.unretire_eq]
  exact Tile.count_pcs_congr (x := x.withBack b) (y := x) rfl rfl _ _

/-- A word or command that stands again changes the channel, the sections and the counters alone. -/
theorem Tile.unretire_frame (x : Tile) (b : Undo) :
    { x.unretire b with chan := [], secs := [], pcs := [] } = { x with chan := [], secs := [], pcs := [] } :=
  congrArg (fun z : Tile => { z with chan := [], secs := [] }) (Tile.count_pcs_ext (x.withBack b) b.event (2 ^ 48 - 1))

/-! ### A trap taken (R361) -/

theorem Tile.trapAgain_iff (x : Tile) (scyc : W64) (e : Engine) :
    x.trapAgain scyc e = true ↔ ∃ st, x.stop = some st ∧ st.trapped = true ∧
      (st.cyc ≠ some scyc ∨ ∀ o, st.eng = some o → o.code ≤ e.code) := by
  unfold Tile.trapAgain
  cases x.stop with
  | none => simp
  | some st =>
    cases ho : st.eng with
    | none => simp [ho]
    | some o => by_cases hc : st.cyc = some scyc <;> simp [ho, hc]

/-- The stop of a trap is that of its engine and cycle, whatever stop goes on. -/
theorem Tile.trapStop_fields (x : Tile) (scyc : W64) (e : Engine) (gen : Int) :
    (x.trapStop scyc e gen).trapped = true ∧ (x.trapStop scyc e gen).eng = some e ∧ (x.trapStop scyc e gen).cyc = some scyc := by
  unfold Tile.trapStop
  split <;> exact ⟨rfl, rfl, rfl⟩

/-- A tile whose trap registers hold a trap of word w, and whose point stops with it. -/
def Tile.withTrap (z : Tile) (w : Issue) (fwd : Bool) (cause data : Nat) (st : Stop) : Tile :=
  { z with
    trapCause := BitVec.ofNat 8 cause
    trapEngine := if fwd then 8 else BitVec.ofNat 4 w.eng.code
    trapSection := BitVec.ofNat 16 (w.tag % 256 * 256 + w.num % 256)
    trapWord := BitVec.ofNat 20 w.addr
    trapData := BitVec.ofNat 64 data
    stop := some st }.setWait w.eng 7

section
variable {s : State} {w : Issue}

theorem State.takeTrap_again (fwd : Bool) (cause data : Nat) (h : (s.tile w.tile).trapAgain s.scyc w.eng = true) :
    s.takeTrap w fwd cause data = s.setTile w.tile ((s.tile w.tile).setWait w.eng 7) := if_pos h

/-- How the point of the word's tile stops with its trap. -/
def State.stopAt (s : State) (w : Issue) : Stop :=
  (s.tile w.tile).trapStop s.scyc w.eng ((s.tile w.tile).trapGen w.eng w.seq w.tag)

theorem State.takeTrap_first (fwd : Bool) (cause data : Nat) (h : ¬ (s.tile w.tile).trapAgain s.scyc w.eng = true)
    (area : ∀ p l, (s.tile w.tile).point = some p → s.launch? p.slot = some l → l.ctxVA ≠ 0)
    (idle : (s.tile w.tile).point = none → s.launch? 64 = none) :
    s.takeTrap w fwd cause data =
      (s.giveBack w.tile).setTile w.tile (((s.giveBack w.tile).tile w.tile).withTrap w fwd cause data (s.stopAt w)) := by
  rw [State.takeTrap, State.trapWith, if_neg h]
  cases hp : (s.tile w.tile).point with
  | none => simp only [idle hp]; rfl
  | some p =>
    cases hl : s.launch? p.slot with
    | none => simp only [hl]; rfl
    | some l => simp only [hl, beq_eq_false_iff_ne.mpr (area p l hp hl)]; rfl

end

/-- Settles O14: a trap that is not the point's again is `Tile.withTrap` on what `State.giveBack` leaves; another sets a wait alone. -/
theorem trapEntry : Obligations.TrapEntry := by
  refine ⟨fun s w fwd cause data => ?trap, fun s u n k b _ _ => ?back⟩
  case trap =>
    intro x t y again blank
    have again_iff : x.trapAgain s.scyc w.eng = true ↔ again := Tile.trapAgain_iff ..
    refine ⟨fun first area idle => ?_, fun h => State.takeTrap_again fwd cause data (again_iff.mpr h)⟩
    have ht : t = _ := State.takeTrap_first fwd cause data (mt again_iff.mp first) area idle
    have hy : y = ((s.giveBack w.tile).tile w.tile).withTrap w fwd cause data (s.stopAt w) :=
      (congrArg (State.tile · w.tile) ht).trans (State.tile_setTile_self ..)
    obtain ⟨trapped, eng, cyc⟩ := Tile.trapStop_fields x s.scyc w.eng (x.trapGen w.eng w.seq w.tag)
    have number : w.tag % 256 * 256 + w.num % 256 = w.num % 256 + 256 * (w.tag % 256) := by omega
    rw [hy]
    refine ⟨rfl, rfl, congrArg (BitVec.ofNat 16) number, rfl, rfl, ⟨s.stopAt w, rfl, trapped, eng, cyc⟩, Tile.waitWhy_setWait ..,
      fun nothing => ?_, fun b back => ?_⟩
    · rw [ht, State.giveBack_none nothing]
      exact ⟨rfl, onlyTile_setTile ..⟩
    · rw [ht, State.giveBack_some back, State.tile_setTile_self, State.setTile_setTile]
      intro u z
      refine ⟨onlyTile_setTile .., Tile.unretire_chan z b, ?_, Tile.unretire_pcs z b, ?_⟩
      · refine (Tile.unretire_secs z b).trans ?_
        unfold Tile.withBack
        cases b.sec <;> rfl
      · exact congrArg (fun v : Tile => { blank v with chan := [], secs := [], pcs := [] }) (Tile.unretire_frame z b)
  case back =>
    intro t
    have hx : t.tile u = _ := State.tile_semBack s u n k b
    have small : (s.tile u).sem n - k < 256 ^ 4 := (Nat.sub_le ..).trans_lt (Tile.sem_lt ..)
    refine ⟨onlyTile_setTile .., ?_, ?_, ?_⟩
    · rw [hx]
      exact (Tile.sem_setSem ..).trans (Nat.mod_eq_of_lt small)
    · rw [hx]
      exact Tile.spOutside_setSem (s.tile u) n _
    · rw [hx]
      rfl

end Sys2Proof.Machine
end

section
/-! The refutation of O58: where a write in flight goes before (R131, R392), the item of a register write sets the tile to what it is,
and that leaves the state as it was only where the table of tiles is in canonical form. -/

namespace Sys2Proof.Machine

open Sys2Proof.Safety

/-! ### A register write that waits for one in flight (R131, R392) -/

theorem Tile.landLate_of_owes {x : Tile} {e : Engine} (h : x.inflight.any (x.owes e) = true) (n : Nat) : x.landLate e n = x := by
  unfold Tile.landLate
  split
  · rfl
  · rw [if_pos (by rw [h, Bool.or_true])]

/-- The item then sets the tile to what it is. -/
theorem actOn_land_of_owes {s : State} {k : Nat} {e : Engine} (hq : (s.tile k).quenched = false)
    (h : (s.tile k).inflight.any ((s.tile k).owes e) = true) (n : Nat) : s.actOn (.land k e n) = .next (s.setTile k (s.tile k)) := by
  rw [State.actOn, State.onTile, if_neg (by rw [hq]; exact Bool.false_ne_true), Tile.landLate_of_owes h]

/-! ### Tables in canonical form -/

theorem Assoc.notMem_of_above {α : Type} {k : Nat} {l : List (Nat × α)} (h : Assoc.above k l) (y : α) : (k, y) ∉ l :=
  fun hy => Nat.lt_irrefl k (h _ hy)

theorem Assoc.get_of_notMem {α : Type} {d : α} {k : Nat} {l : List (Nat × α)} (h : ∀ y, (k, y) ∉ l) : Assoc.get d k l = d := by
  rw [← Assoc.erase_of_notMem h, Assoc.get_erase, if_pos rfl]

theorem Assoc.insert_of_above {α : Type} {k : Nat} {x : α} {l : List (Nat × α)} (h : Assoc.above k l) :
    Assoc.insert k x l = (k, x) :: l := by
  cases l with
  | nil => rfl
  | cons c l => exact if_pos (h c (List.mem_cons_self ..))

/-- An entry of a table in canonical form set to what it is. -/
theorem Assoc.set_get {α : Type} [DecidableEq α] {d : α} (k : Nat) {l : List (Nat × α)} (h : Assoc.wf d l = true) :
    Assoc.set d k (Assoc.get d k l) l = l := by
  induction l with
  | nil => exact if_pos rfl
  | cons c l ih =>
    obtain ⟨j, x⟩ := c
    obtain ⟨hx, above, wf⟩ := (Assoc.wf_cons d j x l).mp h
    rcases Nat.lt_trichotomy k j with hk | rfl | hk
    · have absent : ∀ y, (k, y) ∉ (j, x) :: l := Assoc.notMem_of_above fun p hp => by
        rcases List.mem_cons.mp hp with rfl | hp
        · exact hk
        · exact hk.trans (above p hp)
      rw [Assoc.get_of_notMem absent, Assoc.set, if_pos rfl, Assoc.erase_of_notMem absent]
    · rw [Assoc.get, if_pos rfl, Assoc.set, if_neg hx, Assoc.erase, if_pos rfl,
        Assoc.erase_of_notMem (Assoc.notMem_of_above above), Assoc.insert_of_above above]
    · have pass : ∀ y, Assoc.set d k y ((j, x) :: l) = (j, x) :: Assoc.set d k y l := fun y => by
        unfold Assoc.set
        rw [Assoc.erase, if_neg hk.ne]
        split
        · rfl
        · rw [Assoc.insert, if_neg hk.asymm]
      rw [Assoc.get, if_neg hk.ne, pass, ih wf]

/-- In a state in canonical form this is no change: what the first clause of O58 says. -/
theorem actOn_land_eq {s : State} {k : Nat} {e : Engine} (form : TablesOk s) (hq : (s.tile k).quenched = false)
    (h : (s.tile k).inflight.any ((s.tile k).owes e) = true) (n : Nat) : s.actOn (.land k e n) = .next s := by
  rw [actOn_land_of_owes hq h, State.setTile, State.tile, Assoc.set_get k form.1]

/-! ### A table that is not -/

/-- An accumulator write of the M engine that a temper has left in flight. -/
def owedAcc : InFlight := { kind := .entry 3, eng := .M, tgt := 0, payload := 0, seq := 0, tag := 0, addr := 0, rem := 1 }

/-- A word of that engine with one accumulator write to follow. -/
def lateAcc : LateWord := { eng := .M, seq := 0, tag := 0, addr := 0, due := 0, flags := 0, outs := [.acc 0 0] }

def owingTile : Tile := { inflight := [owedAcc], late := [lateAcc] }

/-- The reset state with two entries for tile 0, of which the second is never read. -/
def tileListedTwice : State := { State.reset with tiles := [(0, owingTile), (0, owingTile)] }

theorem tiles_setTile_tileListedTwice : (tileListedTwice.setTile 0 owingTile).tiles = [(0, owingTile)] := by
  have busy : owingTile ≠ Tile.idle := fun h => List.cons_ne_nil _ _ (congrArg Tile.late h)
  simp only [State.setTile, Assoc.set, if_neg busy]
  rfl

/-- Refutes O58: its first clause says that an item whose write must wait gives the same state, of states in any form, without
`TablesOk`. In `tileListedTwice` the item leaves one entry of the two for tile 0. In canonical form the clause holds:
`actOn_land_eq`. -/
theorem not_lateWritesFollow : ¬ Obligations.LateWritesFollow := by
  rintro ⟨land, -⟩
  have awake : (tileListedTwice.tile 0).quenched = false := rfl
  have first : (tileListedTwice.tile 0).late.find? (fun w => w.eng == .M) = some lateAcc := rfl
  have owes : (tileListedTwice.tile 0).inflight.any ((tileListedTwice.tile 0).owes .M) = true := rfl
  have out : lateAcc.outs[0]? = some (.acc 0 0) := rfl
  obtain ⟨waits, -⟩ := land tileListedTwice 0 0 .M lateAcc (.acc 0 0) awake first out
  have answer := (actOn_land_of_owes awake owes 0).symm.trans (waits owes)
  have tiles : (tileListedTwice.setTile 0 owingTile).tiles = tileListedTwice.tiles := congrArg State.tiles (Host.Outcome.next.inj answer)
  rw [tiles_setTile_tileListedTwice] at tiles
  exact absurd (congrArg List.length tiles) (by decide)

end Sys2Proof.Machine
end

section
/-! The proofs of O6, O7 and O8: the S words that write one general register with a value of its operands (R86, R101, R102, R104). The
words of a format answer alike (`sReg_gives`, `sImm_gives`, `sUn_gives`); what is left of each word is its value of Table 06-1. -/

namespace Sys2Proof.Machine

open Sys2Proof.Safety

/-! ### The words of a format -/

/-- A word whose guard is true and whose registers are full does what it does when enabled. -/
theorem sWord_gated {s : State} {g : Guard} {srcs : List GSrc} {full : List Nat} (h : SRuns s g (srcs.map GSrc.n ++ full))
    (k : Tile → Ending) : sWord s g (fun x => x.gateG s srcs full (k x)) = finish s (k (here s)) := by
  obtain ⟨-, hg, regs⟩ := h
  rw [sWord_on hg, Tile.gateG_full (fun r hr => regs _ (List.mem_append_left _ (List.mem_map_of_mem hr)))
    fun n hn => regs _ (List.mem_append_right _ hn)]

section
variable {s : State} {g : Guard} {f : FmtS}

theorem sReg_gives (h : SRuns s g [f.ga.toNat, f.gb.toNat, f.gd.toNat]) (val : W64 → W64 → W64) {v : W64}
    (hv : val ((here s).readG f.ga.toNat) ((here s).readG f.gb.toNat) = v) : SGives s (sReg s g f val) f.gd.toNat v := by
  rw [sReg, sWord_gated (srcs := [srcA f, srcB f]) h, hv]
  exact sGives_putG h.1 ..

theorem sImm_gives (h : SRuns s g [f.ga.toNat, f.gd.toNat]) (val : W64 → W64 → W64) {v : W64}
    (hv : val ((here s).readG f.ga.toNat) (f.imm.signExtend 64) = v) : SGives s (sImm s g f val) f.gd.toNat v := by
  rw [sImm, sWord_gated (srcs := [srcA f]) h, immS, hv]
  exact sGives_putG h.1 ..

theorem sUn_gives (h : SRuns s g [f.ga.toNat, f.gd.toNat]) (val : W64 → W64) :
    SGives s (sUn s g f val) f.gd.toNat (val ((here s).readG f.ga.toNat)) := by
  rw [sUn, sWord_gated (srcs := [srcA f]) h]
  exact sGives_putG h.1 ..

end

/-! ### The values of Table 06-1 -/

/-- A word with the signed value of an integer taken mod 2^64 is that integer's. -/
theorem eq_ofInt_of_toInt {x : W64} {i : Int} (h : x.toInt = i.bmod (2 ^ 64)) : x = BitVec.ofInt 64 i :=
  BitVec.eq_of_toInt_eq (h.trans (BitVec.toInt_ofInt i).symm)

section
variable (a b : W64) (n : Nat)

theorem sub_eq_ofInt : a - b = BitVec.ofInt 64 (a.toInt - b.toInt) := eq_ofInt_of_toInt BitVec.toInt_sub

theorem add_signExtend_eq_ofInt (i : BitVec 32) : a + i.signExtend 64 = BitVec.ofInt 64 (a.toInt + i.toInt) :=
  eq_ofInt_of_toInt (by rw [BitVec.toInt_add, BitVec.toInt_signExtend_of_le (by decide)])

theorem mul_signExtend_eq_ofInt (i : BitVec 32) : a * i.signExtend 64 = BitVec.ofInt 64 (a.toInt * i.toInt) :=
  eq_ofInt_of_toInt (by rw [BitVec.toInt_mul, BitVec.toInt_signExtend_of_le (by decide)])

theorem mul_eq_ofNat : a * b = BitVec.ofNat 64 (a.toNat * b.toNat) :=
  BitVec.eq_of_toNat_eq (by rw [BitVec.toNat_mul, BitVec.toNat_ofNat])

theorem shiftLeft_eq_ofNat : a <<< n = BitVec.ofNat 64 (a.toNat * 2 ^ n) :=
  BitVec.eq_of_toNat_eq (by rw [BitVec.toNat_shiftLeft, Nat.shiftLeft_eq, BitVec.toNat_ofNat])

theorem ushiftRight_eq_ofNat : a >>> n = BitVec.ofNat 64 (a.toNat / 2 ^ n) :=
  BitVec.eq_of_toNat_eq (by
    rw [BitVec.toNat_ushiftRight, Nat.shiftRight_eq_div_pow, BitVec.toNat_ofNat,
      Nat.mod_eq_of_lt ((Nat.div_le_self ..).trans_lt a.isLt)])

theorem sshiftRight_eq_ofInt : a.sshiftRight n = BitVec.ofInt 64 (a.toInt / 2 ^ n) := by
  rw [← BitVec.ofInt_toInt (x := a.sshiftRight n), BitVec.toInt_sshiftRight, Int.shiftRight_eq_div_pow]
  norm_cast

theorem rotateLeft_eq_ofNat {n : Nat} (h : n < 64) :
    a.rotateLeft n = BitVec.ofNat 64 (a.toNat * 2 ^ n) ||| BitVec.ofNat 64 (a.toNat / 2 ^ (64 - n)) := by
  rw [BitVec.rotateLeft_def, Nat.mod_eq_of_lt h, shiftLeft_eq_ofNat, ushiftRight_eq_ofNat]

theorem shAmt_lt : shAmt b < 64 := Nat.mod_lt _ (by decide)

/-- A register's low six bits are those of the extended immediate. -/
theorem shAmt_signExtend (i : BitVec 32) : shAmt (i.signExtend 64) = i.toNat % 64 := by
  have low : (i.signExtend 64).setWidth 6 = i.setWidth 6 := by
    ext k hk
    simp only [BitVec.getElem_setWidth, BitVec.getLsbD_signExtend]
    simp [show k < 32 by omega, show k < 64 by omega]
  have := congrArg BitVec.toNat low
  rwa [BitVec.toNat_setWidth, BitVec.toNat_setWidth] at this

/-- Where the two are equal, so are the results. -/
theorem ite_slt {α : Type} {x y : α} (h : a = b → x = y) : (if a.slt b then x else y) = if a.toInt ≤ b.toInt then x else y := by
  rcases eq_or_ne a b with rfl | hne
  · rw [h rfl, ite_self, ite_self]
  · have strict : a.toInt ≠ b.toInt := fun e => hne (BitVec.eq_of_toInt_eq e)
    simp only [BitVec.slt_iff_toInt_lt, lt_iff_le_and_ne, strict, ne_eq, not_false_eq_true, and_true]

theorem ite_ult {α : Type} {x y : α} (h : a = b → x = y) : (if a.ult b then x else y) = if a.toNat ≤ b.toNat then x else y := by
  rcases eq_or_ne a b with rfl | hne
  · rw [h rfl, ite_self, ite_self]
  · have strict : a.toNat ≠ b.toNat := fun e => hne (BitVec.eq_of_toNat_eq e)
    simp only [BitVec.ult_iff_lt, BitVec.lt_def, lt_iff_le_and_ne, strict, ne_eq, not_false_eq_true, and_true]

/-- The low half of a register beneath an immediate. -/
theorem concat_low_eq_ofNat (i : BitVec 32) :
    i ++ a.extractLsb' 0 32 = BitVec.ofNat 64 (i.toNat * 4294967296 + a.toNat % 4294967296) := by
  refine BitVec.eq_of_toNat_eq ?_
  have hi := i.isLt
  have low : a.toNat % 4294967296 < 2 ^ 32 := Nat.mod_lt _ (by decide)
  rw [BitVec.toNat_append, BitVec.extractLsb'_toNat, Nat.shiftRight_zero, ← Nat.shiftLeft_add_eq_or_of_lt low, Nat.shiftLeft_eq,
    BitVec.toNat_ofNat, Nat.mod_eq_of_lt (show i.toNat * 4294967296 + a.toNat % 4294967296 < 2 ^ 64 by omega)]

theorem divS_eq : divS a b = if b = 0 then BitVec.allOnes 64 else BitVec.ofInt 64 (a.toInt.tdiv b.toInt) := by
  rw [divS, eq_ofInt_of_toInt (BitVec.toInt_sdiv a b)]

theorem divN_eq : divN a b = if b = 0 then BitVec.allOnes 64 else BitVec.ofNat 64 (a.toNat / b.toNat) := by
  rw [divN, BitVec.udiv_def]

theorem remS_eq : remS a b = if b = 0 then a else BitVec.ofInt 64 (a.toInt.tmod b.toInt) := by
  rw [remS, ← BitVec.toInt_srem, BitVec.ofInt_toInt]

theorem remN_eq : remN a b = if b = 0 then a else BitVec.ofNat 64 (a.toNat % b.toNat) := by
  rw [remN, BitVec.umod_def]

/-- -2^63 divided by -1 is out of range, and gives -2^63 (R102). -/
theorem divS_intMin : divS (BitVec.intMin 64) (BitVec.allOnes 64) = BitVec.intMin 64 := by decide

theorem remS_intMin : remS (BitVec.intMin 64) (BitVec.allOnes 64) = 0 := by decide

end

/-! ### What the words do -/

/-- Settles O6: each word is a `sReg` of its own function, whose value is that of Table 06-1. -/
theorem scalarRegisterResults : Obligations.ScalarRegisterResults := by
  intro s g f h a b n d
  exact ⟨sReg_gives h (· + ·) (BitVec.add_def ..), sReg_gives h (· - ·) (sub_eq_ofInt ..), sReg_gives h (· * ·) (mul_eq_ofNat ..),
    sReg_gives h mulhS rfl, sReg_gives h mulhN rfl, sReg_gives h (· &&& ·) rfl, sReg_gives h (· ||| ·) rfl, sReg_gives h (· ^^^ ·) rfl,
    sReg_gives h (fun a b => a &&& ~~~b) rfl,
    sReg_gives h (fun a b => a <<< shAmt b) (shiftLeft_eq_ofNat a n),
    sReg_gives h (fun a b => a >>> shAmt b) (ushiftRight_eq_ofNat a n),
    sReg_gives h (fun a b => a.sshiftRight (shAmt b)) (sshiftRight_eq_ofInt a n),
    sReg_gives h (fun a b => a.rotateLeft (shAmt b)) (rotateLeft_eq_ofNat a (shAmt_lt b)),
    sReg_gives h (fun a b => if a.slt b then a else b) (ite_slt a b id),
    sReg_gives h (fun a b => if a.ult b then a else b) (ite_ult a b id),
    sReg_gives h (fun a b => if a.slt b then b else a) (ite_slt a b Eq.symm),
    sReg_gives h (fun a b => if a.ult b then b else a) (ite_ult a b Eq.symm)⟩

/-- Settles O7: the four words are `sReg`s too; of -2^63 and -1 the signed quotient and remainder are computed. -/
theorem scalarDivision : Obligations.ScalarDivision := by
  intro s g f h a b d
  refine ⟨sReg_gives h _ (divS_eq ..), sReg_gives h _ (divN_eq ..), sReg_gives h _ (remS_eq ..), sReg_gives h _ (remN_eq ..),
    fun ha hb => ⟨sReg_gives h divS ?_, sReg_gives h remS ?_⟩⟩
  · exact (congrArg₂ divS ha hb).trans divS_intMin
  · exact (congrArg₂ remS ha hb).trans remS_intMin

/-- Settles O8: the immediate words are `sImm`s; MOVI, MOVHI and SEL write their one register. -/
theorem scalarImmediateResults : Obligations.ScalarImmediateResults := by
  refine ⟨fun s g f h => ?_, fun s g f h => ?_, fun s g f h => ?_⟩
  · intro a b n d
    refine ⟨sImm_gives h (· + ·) (add_signExtend_eq_ofInt ..), sImm_gives h (· * ·) (mul_signExtend_eq_ofInt ..),
      sImm_gives h (· &&& ·) rfl, sImm_gives h (· ||| ·) rfl, sImm_gives h (· ^^^ ·) rfl,
      sImm_gives h (fun a b => a <<< shAmt b) ?_, sImm_gives h (fun a b => a >>> shAmt b) ?_,
      sImm_gives h (fun a b => a.sshiftRight (shAmt b)) ?_, sImm_gives h (fun a b => a.rotateLeft (shAmt b)) ?_⟩
    all_goals rw [shAmt_signExtend]
    · exact shiftLeft_eq_ofNat ..
    · exact ushiftRight_eq_ofNat ..
    · exact sshiftRight_eq_ofInt ..
    · exact rotateLeft_eq_ofNat a (Nat.mod_lt _ (by decide))
  · refine ⟨?_, ?_⟩
    · change SGives s (execMovi g f s) _ _
      rw [execMovi, sWord_gated (srcs := []) h]
      exact sGives_putG h.1 ..
    · change SGives s (execMovhi g f s) _ _
      rw [execMovhi, sWord_gated (srcs := []) h, concat_low_eq_ofNat]
      exact sGives_putG h.1 ..
  · change SGives s (execSel g f s) _ _
    rw [execSel, sWord_gated (srcs := [srcA f, srcB f]) h]
    exact sGives_putG h.1 ..

end Sys2Proof.Machine
end

section
/-! The proof of O9: the S words that count the bits of a register, and BFX and BFI (R101, R103). -/

namespace Sys2Proof.Machine

open Sys2Proof.Safety

/-! ### Counts of bits -/

/-- The zero bits above the highest set bit of a w-bit number. -/
theorem clzNat_spec {w x : Nat} (hx : x < 2 ^ w) :
    clzNat w x ≤ w ∧ (∀ i, w - clzNat w x ≤ i → x.testBit i = false) ∧
      (clzNat w x < w → x.testBit (w - 1 - clzNat w x) = true) := by
  rw [clzNat, Nat.mod_eq_of_lt hx]
  rcases eq_or_ne x 0 with rfl | h0
  · simp
  · have top : x.log2 < w := (Nat.log2_lt h0).mpr hx
    rw [if_neg h0, lg2]
    refine ⟨by omega, fun i hi => ?_, fun _ => ?_⟩
    · exact Nat.testBit_lt_two_pow (Nat.lt_log2_self.trans_le (Nat.pow_le_pow_right (by decide) (by omega)))
    · rw [show w - 1 - (w - 1 - x.log2) = x.log2 by omega]
      exact Nat.testBit_log2 h0

/-- The zero bits below the lowest set bit of a w-bit number. -/
theorem ctzNat_spec (w x : Nat) :
    ctzNat x w ≤ w ∧ (∀ i, i < ctzNat x w → x.testBit i = false) ∧ (ctzNat x w < w → x.testBit (ctzNat x w) = true) := by
  induction w generalizing x with
  | zero => simp [ctzNat]
  | succ w ih =>
    obtain ⟨le, below, at_⟩ := ih (x / 2)
    rw [ctzNat]
    split
    next odd => simp [Nat.testBit_zero, odd]
    next even =>
      refine ⟨by omega, fun i hi => ?_, fun lt => ?_⟩
      · cases i with
        | zero => simpa [Nat.testBit_zero] using even
        | succ i => rw [Nat.testBit_succ]; exact below i (by omega)
      · rw [Nat.add_comm, Nat.testBit_succ]
        exact at_ (by omega)

theorem popCount_eq (x n : Nat) : popCount x n = ((List.range n).filter x.testBit).length := by
  induction n with
  | zero => rfl
  | succ n ih =>
    rw [popCount, ih, List.range_succ, List.filter_append, List.length_append, Nat.add_comm]
    cases h : x.testBit n <;> simp [h, ofBool]

theorem popCount_le (x n : Nat) : popCount x n ≤ n := by
  rw [popCount_eq]
  exact (List.length_filter_le ..).trans_eq List.length_range

/-- A word holds a count of its bits as it is. -/
theorem toNat_ofNat_of_le {c : Nat} (h : c ≤ 64) : (BitVec.ofNat 64 c).toNat = c := Nat.mod_eq_of_lt (by omega)

section
variable {a v : W64}

theorem clz_bits (h : v.toNat = clzNat 64 a.toNat) : v.toNat ≤ 64 ∧ (∀ i, 64 - v.toNat ≤ i → a.getLsbD i = false) ∧
    (v.toNat < 64 → a.getLsbD (63 - v.toNat) = true) := by
  rw [h]
  exact clzNat_spec a.isLt

theorem ctz_bits (h : v.toNat = ctzNat a.toNat 64) : v.toNat ≤ 64 ∧ (∀ i, i < v.toNat → a.getLsbD i = false) ∧
    (v.toNat < 64 → a.getLsbD v.toNat = true) := by
  rw [h]
  exact ctzNat_spec 64 a.toNat

end

/-! ### Bit fields -/

theorem getLsbD_lowMask (w : Nat) {i : Nat} (hi : i < 64) : (BitVec.ofNat 64 (2 ^ w - 1)).getLsbD i = decide (i < w) := by
  rw [BitVec.getLsbD_ofNat, Nat.testBit_two_pow_sub_one, decide_eq_true hi, Bool.true_and]

/-- The value of BFX: the field of a (R103). -/
def bfExtract (imm : BitVec 32) (a : W64) : W64 := (a >>> bfLsb imm) &&& BitVec.ofNat 64 (2 ^ bfWidth imm - 1)

section
variable (imm : BitVec 32)

theorem bfLsb_eq : bfLsb imm = imm.toNat % 64 := by rw [bfLsb, bits, pow_zero, Nat.div_one, show 2 ^ 6 = 64 from rfl]

theorem bfWidth_eq : bfWidth imm = imm.toNat / 64 % 128 := rfl

theorem getLsbD_bfExtract (a : W64) {i : Nat} (hi : i < 64) :
    (bfExtract imm a).getLsbD i = (decide (i < imm.toNat / 64 % 128) && a.getLsbD (imm.toNat % 64 + i)) := by
  rw [bfExtract, BitVec.getLsbD_and, getLsbD_lowMask _ hi, BitVec.getLsbD_ushiftRight, Bool.and_comm, bfLsb_eq, bfWidth_eq]

theorem getLsbD_bfInsert (d a : W64) {i : Nat} (hi : i < 64) :
    (bfInsert imm d a).getLsbD i =
      if imm.toNat % 64 ≤ i ∧ i < imm.toNat % 64 + imm.toNat / 64 % 128 then a.getLsbD (i - imm.toNat % 64) else d.getLsbD i := by
  rw [bfInsert, bfLsb_eq, bfWidth_eq]
  generalize imm.toNat % 64 = lsb
  generalize imm.toNat / 64 % 128 = wid
  have place : i - lsb < 64 := by omega
  simp only [BitVec.getLsbD_or, BitVec.getLsbD_and, BitVec.getLsbD_not, BitVec.getLsbD_shiftLeft, getLsbD_lowMask _ place,
    decide_eq_true hi, Bool.true_and]
  by_cases low : i < lsb
  · simp [low]
  · by_cases inside : i < lsb + wid
    · simp [low, inside, Nat.not_lt.mp low, show i - lsb < wid by omega]
    · simp [low, inside, show ¬ i - lsb < wid by omega]

end

theorem execBfi_gives {s : State} {g : Guard} {f : FmtS} (h : SRuns s g [f.ga.toNat, f.gd.toNat]) :
    SGives s (execBfi g f s) f.gd.toNat (bfInsert f.imm ((here s).readG f.gd.toNat) ((here s).readG f.ga.toNat)) := by
  rw [execBfi, sWord_gated (srcs := [srcA f]) h]
  exact sGives_putG h.1 ..

/-- Settles O9: the counts are those of `clzNat_spec`, `ctzNat_spec` and `popCount_eq`, the fields those of a mask of low bits. -/
theorem scalarBitCounts : Obligations.ScalarBitCounts := by
  intro s g f h a d old lsb wid
  refine ⟨⟨_, clz_bits (toNat_ofNat_of_le (clzNat_spec a.isLt).1), sUn_gives h fun a => BitVec.ofNat 64 (clzNat 64 a.toNat)⟩,
    ⟨_, ctz_bits (toNat_ofNat_of_le (ctzNat_spec 64 a.toNat).1), sUn_gives h fun a => BitVec.ofNat 64 (ctzNat a.toNat 64)⟩,
    ⟨_, (toNat_ofNat_of_le (popCount_le ..)).trans (popCount_eq a.toNat 64),
      sUn_gives h fun a => BitVec.ofNat 64 (popCount a.toNat 64)⟩, fun _ =>
    ⟨⟨_, fun i hi => ?_, sUn_gives h (bfExtract f.imm)⟩, ⟨_, fun i hi => ?_, execBfi_gives h⟩⟩⟩
  · exact getLsbD_bfExtract f.imm a hi
  · exact getLsbD_bfInsert f.imm old a hi

end Sys2Proof.Machine
end

section
/-! The proofs of O11 and O15: what an S word answers that retires void, and what TRAP answers (R59, R97, R106, R121, R361). -/

namespace Sys2Proof.Machine

open Sys2Proof.Safety

/-! ### A retired S word, void or not -/

section
variable (x : Tile) (pc : Nat) (leave void : Bool) (chunk : Nat)

theorem Tile.fixedS_retireS : fixedS (x.retireS pc leave void chunk) = fixedS x := by cases void <;> rfl

theorem Tile.retireS_pc : (x.retireS pc leave void chunk).pc = BitVec.ofNat 20 pc := by cases void <;> rfl

theorem Tile.retireS_sIn : (x.retireS pc leave void chunk).sIn = (x.sIn && !leave && pc != x.sEnd) := by cases void <;> rfl

theorem Tile.retireS_waitWhy : (x.retireS pc leave void chunk).waitWhy .S = 0 := by
  cases void <;> exact Tile.waitWhy_setWait x .S 0

theorem Tile.retireS_pcs : (x.retireS pc leave false chunk).pcs = (x.count 2 1).pcs := rfl

end

/-- An S word retires on the tile that its effects have left. -/
theorem State.retire_S {s : State} (he : s.issue.eng = .S) (void : Bool) :
    s.retire void = s.setTile s.issue.tile ((here s).retireS (s.issue.addr + 1) false void ((here s).chunk + 1)) := if_pos he

theorem State.retire_putTile {s : State} (he : s.issue.eng = .S) (y : Tile) (void : Bool) :
    (s.putTile y).retire void = s.setTile s.issue.tile (y.retireS (s.issue.addr + 1) false void (y.chunk + 1)) := by
  have answer := State.retire_S (s := s.putTile y) he void
  have tile : here (s.putTile y) = y := State.tile_setTile_self ..
  rw [answer, tile]
  exact State.setTile_setTile ..

theorem sWord_void_S {s : State} {g : Guard} {k : Tile → Ending} (he : s.issue.eng = .S) (hg : (here s).guardS g = false) :
    sWord s g k = .next (s.setTile s.issue.tile ((here s).retireS (s.issue.addr + 1) false true ((here s).chunk + 1))) :=
  (sWord_void hg).trans (congrArg Host.Outcome.next (State.retire_S he true))

/-- The tile of the word being executed after it is set. -/
theorem here_setTile (s : State) (y : Tile) : here (s.setTile s.issue.tile y) = y := State.tile_setTile_self ..

theorem readC_of_fixedS {x y : Tile} (h : fixedS x = fixedS y) (m : Nat) : x.readC m = y.readC m := by
  have c : x.c = y.c := (congrArg Tile.c h :)
  rw [Tile.readC, Tile.readC, c]

/-! ### Compares whose guard is false -/

/-- The tile after a compare whose guard is false: in the .z form its pair is clear (R106). -/
def Tile.clearPair (x : Tile) (f : FmtS) : Tile :=
  if f.cs.getLsbD 4 then (x.writeC f.ct.toNat false).writeC f.cf.toNat false else x

theorem Tile.fixedS_writeC (x : Tile) (n : Nat) (b : Bool) : { fixedS (x.writeC n b) with c := 0 } = { fixedS x with c := 0 } := by
  unfold Tile.writeC
  split <;> rfl

theorem Tile.fixedS_clearPair (x : Tile) (f : FmtS) : { fixedS (x.clearPair f) with c := 0 } = { fixedS x with c := 0 } := by
  unfold Tile.clearPair
  split
  · rw [Tile.fixedS_writeC, Tile.fixedS_writeC]
  · rfl

theorem Tile.readC_clearPair (x : Tile) (f : FmtS) {m : Nat} (hm : m < 8) :
    (x.clearPair f).readC m =
      if m = 0 then true else if f.cs.getLsbD 4 = true ∧ (m = f.ct.toNat ∨ m = f.cf.toNat) then false else x.readC m := by
  rcases eq_or_ne m 0 with rfl | h0
  · rw [if_pos rfl, Tile.readC_zero]
  · rw [if_neg h0, Tile.clearPair]
    split
    next z =>
      rw [Tile.readC_writeC _ _ _ _ hm, Tile.readC_writeC _ _ _ _ hm]
      have named : ∀ n, (m = n ∧ n ≠ 0) ↔ m = n := fun n => and_iff_left_of_imp fun e => e ▸ h0
      simp only [named, z, true_and]
      by_cases cf : m = f.cf.toNat
      · rw [if_pos cf, if_pos (.inr cf)]
      · rw [if_neg cf]
        exact if_congr (or_iff_left cf).symm rfl rfl
    next plain => rw [if_neg fun z => plain z.1]

theorem cmpWord_void {s : State} {g : Guard} (f : FmtS) (srcs : List GSrc) (b : Tile → W64) (he : s.issue.eng = .S)
    (hg : (here s).guardS g = false) :
    cmpWord s g f srcs b = .next (s.setTile s.issue.tile
      (((here s).clearPair f).retireS (s.issue.addr + 1) false true (((here s).clearPair f).chunk + 1))) := by
  unfold cmpWord Tile.clearPair
  cases z : f.cs.getLsbD 4
  · simp only [Bool.false_and, Bool.false_eq_true, if_false]
    exact sWord_void_S he hg
  · have off : (true && !(s.tile s.issue.tile).guardS g) = true := by rw [Bool.true_and, Bool.not_eq_true']; exact hg
    exact (if_pos off).trans (congrArg Host.Outcome.next (State.retire_putTile he _ true))

/-- Settles O11: the .z form retires on the tile with its pair clear, the plain form on the tile as it is. -/
theorem compareWithFalseGuard : Obligations.CompareWithFalseGuard := by
  intro s g f i hi he hg
  have void : exec i s = .next (s.setTile s.issue.tile
      (((here s).clearPair f).retireS (s.issue.addr + 1) false true (((here s).clearPair f).chunk + 1))) := by
    rcases hi with rfl | rfl
    · exact cmpWord_void f [srcA f, srcB f] _ he hg
    · exact cmpWord_void f [srcA f] _ he hg
  refine ⟨_, void, onlyTile_setTile .., ?_⟩
  rw [here_setTile]
  refine ⟨Tile.retireS_pc .., Tile.retireS_waitWhy .., fun m hm => ?_, ?_⟩
  · rw [readC_of_fixedS (Tile.fixedS_retireS ..), Tile.readC_clearPair _ _ hm]
  · rw [Tile.fixedS_retireS, Tile.fixedS_clearPair]

/-! ### TRAP -/

/-- The generation of an S trap is that of the innermost record, which a retiring word leaves as it is (R363). -/
theorem Tile.trapGen_retireS (x : Tile) (pc : Nat) (leave : Bool) (chunk q tag : Nat) :
    (x.retireS pc leave false chunk).trapGen .S q tag = x.trapGen .S q tag := rfl

/-- An S word that retires with a trap that is not the point's again traps as it stands after it. -/
theorem State.retireTrap_first {s : State} (he : s.issue.eng = .S) (cause data : Nat)
    (first : ¬ (here s).trapAgain s.scyc s.issue.eng = true) :
    s.retireTrap s cause data = (s.retire false).takeTrap s.issue false cause data := by
  have gen : ((s.retire false).tile s.issue.tile).trapGen s.issue.eng s.issue.seq s.issue.tag =
      (s.tile s.issue.tile).trapGen s.issue.eng s.issue.seq s.issue.tag := by
    rw [State.retire_S he, State.tile_setTile_self, he, Tile.trapGen_retireS]
    rfl
  rw [State.takeTrap, gen]
  exact (if_neg first).trans (if_pos he)

/-- A first trap with which nothing else gives way, of a tile that has just been set. -/
theorem State.takeTrap_setTile {s : State} {w : Issue} {y : Tile} (fwd : Bool) (cause data : Nat)
    (first : ¬ y.trapAgain s.scyc w.eng = true) (nothing : y.stop.bind Stop.back = none)
    (area : ∀ p l, y.point = some p → s.launch? p.slot = some l → l.ctxVA ≠ 0) (idle : y.point = none → s.launch? 64 = none) :
    (s.setTile w.tile y).takeTrap w fwd cause data =
      s.setTile w.tile (y.withTrap w fwd cause data (y.trapStop s.scyc w.eng (y.trapGen w.eng w.seq w.tag))) := by
  have tile : (s.setTile w.tile y).tile w.tile = y := State.tile_setTile_self ..
  rw [State.takeTrap_first fwd cause data (by rwa [tile]) (by rwa [tile]) (by rwa [tile]), State.giveBack_none (by rwa [tile]),
    State.stopAt, tile]
  exact State.setTile_setTile ..

theorem execTrap_on {s : State} {g : Guard} (f : FmtS) (hg : (here s).guardS g = true) :
    exec (.trap g f) s = .next (s.retireTrap s 0x0D (2 ^ 63 + f.imm.toNat)) := by
  change execTrap g f s = _
  rw [execTrap, sWord_on hg, finish]

theorem execTrap_off {s : State} {g : Guard} (f : FmtS) (he : s.issue.eng = .S) (hg : (here s).guardS g = false) :
    exec (.trap g f) s =
      .next (s.setTile s.issue.tile ((here s).retireS (s.issue.addr + 1) false true ((here s).chunk + 1))) :=
  (sWord_void_S he hg : execTrap g f s = _)

/-- The tile after a TRAP that is its point's first trap: the word has retired, and then it traps. -/
def State.trappedTile (s : State) (f : FmtS) : Tile :=
  let y := (here s).retireS (s.issue.addr + 1) false false ((here s).chunk + 1)
  y.withTrap s.issue false 0x0D (2 ^ 63 + f.imm.toNat)
    (y.trapStop s.scyc s.issue.eng (y.trapGen s.issue.eng s.issue.seq s.issue.tag))

theorem execTrap_first {s : State} {g : Guard} (f : FmtS) (he : s.issue.eng = .S) (hg : (here s).guardS g = true)
    (first : ∀ st, (here s).stop = some st → st.trapped = false ∧ st.back = none)
    (area : ∀ p l, (here s).point = some p → s.launch? p.slot = some l → l.ctxVA ≠ 0)
    (idle : (here s).point = none → s.launch? 64 = none) :
    exec (.trap g f) s = .next (s.setTile s.issue.tile (s.trappedTile f)) := by
  have notAgain : ¬ (here s).trapAgain s.scyc s.issue.eng = true := fun again => by
    obtain ⟨st, hst, ht, -⟩ := (Tile.trapAgain_iff ..).mp again
    exact Bool.noConfusion ((first st hst).1.symm.trans ht)
  have nothing : (here s).stop.bind Stop.back = none := by
    cases h : (here s).stop with
    | none => rfl
    | some st => exact (first st h).2
  rw [execTrap_on f hg, State.retireTrap_first he _ _ notAgain, State.retire_S he]
  exact congrArg Host.Outcome.next (State.takeTrap_setTile false _ _ notAgain nothing area idle)

/-- TRAP_DATA of a TRAP: bit 63, and the immediate. -/
theorem trapData_eq (i : BitVec 32) : BitVec.ofNat 64 (2 ^ 63 + i.toNat) = 0x8000000000000000 ||| i.zeroExtend 64 := by
  have low : i.toNat < 2 ^ 63 := i.isLt.trans (by decide)
  have sum : 2 ^ 63 + i.toNat = 2 ^ 63 ||| i.toNat := by simpa only [mul_one] using Nat.two_pow_add_eq_or_of_lt low 1
  rw [sum, BitVec.ofNat_or, BitVec.ofNat_toNat]
  rfl

/-- Settles O15: the first TRAP of its point is `execTrap_first`; one that is not changes only why its engine waits. -/
theorem trapWord : Obligations.TrapWord := by
  intro s g f he
  refine ⟨fun hg first area idle => ?_, fun hg st hst ht hc => ?_, fun hg => ?_⟩
  · refine ⟨_, execTrap_first f he hg first area idle, onlyTile_setTile .., ?_⟩
    rw [here_setTile]
    refine ⟨rfl, ?_, rfl, ?_, trapData_eq f.imm, Tile.retireS_pc .., Tile.retireS_pcs .., ?_, ?_⟩
    · exact congrArg (fun e => BitVec.ofNat 4 (Engine.code e)) he
    · exact congrArg (BitVec.ofNat 16) (show s.issue.tag % 256 * 256 + s.issue.num % 256 = _ by omega)
    · obtain ⟨isTrap, eng, -⟩ := Tile.trapStop_fields ((here s).retireS (s.issue.addr + 1) false false ((here s).chunk + 1)) s.scyc
        s.issue.eng (Tile.trapGen _ s.issue.eng s.issue.seq s.issue.tag)
      exact ⟨_, rfl, isTrap, eng.trans (congrArg some he)⟩
    · exact congrArg (fun x : Tile => { x with
        trapCause := 0, trapEngine := 0, trapSection := 0, trapWord := 0, trapData := 0, stop := none }) (Tile.fixedS_retireS ..)
  · have again : (here s).trapAgain s.scyc s.issue.eng = true := (Tile.trapAgain_iff ..).mpr ⟨st, hst, ht, .inl hc⟩
    rw [execTrap_on f hg]
    exact congrArg Host.Outcome.next (if_pos again)
  · refine ⟨_, execTrap_off f he hg, onlyTile_setTile .., ?_⟩
    rw [here_setTile]
    exact ⟨Tile.retireS_pc .., Tile.fixedS_retireS ..⟩

end Sys2Proof.Machine
end

section
/-! The proof of O18: LFOR, LNEXT and LIDX (R89, R90, R115 to R118). -/

namespace Sys2Proof.Machine

open Sys2Proof.Safety

/-! ### The fields of a loop-index stack entry (Table 05-2) -/

section
variable (rec : Bool) (stg exit body idx lim : Nat)

theorem toNat_kMake : (kMake rec stg exit body idx lim).toNat =
    2 ^ 127 + ofBool rec * 2 ^ 126 + stg % 8 * 2 ^ 123 + exit % 2 ^ 20 * 2 ^ 84 + body % 2 ^ 20 * 2 ^ 64 + idx % 2 ^ 32 * 2 ^ 32 +
      lim % 2 ^ 32 := by
  have one : ofBool rec ≤ 1 := by cases rec <;> decide
  rw [kMake, BitVec.toNat_ofNat]
  exact Nat.mod_eq_of_lt (by omega)

theorem kValid_kMake : kValid (kMake rec stg exit body idx lim) = true := by
  rw [kValid, BitVec.getLsbD, toNat_kMake, Nat.testBit_eq_decide_div_mod_eq, decide_eq_true_eq]
  cases rec <;> simp only [ofBool, if_true, Bool.false_eq_true, if_false] <;> omega

theorem kRec_kMake : kRec (kMake rec stg exit body idx lim) = rec := by
  rw [kRec, BitVec.getLsbD, toNat_kMake, Nat.testBit_eq_decide_div_mod_eq]
  cases rec <;> simp only [ofBool, if_true, Bool.false_eq_true, if_false, decide_eq_true_eq, decide_eq_false_iff_not] <;> omega

theorem kStg_kMake : kStg (kMake rec stg exit body idx lim) = stg % 8 := by
  rw [kStg, bits, toNat_kMake]
  omega

theorem kExit_kMake : kExit (kMake rec stg exit body idx lim) = exit % 2 ^ 20 := by
  rw [kExit, bits, toNat_kMake]
  omega

theorem kBody_kMake : kBody (kMake rec stg exit body idx lim) = body % 2 ^ 20 := by
  rw [kBody, bits, toNat_kMake]
  omega

theorem kIdx_kMake : kIdx (kMake rec stg exit body idx lim) = idx % 2 ^ 32 := by
  rw [kIdx, bits, toNat_kMake]
  omega

theorem kLim_kMake : kLim (kMake rec stg exit body idx lim) = lim % 2 ^ 32 := by
  rw [kLim, bits, toNat_kMake]
  omega

end

/-- An entry with its count set keeps its other fields. -/
theorem kWithIdx_fields (e : BitVec 128) {i : Nat} (hi : i < 2 ^ 32) :
    kIdx (kWithIdx e i) = i ∧ kLim (kWithIdx e i) = kLim e ∧ kBody (kWithIdx e i) = kBody e ∧ kExit (kWithIdx e i) = kExit e ∧
      kRec (kWithIdx e i) = kRec e := by
  rw [kWithIdx, kIdx_kMake, kLim_kMake, kBody_kMake, kExit_kMake, kRec_kMake]
  exact ⟨Nat.mod_eq_of_lt hi, Nat.mod_eq_of_lt (bits_lt ..), Nat.mod_eq_of_lt (bits_lt ..), Nat.mod_eq_of_lt (bits_lt ..), rfl⟩

/-! ### Words that are taken (R70) -/

/-- The state after an S word that changes its tile to y and is taken. -/
def State.jumped (s : State) (y : Tile) (pc : Nat) : State :=
  s.setTile s.issue.tile (y.retireS (pc % 2 ^ 20) true false (y.chunk + 1))

theorem ofNat_mod_addr (pc : Nat) : BitVec.ofNat 20 (pc % 2 ^ 20) = BitVec.ofNat 20 pc :=
  BitVec.eq_of_toNat_eq (by simp only [BitVec.toNat_ofNat, Nat.mod_mod])

theorem sNext_mod {s t : State} {pc : Nat} : SNext s t (pc % 2 ^ 20) ↔ SNext s t pc := by
  rw [SNext, SNext, ofNat_mod_addr]

theorem State.jumped_spec {s : State} {y : Tile} (hp : y.pcs = (here s).pcs) (hs : y.perfSel = (here s).perfSel) (pc : Nat) :
    SNext s (s.jumped y pc) pc ∧ (here (s.jumped y pc)).sIn = false ∧ fixedS (here (s.jumped y pc)) = fixedS y := by
  rw [SNext, State.jumped, here_setTile, Tile.retireS_pc, Tile.retireS_sIn, Tile.fixedS_retireS, Bool.not_true, Bool.and_false,
    Bool.false_and]
  exact ⟨⟨onlyTile_setTile .., ofNat_mod_addr pc, (Tile.retireS_pcs ..).trans (Tile.count_pcs_congr hp hs 2 1),
    Tile.retireS_waitWhy ..⟩, rfl, rfl⟩

theorem finish_jump (s : State) (y : Tile) (pc : Nat) : finish s (.jump (s.putTile y) pc) = .next (s.jumped y pc) := by
  change Host.Outcome.next ((s.putTile y).jumped (here (s.putTile y)) pc) = _
  rw [show here (s.putTile y) = y from State.tile_setTile_self ..]
  exact congrArg Host.Outcome.next (State.setTile_setTile ..)

theorem finish_jump_self (s : State) (pc : Nat) : finish s (.jump s pc) = .next (s.jumped (here s) pc) := rfl

theorem signExt_eq_toInt {n : Nat} (hn : 0 < n) (x : Nat) : signExt n x = (BitVec.ofNat n x).toInt := by
  obtain ⟨m, rfl⟩ := Nat.exists_eq_succ_of_ne_zero hn.ne'
  rw [signExt, BitVec.toInt_eq_toNat_cond, BitVec.toNat_ofNat, Nat.succ_eq_add_one, Nat.add_sub_cancel, pow_succ]
  split <;> split <;> omega

theorem offsetBy_eq (a : Nat) (off : BitVec 32) : offsetBy a 32 off.toNat = (((a : Int) + off.toInt) % 1048576).toNat := by
  rw [offsetBy, wrap, signExt_eq_toInt (by decide), BitVec.ofNat_toNat, BitVec.setWidth_eq]
  rfl

/-! ### Counted loops -/

theorem ks_of_fixedS {x y : Tile} (h : fixedS x = fixedS y) : x.ks = y.ks := (congrArg Tile.ks h :)

section
variable {s : State} {g : Guard}

theorem execLfor_on {f : FmtB} (h : SRuns s g [f.ga.toNat]) :
    exec (.lfor g f) s = finish s
      (if (here s).ks.length ≥ 6 then .trap s 0x0B 0
       else if ((here s).readG f.ga.toNat).toNat > 2 ^ 32 - 1 then .trap s 0x0B 2
       else if ((here s).readG f.ga.toNat).toNat = 0 then .jump s (offsetBy s.issue.addr 32 f.off.toNat)
       else .jump (s.putTile ((here s).pushK (kMake false 0 (offsetBy s.issue.addr 32 f.off.toNat) (s.issue.addr + 1) 0
         ((here s).readG f.ga.toNat).toNat) none)) (s.issue.addr + 1)) := by
  change execLfor g f s = _
  rw [execLfor, sWord_gated (srcs := [srcB_ga f]) h]

theorem execLnext_on (f : FmtB) (h : SRuns s g []) {e : BitVec 128} {l : List (BitVec 128)} (hk : (here s).ks = e :: l) :
    exec (.lnext g f) s = finish s
      (if kRec e then .trap s 0x0B 1
       else if kIdx e + 1 < kLim e then .jump (s.putTile ((here s).setK0 (kWithIdx e (kIdx e + 1)))) (offsetBy s.issue.addr 32 f.off.toNat)
       else .jump (s.putTile (here s).popK) (kExit e)) := by
  change execLnext g f s = _
  rw [execLnext, sWord_on h.2.1]
  simp only [hk]

theorem execLnext_empty (f : FmtB) (h : SRuns s g []) (hk : (here s).ks = []) :
    exec (.lnext g f) s = .next (s.takeTrap s.issue false 0x0B 1) := by
  change execLnext g f s = _
  rw [execLnext, sWord_on h.2.1]
  simp only [hk]
  exact finish_trap ..

theorem execLidx_on {f : FmtS} (h : SRuns s g [f.gd.toNat]) :
    exec (.lidx g f) s =
      finish s (.retire (s.putG f.gd.toNat (BitVec.ofNat 64 (kIdx ((here s).ks.getD (f.imm.toNat % 8) 0))))) := by
  change execLidx g f s = _
  rw [execLidx, sWord_gated (srcs := []) h]

end

/-- Settles O18: LFOR and LNEXT are `State.jumped` on the tile with its stack pushed, counted or popped, and LIDX writes a register. -/
theorem countedLoopWords : Obligations.CountedLoopWords := by
  refine ⟨fun s g f h => ?_, fun s g f e l h hk counted small => ?_, fun s g f h record => ?_, fun s g f h => ?_⟩
  · intro x N exit
    rw [execLfor_on h, offsetBy_eq]
    refine ⟨fun deep => ?_, fun room big => ?_, fun room zero => ?_, fun room pos fits => ?_⟩
    · rw [if_pos deep]
      exact finish_trap ..
    · rw [if_neg (Nat.not_le.mpr room), if_pos big]
      exact finish_trap ..
    · rw [if_neg (Nat.not_le.mpr room), if_neg (Nat.not_lt.mpr (zero.trans_le (Nat.zero_le _))), if_pos zero, finish_jump_self]
      exact ⟨_, rfl, State.jumped_spec rfl rfl _⟩
    · rw [if_neg (Nat.not_le.mpr room), if_neg (Nat.not_lt.mpr fits), if_neg pos.ne', finish_jump]
      obtain ⟨next, sIn, frame⟩ := State.jumped_spec (s := s) (y := x.pushK (kMake false 0 exit (s.issue.addr + 1) 0 N) none) rfl rfl
        (s.issue.addr + 1)
      refine ⟨_, _, rfl, sNext_mod.mpr next, sIn, ks_of_fixedS frame, kValid_kMake .., kRec_kMake .., kStg_kMake .., kBody_kMake ..,
        (kExit_kMake ..).trans ?_, kIdx_kMake .., (kLim_kMake ..).trans ?_, ?_⟩
      · exact Nat.mod_eq_of_lt (by omega)
      · exact Nat.mod_eq_of_lt (by omega)
      · rw [frame]
        rfl
  · intro x
    rw [execLnext_on f h hk, counted, if_neg (by decide), offsetBy_eq]
    refine ⟨fun more => ?_, fun last => ?_⟩
    · obtain ⟨idx, lim, body, exit, rec⟩ := kWithIdx_fields e (i := kIdx e + 1) (by omega)
      rw [if_pos more, finish_jump]
      obtain ⟨next, sIn, frame⟩ := State.jumped_spec (s := s) (y := x.setK0 (kWithIdx e (kIdx e + 1))) rfl rfl
        (((s.issue.addr : Int) + f.off.toInt) % 1048576).toNat
      refine ⟨_, _, rfl, next, sIn, (ks_of_fixedS frame).trans ?_, idx, lim, body, exit, rec.trans counted, ?_⟩
      · rw [Tile.setK0, hk]
        rfl
      · rw [frame]
        rfl
    · rw [if_neg (Nat.not_lt.mpr last), finish_jump]
      obtain ⟨next, sIn, frame⟩ := State.jumped_spec (s := s) (y := x.popK) rfl rfl (kExit e)
      refine ⟨_, rfl, next, sIn, (ks_of_fixedS frame).trans ?_, ?_⟩
      · rw [Tile.popK, hk]
        rfl
      · rw [frame]
        rfl
  · cases hk : (here s).ks with
    | nil => exact execLnext_empty f h hk
    | cons e l =>
      rw [execLnext_on f h hk, if_pos (record e l hk)]
      exact finish_trap ..
  · have entry : BitVec.ofNat 64 (kIdx ((here s).ks.getD (f.imm.toNat % 8) 0)) =
        match (here s).ks[f.imm.toNat % 8]? with | some k => BitVec.ofNat 64 (kIdx k) | none => 0 := by
      rw [List.getD_eq_getElem?_getD]
      cases (here s).ks[f.imm.toNat % 8]? <;> rfl
    rw [execLidx_on h, entry]
    exact sGives_putG h.1 ..

end Sys2Proof.Machine
end

section
/-! The proof of O20: SLD and SST (R123, R124, R203, R204, R293, R296). -/

namespace Sys2Proof.Machine

open Sys2Proof.Safety

/-! ### Access sizes (Table 06-3) -/

theorem smBytes_eq {size : Nat} (h : size ≤ 6) : smBytes size = sizeBytes size := by
  interval_cases size <;> rfl

/-- A signed field of a number is its extension. -/
theorem ofInt_signExt {n : Nat} (hn : 0 < n) (x : Nat) : BitVec.ofInt 64 (signExt n x) = (BitVec.ofNat n x).signExtend 64 := by
  rw [signExt_eq_toInt hn]
  rfl

theorem smWiden_eq {size : Nat} (h : size ≤ 6) (bs : List Byte) : smWiden size (ofBytes bs) = loaded size bs := by
  rcases Nat.lt_or_ge size 4 with narrow | wide
  · have plain : loaded size bs = BitVec.ofNat 64 (ofBytes bs) :=
      (if_neg (by omega)).trans ((if_neg (by omega)).trans (if_neg (by omega)))
    rw [plain, smWiden, if_neg (Nat.not_le.mpr narrow)]
  · have signed {n : Nat} (hn : 8 * smBytes size = n) (pos : 0 < n) :
        smWiden size (ofBytes bs) = (BitVec.ofNat n (ofBytes bs)).signExtend 64 := by
      rw [smWiden, if_pos wide, hn, ofInt_signExt pos]
    interval_cases size
    · exact signed (n := 8) rfl (by decide)
    · exact signed (n := 16) rfl (by decide)
    · exact signed (n := 32) rfl (by decide)

theorem getD_toBytes (n x i : Nat) (hi : i < n) : (toBytes n x).getD i 0 = BitVec.ofNat 8 (x / 256 ^ i) := by
  induction n generalizing x i with
  | zero => exact absurd hi (Nat.not_lt_zero i)
  | succ n ih =>
    cases i with
    | zero => rw [pow_zero, Nat.div_one]; rfl
    | succ i => rw [toBytes, List.getD_cons_succ, ih _ _ (Nat.lt_of_succ_lt_succ hi), Nat.div_div_eq_div_mul, pow_succ']

theorem byte_eq_extractLsb' (v : W64) (i : Nat) : BitVec.ofNat 8 (v.toNat / 256 ^ i) = v.extractLsb' (8 * i) 8 := by
  refine BitVec.eq_of_toNat_eq ?_
  rw [BitVec.extractLsb'_toNat, BitVec.toNat_ofNat, Nat.shiftRight_eq_div_pow, pow_mul, show 2 ^ 8 = 256 from rfl]

/-! ### Words that note their accesses, or resolve an input outside replay -/

theorem State.retire_note {s : State} (he : s.issue.eng = .S) (ws : List Trail) (void : Bool) :
    (s.note ws).retire void = (s.retire void).note ws := by
  rw [State.retire_S he, State.retire_S (s := s.note ws) he]
  rfl

theorem finish_retire_note {s u t : State} (he : u.issue.eng = .S) (ws : List Trail) (ht : finish s (.retire u) = .next t) :
    finish s (.retire (u.note ws)) = .next (t.note ws) := by
  have retired : u.retire false = t := Host.Outcome.next.inj ht
  exact congrArg Host.Outcome.next ((State.retire_note he ws false).trans (congrArg (State.note · ws) retired))

theorem chunkEnd_noReplay {s : State} (h : NoReplay s) (isS : Bool) (code len val : Nat) :
    s.chunkEnd s.issue.tile isS code len val = .done s val := by
  unfold State.chunkEnd
  cases hl : s.launchOf s.issue.tile with
  | none => rfl
  | some l => simp [h l hl]

theorem finish_input {s : State} (h : NoReplay s) (code val why : Nat) (k : Nat → State → State) :
    finish s (.input s code val why k) =
      .next (((k val s).retire false).setTile s.issue.tile { ((k val s).retire false).tile s.issue.tile with chunk := 0 }) := by
  simp only [finish, chunkEnd_noReplay h]

theorem Tile.writeG_perfSel (x : Tile) (n : Nat) (v : W64) : (x.writeG n v).perfSel = x.perfSel := by
  unfold Tile.writeG
  split <;> rfl

/-- An S word that writes a general register and resolves an input: its chunk starts again at 0, and nothing else is different. -/
theorem sGives_input {s : State} (he : s.issue.eng = .S) (h : NoReplay s) (code why n : Nat) (v : W64) :
    SGives s (finish s (.input s code v.toNat why fun w s1 => s1.putG n (BitVec.ofNat 64 w))) n v := by
  have retired : (s.putG n v).retire false = s.setTile s.issue.tile _ := State.retire_putTile he ((here s).writeG n v) false
  rw [finish_input h, BitVec.ofNat_toNat, BitVec.setWidth_eq, retired, State.tile_setTile_self, State.setTile_setTile]
  generalize hz : ((here s).writeG n v).retireS (s.issue.addr + 1) false false (((here s).writeG n v).chunk + 1) = z
  have frame : fixedS z = fixedS ((here s).writeG n v) := hz ▸ Tile.fixedS_retireS ..
  have pcs : z.pcs = ((here s).count 2 1).pcs :=
    hz ▸ (Tile.retireS_pcs ..).trans (Tile.count_pcs_congr (Tile.writeG_pcs ..) (Tile.writeG_perfSel ..) 2 1)
  refine ⟨_, rfl, ⟨onlyTile_setTile .., ?_⟩, ?_⟩
  all_goals rw [here_setTile]
  · exact ⟨hz ▸ Tile.retireS_pc .., pcs, hz ▸ Tile.retireS_waitWhy ..⟩
  · refine ⟨fun m => ?_, ?_⟩
    · rw [← Tile.readG_writeG]
      exact Tile.readG_of_g (g_of_fixedS frame) m
    · rw [← Tile.fixedS_writeG (here s) n v, ← frame]
      rfl

theorem watched_none {s : State} {rows : List Nat} {write : Bool} (h : (here s).watch rows write false = none) (k : State → Ending) :
    watched s rows write k = k s := by
  have none_ : (s.tile s.issue.tile).watch rows write false = none := h
  simp only [watched, none_]

/-- What an S word that changes its tile to y, notes its accesses and retires answers. -/
theorem finish_retireS_note {s : State} {y : Tile} (he : s.issue.eng = .S) (hp : y.pcs = (here s).pcs)
    (hs : y.perfSel = (here s).perfSel) (ws : List Trail) :
    ∃ t, finish s (.retire ((s.putTile y).note ws)) = .next t ∧ SNext s t (s.issue.addr + 1) ∧ fixedS (here t) = fixedS y := by
  obtain ⟨t, ht, next, frame⟩ := finish_retireS he hp hs
  exact ⟨t.note ws, finish_retire_note (u := s.putTile y) he ws ht, next, frame⟩

/-! ### SLD -/

section
variable {s : State} {g : Guard} {f : FmtSM}

/-- The value of an SLD: its bytes as the ordinary domain finds them (R296), widened. -/
def sldValue (s : State) (f : FmtSM) (a : Nat) : W64 :=
  loaded f.size.toNat (((here s).ordinary s.issue.tile .S f.cls.toNat (2048 * (here s).seqNext + 1)).readBytes a (sizeBytes f.size.toNat))

variable (h : SRuns s g [f.ga.toNat, f.gb.toNat, f.gd.toNat])
include h

theorem execSld_fault {d : Nat} (ha : (here s).smAddr f = .error d) : Traps s (exec (.sld g f) s) 8 d := by
  change execSld g f s = _
  rw [execSld, sWord_gated (srcs := [smA f, smB f]) h]
  simp only [ha]
  exact finish_trap ..

theorem execSld_open {a : Nat} (ha : (here s).smAddr f = .ok a)
    (hold : (here s).classHold (here s).nowSeq .S f.cls.toNat = true) : Waits s (exec (.sld g f) s) 8 := by
  change execSld g f s = _
  rw [execSld, sWord_gated (srcs := [smA f, smB f]) h]
  simp only [ha, hold, if_true]
  exact finish_wait ..

theorem execSld_ok {a : Nat} (ha : (here s).smAddr f = .ok a) (size : f.size.toNat ≤ 6)
    (free : (here s).classHold (here s).nowSeq .S f.cls.toNat = false) (watch : (here s).watch [a / 256] false false = none) :
    exec (.sld g f) s = finish s
      (if a < 1024 then .input s 6 (sldValue s f a).toNat 8 fun n s1 => s1.putG f.gd.toNat (BitVec.ofNat 64 n)
       else .retire ((s.putG f.gd.toNat (sldValue s f a)).noteRows s.issue.tile [a / 256])) := by
  have value : smWiden f.size.toNat (Memory.readLE ((here s).ordinary s.issue.tile .S f.cls.toNat ((here s).posOf (here s).nowSeq .S)).sp a
      (smBytes f.size.toNat)) = sldValue s f a := by
    rw [Memory.readLE, smWiden_eq size, smBytes_eq size]
    rfl
  change execSld g f s = _
  rw [execSld, sWord_gated (srcs := [smA f, smB f]) h]
  simp only [ha, free, Bool.false_eq_true, if_false, watched_none watch, value]

theorem execSld_gives {a : Nat} (ha : (here s).smAddr f = .ok a) (size : f.size.toNat ≤ 6)
    (free : (here s).classHold (here s).nowSeq .S f.cls.toNat = false) (watch : (here s).watch [a / 256] false false = none)
    (quiet : NoReplay s) : SGives s (exec (.sld g f) s) f.gd.toNat (sldValue s f a) := by
  rw [execSld_ok h ha size free watch]
  split
  · exact sGives_input h.1 quiet ..
  · obtain ⟨t, ht, gives⟩ := sGives_putG h.1 f.gd.toNat (sldValue s f a)
    exact ⟨_, finish_retire_note (u := s.putG _ _) h.1 _ ht, gives⟩

end

/-! ### SST -/

theorem Tile.noteCode_eq (x : Tile) (r : Nat) (on : Nat → Bool) (need : CodeNeed) :
    ∃ l, x.noteCode r on need = { x with codeOld := l } := by
  unfold Tile.noteCode
  split
  · exact ⟨_, rfl⟩
  · exact ⟨_, rfl⟩

/-- Bytes stored from address a up, and nothing else but older contents of code rows. -/
structure Stored (x y : Tile) (a : Nat) (bs : List Byte) : Prop where
  bytes : ∀ b, Memory.read y.sp b = if a ≤ b ∧ b < a + bs.length then bs.getD (b - a) 0 else Memory.read x.sp b
  rest : ∃ l sp, y = { x with codeOld := l, sp := sp }

theorem stored_writeBytes (x : Tile) (a : Nat) (need : CodeNeed) (bs : List Byte) : Stored x (x.writeBytes a need bs) a bs := by
  refine ⟨fun b => Tile.read_writeBytes .., ?_⟩
  obtain ⟨l, hl⟩ := x.noteCode_eq (a / 256) (fun b => decide (a ≤ b) && decide (b < a + bs.length)) need
  exact ⟨l, _, by rw [Tile.writeBytes, hl]⟩

theorem stored_writeRow (x : Tile) (a : Nat) (need : CodeNeed) (bs : List Byte) : Stored x (x.writeRow a need (allBytes bs)) a bs := by
  obtain ⟨l, hl⟩ := x.noteCode_eq (a / 256) (fun b => decide (a ≤ b) && ((allBytes bs).getD (b - a) (0, false)).2) need
  have row : x.writeRow a need (allBytes bs) = { x with codeOld := l, sp := Memory.writeMasked x.sp a (allBytes bs) } := by
    rw [Tile.writeRow, hl]
  refine ⟨fun b => ?_, l, _, row⟩
  rw [row, Memory.read_writeMasked, allBytes, List.length_map]
  by_cases inside : a ≤ b ∧ b < a + bs.length
  · have place : b - a < bs.length := by omega
    simp [inside, place]
  · rw [if_neg fun hb => inside ⟨hb.1, hb.2.1⟩, if_neg inside]

section
variable {s : State} {g : Guard} {f : FmtSM}

/-- The bytes that an SST stores. -/
def sstBytes (s : State) (f : FmtSM) : List Byte := toBytes (smBytes f.size.toNat) ((here s).readG f.gd.toNat).toNat

theorem isEmpty_slotsOfRow (x : Tile) (r : Nat) :
    (x.slotsOfRow r).isEmpty = true ↔ ¬ (x.codeRow ≤ r ∧ r < x.codeRow + x.ncode) := by
  unfold Tile.slotsOfRow
  split
  next code => simp [code]
  next data => simp [data]

theorem serveAll_of_no_waiters {t : Nat} (hw : (s.tile t).waiters = []) (b : Setter) (ns : List Nat) : s.serveAll t b ns = s := by
  induction ns with
  | nil => rfl
  | cons n ns ih =>
    have nobody : s.serve t n b = s := by simp [State.serve, hw]
    rw [State.serveAll, nobody, ih]

theorem sst_passes {a : Nat} (may : 1024 ≤ a ∨ (here s).priv.getLsbD 2 = true) :
    (decide (a < 1024) && !(here s).priv.getLsbD 2) = false := by
  rcases may with high | sys
  · rw [decide_eq_false (Nat.not_lt.mpr high), Bool.false_and]
  · rw [sys, Bool.not_true, Bool.and_false]

variable (h : SRuns s g [f.ga.toNat, f.gb.toNat, f.gd.toNat])
include h

theorem execSst_fault {d : Nat} (ha : (here s).smAddr f = .error d) : Traps s (exec (.sst g f) s) 8 d := by
  change execSst g f s = _
  rw [execSst, sWord_gated (srcs := [smA f, smB f]) h]
  simp only [ha]
  exact finish_trap ..

variable {a : Nat} (ha : (here s).smAddr f = .ok a)
include ha

theorem execSst_denied (low : a < 1024) (user : (here s).priv.getLsbD 2 = false) :
    Traps s (exec (.sst g f) s) 8 (f.lay.toNat + 3 * 256) := by
  change execSst g f s = _
  rw [execSst, sWord_gated (srcs := [smA f, smB f]) h]
  simp only [ha, low, user, decide_true, Bool.not_false, Bool.and_self, if_true]
  exact finish_trap ..

variable (may : 1024 ≤ a ∨ (here s).priv.getLsbD 2 = true)
include may

theorem execSst_open (hold : (here s).classHold (here s).nowSeq .S f.cls.toNat = true) : Waits s (exec (.sst g f) s) 8 := by
  change execSst g f s = _
  rw [execSst, sWord_gated (srcs := [smA f, smB f]) h]
  simp only [ha, sst_passes may, hold, Bool.false_eq_true, if_false, if_true]
  exact finish_wait ..

variable (free : (here s).classHold (here s).nowSeq .S f.cls.toNat = false) (watch : (here s).watch [a / 256] true false = none)
include free watch

theorem execSst_direct (place : a < 1024 ∨ ((here s).codeRow ≤ a / 256 ∧ a / 256 < (here s).codeRow + (here s).ncode))
    (alone : a < 1024 → (here s).waiters = []) :
    exec (.sst g f) s = finish s (.retire ((s.putTile ((here s).writeBytes a .none (sstBytes s f))).note
      [spTrail true s.issue.tile a (smBytes f.size.toNat)])) := by
  have direct : (decide (a < 1024) || !((here s).slotsOfRow (a / 256)).isEmpty) = true := by
    rw [Bool.or_eq_true, decide_eq_true_eq, Bool.not_eq_true', ← Bool.not_eq_true, isEmpty_slotsOfRow, not_not]
    exact place
  change execSst g f s = _
  rw [execSst, sWord_gated (srcs := [smA f, smB f]) h]
  simp only [ha, sst_passes may, free, Bool.false_eq_true, if_false, watched_none watch, direct, if_true]
  refine congrArg (fun t => finish s (.retire t)) ?_
  split
  next low =>
    obtain ⟨l, sp, hy⟩ := (stored_writeBytes (s.tile s.issue.tile) a .none (sstBytes s f)).rest
    refine serveAll_of_no_waiters ?_ ..
    refine (congrArg Tile.waiters ((State.tile_setTile_self ..).trans hy)).trans (alone low)
  next high => rfl

theorem execSst_out (high : 1024 ≤ a) (data : ¬ ((here s).codeRow ≤ a / 256 ∧ a / 256 < (here s).codeRow + (here s).ncode)) :
    exec (.sst g f) s = finish s (.retire (s.storeOut f.cls.toNat .none [(a, allBytes (sstBytes s f))])) := by
  have out : (decide (a < 1024) || !((here s).slotsOfRow (a / 256)).isEmpty) = false := by
    rw [decide_eq_false (Nat.not_lt.mpr high), (isEmpty_slotsOfRow ..).mpr data]
    rfl
  change execSst g f s = _
  rw [execSst, sWord_gated (srcs := [smA f, smB f]) h]
  simp only [ha, sst_passes may, free, Bool.false_eq_true, if_false, watched_none watch, out, sstBytes]

end

/-! What SST leaves. -/

section
variable {s : State}

theorem atOnce_iff (he : s.issue.eng = .S) : AtOnce s ↔ s.issue.late = false :=
  and_iff_left fun hl => Engine.noConfusion (he.symm.trans hl)

theorem storeOut_now (now : s.issue.late = false) (cls a : Nat) (bs : List Byte) :
    s.storeOut cls .none [(a, allBytes bs)] =
      (s.putTile ((here s).writeRow a .none (allBytes bs))).note [spTrail true s.issue.tile a (allBytes bs).length] := by
  simp only [State.storeOut, now, Bool.false_eq_true, if_false]
  rfl

theorem storeOut_late (he : s.issue.eng = .S) (late : s.issue.late = true) (cls a : Nat) (bs : List Byte) : ∃ r,
    s.storeOut cls .none [(a, allBytes bs)] = s.putTile { here s with rowsOut := (here s).rowsOut ++ [r] } ∧
      r.pos = 2048 * (here s).seqNext ∧ r.cls = cls ∧ r.eng = .S ∧ r.at_ = a ∧ r.bytes = allBytes bs := by
  refine ⟨_, if_pos late, ?_, rfl, he, rfl, rfl⟩
  rw [he]
  rfl

/-- What an SST that changes its bytes when it executes answers. -/
theorem finish_stored {y : Tile} {a : Nat} {bs : List Byte} (he : s.issue.eng = .S) (hy : Stored (here s) y a bs) (ws : List Trail) :
    ∃ t, finish s (.retire ((s.putTile y).note ws)) = .next t ∧ SNext s t (s.issue.addr + 1) ∧
      SpOutside (here s) (here t) a bs.length ∧ (∀ i, i < bs.length → Memory.read (here t).sp (a + i) = bs.getD i 0) ∧
      renewed { fixedS (here t) with sp := [] } = renewed { fixedS (here s) with sp := [] } := by
  obtain ⟨l, sp, rfl⟩ := hy.rest
  obtain ⟨t, ht, next, frame⟩ := finish_retireS_note (y := { here s with codeOld := l, sp := sp }) he rfl rfl ws
  have bytes : (here t).sp = sp := (congrArg Tile.sp frame :)
  refine ⟨t, ht, next, fun b hb => ?_, fun i hi => ?_, ?_⟩
  · rw [bytes]
    exact (hy.bytes b).trans (if_neg (by omega))
  · rw [bytes]
    refine (hy.bytes (a + i)).trans ?_
    rw [if_pos ⟨Nat.le_add_right .., Nat.add_lt_add_left hi a⟩, Nat.add_sub_cancel_left]
  · rw [frame]
    rfl

theorem length_sstBytes (f : FmtSM) : (sstBytes s f).length = smBytes f.size.toNat := length_toBytes ..

theorem getD_sstBytes (f : FmtSM) {i : Nat} (hi : i < smBytes f.size.toNat) :
    (sstBytes s f).getD i 0 = ((here s).readG f.gd.toNat).extractLsb' (8 * i) 8 := by
  rw [sstBytes, getD_toBytes _ _ _ hi, byte_eq_extractLsb']

end

section
variable {s : State} {g : Guard} {f : FmtSM} {a : Nat}

/-- An SST that changes its bytes when it executes: of a code row or a semaphore always, of another row where the turn says so. -/
theorem execSst_stores (h : SRuns s g [f.ga.toNat, f.gb.toNat, f.gd.toNat]) (ha : (here s).smAddr f = .ok a)
    (free : (here s).classHold (here s).nowSeq .S f.cls.toNat = false) (watch : (here s).watch [a / 256] true false = none)
    (place : (1024 ≤ a ∧ (AtOnce s ∨ ((here s).codeRow ≤ a / 256 ∧ a / 256 < (here s).codeRow + (here s).ncode))) ∨
      (a < 1024 ∧ (here s).priv.getLsbD 2 = true ∧ (here s).waiters = [])) :
    ∃ y ws, exec (.sst g f) s = finish s (.retire ((s.putTile y).note ws)) ∧ Stored (here s) y a (sstBytes s f) := by
  have direct (may) (code) (alone) := execSst_direct h ha may free watch code alone
  rcases place with ⟨high, when_⟩ | ⟨low, sys, alone⟩
  · by_cases code : (here s).codeRow ≤ a / 256 ∧ a / 256 < (here s).codeRow + (here s).ncode
    · exact ⟨_, _, direct (.inl high) (.inr code) fun low => absurd high (Nat.not_le.mpr low), stored_writeBytes ..⟩
    · have now : s.issue.late = false := (atOnce_iff h.1).mp (when_.resolve_right code)
      have out := execSst_out h ha (.inl high) free watch high code
      rw [storeOut_now now] at out
      exact ⟨_, _, out, stored_writeRow ..⟩
  · exact ⟨_, _, direct (.inr sys) (.inl low) fun _ => alone, stored_writeBytes ..⟩

end

/-- Settles O20: an SST is `finish_stored` on what it writes, or adds one access to those on their way. -/
theorem scalarMemoryWords : Obligations.ScalarMemoryWords := by
  intro s g f h size x n open_
  have he : s.issue.eng = .S := h.1
  have width : smBytes f.size.toNat = n := smBytes_eq size
  refine ⟨fun d ha => ⟨execSld_fault h ha, execSst_fault h ha⟩, fun a ha => ⟨execSst_denied h ha, fun hold =>
    ⟨execSld_open h ha hold, fun may => execSst_open h ha may hold⟩, fun free quiet watch => execSld_gives h ha size free watch quiet,
    fun free narrow watch => ?_⟩⟩
  intro code
  refine ⟨fun place => ?_, fun high late data => ?_⟩
  · obtain ⟨y, ws, answer, hy⟩ := execSst_stores h ha free watch place
    obtain ⟨t, ht, next, outside, bytes, frame⟩ := finish_stored he hy ws
    rw [length_sstBytes, width] at outside bytes
    exact ⟨t, answer.trans ht, next, outside, fun i hi => (bytes i hi).trans (getD_sstBytes f (width.symm ▸ hi)), frame⟩
  · have isLate : s.issue.late = true := by simpa [atOnce_iff he] using late
    obtain ⟨r, out, pos, cls, eng, at_, bytes⟩ := storeOut_late he isLate f.cls.toNat a (sstBytes s f)
    obtain ⟨t, ht, next, frame⟩ := finish_retireS (y := { x with rowsOut := x.rowsOut ++ [r] }) he rfl rfl
    refine ⟨t, r, ?_, next, (congrArg Tile.rowsOut frame :), pos, cls, eng, at_, bytes.trans ?_, ?_⟩
    · rw [execSst_out h ha (.inl high) free watch high data, out]
      exact ht
    · rw [← width]
      rfl
    · rw [frame]
      rfl

end Sys2Proof.Machine
end

section
/-! The proof of O34: the integer sum of a reduction and of a scan (R156, R157). Each element of a level holds the total of a window of
the elements below it (`TotalOf`): a combine of two windows side by side is the total of both, whatever the tree. -/

namespace Sys2Proof.Machine

/-! ### The total of a window of present and absent elements -/

/-- y holds the sum mod M of the present elements of l from a on, n of them; it is absent where all of these are. -/
def TotalOf (M : Nat) (l : List (Option Nat)) (a n : Nat) (y : Option Nat) : Prop :=
  (y.isSome = true ↔ ∃ i, i < n ∧ (l.getD (a + i) none).isSome = true) ∧
    y.getD 0 % M = ((List.range n).map fun i => (l.getD (a + i) none).getD 0).sum % M

theorem totalOf_one (M : Nat) (l : List (Option Nat)) (a : Nat) : TotalOf M l a 1 (l.getD a none) :=
  ⟨⟨fun h => ⟨0, Nat.one_pos, h⟩, fun ⟨i, hi, h⟩ => by rwa [Nat.lt_one_iff.mp hi] at h⟩, by simp⟩

/-- A present element's own window has a total, which is the sum there. -/
theorem TotalOf.exists_of_getElem? {M : Nat} {l : List (Option Nat)} {a n j v : Nat} {y : Option Nat} (h : TotalOf M l a n y)
    (hv : l[j]? = some (some v)) (ha : a ≤ j) (hj : j < a + n) :
    ∃ x, y = some x ∧ x % M = ((List.range n).map fun i => (l.getD (a + i) none).getD 0).sum % M := by
  obtain ⟨present, total⟩ := h
  have own : (l.getD (a + (j - a)) none).isSome = true := by
    rw [Nat.add_sub_cancel' ha, List.getD_eq_getElem?_getD, hv]
    rfl
  obtain ⟨x, rfl⟩ := Option.isSome_iff_exists.mp (present.mpr ⟨j - a, by omega, own⟩)
  exact ⟨x, rfl, total⟩

/-! ### A combine that adds -/

/-- An operation that adds mod M and sets no flag. -/
def AddsMod (M : Nat) (op : Nat → Nat → FRes) : Prop := ∀ a b, op a b = ((a + b) % M, 0)

theorem addsMod_redInt {ty : Nat} (h : ty < 8) : AddsMod (2 ^ (8 * 2 ^ (ty % 4))) (redInt 0 ty) := by
  have width : tyWidth ty = 8 * 2 ^ (ty % 4) := by interval_cases ty <;> rfl
  intro a b
  rw [← width]
  rfl

section
variable {M : Nat} {op : Nat → Nat → FRes}

@[simp] theorem comb_none_left (b : Option Nat) : comb op none b = (b, 0) := rfl

@[simp] theorem comb_none_right (a : Option Nat) : comb op a none = (a, 0) := by cases a <;> rfl

theorem isSome_comb (a b : Option Nat) : (comb op a b).1.isSome = (a.isSome || b.isSome) := by
  cases a <;> cases b <;> rfl

variable (add : AddsMod M op)
include add

theorem comb_flags (a b : Option Nat) : (comb op a b).2 = 0 := by
  cases a with
  | none => rfl
  | some x => cases b with
    | none => rfl
    | some y => exact congrArg Prod.snd (add x y)

theorem getD_comb (a b : Option Nat) : (comb op a b).1.getD 0 % M = (a.getD 0 + b.getD 0) % M := by
  cases a with
  | none => rw [comb_none_left, Option.getD_none, Nat.zero_add]
  | some x => cases b with
    | none => rfl
    | some y =>
      change (op x y).1 % M = (x + y) % M
      rw [add, Nat.mod_mod]

theorem totalOf_comb {l : List (Option Nat)} {a m n : Nat} {x y : Option Nat} (hx : TotalOf M l a m x)
    (hy : TotalOf M l (a + m) n y) : TotalOf M l a (m + n) (comb op x y).1 := by
  obtain ⟨xSome, xSum⟩ := hx
  obtain ⟨ySome, ySum⟩ := hy
  refine ⟨?_, ?_⟩
  · rw [isSome_comb, Bool.or_eq_true, xSome, ySome]
    constructor
    · rintro (⟨i, hi, h⟩ | ⟨i, hi, h⟩)
      · exact ⟨i, by omega, h⟩
      · exact ⟨m + i, by omega, by rwa [← Nat.add_assoc]⟩
    · rintro ⟨i, hi, h⟩
      by_cases him : i < m
      · exact .inl ⟨i, him, h⟩
      · exact .inr ⟨i - m, by omega, by rwa [show a + m + (i - m) = a + i by omega]⟩
  · rw [getD_comb add, Nat.add_mod, xSum, ySum, ← Nat.add_mod, List.range_add, List.map_append, List.sum_append, List.map_map]
    simp only [Function.comp_def, Nat.add_assoc]

/-! ### The tree of a reduction -/

theorem treeLevel_flags : (l : List (Option Nat)) → (treeLevel op l).2 = 0
  | [] => rfl
  | [_] => rfl
  | a :: b :: l => by rw [treeLevel, treeLevel_flags l, comb_flags add, Nat.or_zero]

omit add in
theorem length_treeLevel : (l : List (Option Nat)) → (treeLevel op l).1.length = (l.length + 1) / 2
  | [] => rfl
  | [_] => by simp [treeLevel]
  | a :: b :: l => by
    rw [treeLevel, List.length_cons, length_treeLevel l, List.length_cons, List.length_cons]
    omega

omit add in
theorem getD_treeLevel : (l : List (Option Nat)) → (i : Nat) →
    (treeLevel op l).1.getD i none = (comb op (l.getD (2 * i) none) (l.getD (2 * i + 1) none)).1
  | [], _ => rfl
  | [a], 0 => by simp [treeLevel]
  | [a], i + 1 => rfl
  | a :: b :: l, 0 => rfl
  | a :: b :: l, i + 1 => getD_treeLevel l i

/-- The d levels over elements that each hold the total of 2^e: they leave one for each 2^(e + d). -/
theorem treeGo_total {l0 : List (Option Nat)} {q : Nat} (d e : Nat) (l : List (Option Nat)) (len : l.length = 2 ^ d * q)
    (h : ∀ i, TotalOf M l0 (2 ^ e * i) (2 ^ e) (l.getD i none)) :
    (treeGo op d l).2 = 0 ∧ (treeGo op d l).1.length = q ∧
      ∀ i, TotalOf M l0 (2 ^ (e + d) * i) (2 ^ (e + d)) ((treeGo op d l).1.getD i none) := by
  induction d generalizing e l with
  | zero => exact ⟨rfl, by rw [treeGo, len, pow_zero, Nat.one_mul], h⟩
  | succ d ih =>
    have half : (treeLevel op l).1.length = 2 ^ d * q := by
      rw [length_treeLevel, len, pow_succ]
      lia
    obtain ⟨flags, length, total⟩ := ih (e + 1) (treeLevel op l).1 half fun i => by
      have pair := totalOf_comb add (h (2 * i)) (by simpa only [Nat.mul_add, Nat.mul_one] using h (2 * i + 1))
      rwa [getD_treeLevel, pow_succ, Nat.mul_assoc, Nat.mul_two]
    rw [show e + 1 + d = e + (d + 1) by omega] at total
    exact ⟨by rw [treeGo, flags, treeLevel_flags add, Nat.or_zero], length, total⟩

omit add in
theorem getElem?_flatMap_replicate {α : Type} {n : Nat} (hn : 0 < n) (l : List α) (j : Nat) :
    (l.flatMap fun x => List.replicate n x)[j]? = l[j / n]? := by
  induction l generalizing j with
  | nil => rfl
  | cons x l ih =>
    rw [List.flatMap_cons, List.getElem?_append, List.length_replicate]
    split
    next low => rw [Nat.div_eq_of_lt low, List.getElem?_replicate, if_pos low, List.getElem?_cons_zero]
    next high => rw [ih, Nat.div_eq_sub_div hn (Nat.le_of_not_lt high), List.getElem?_cons_succ]

theorem reduceAll_total {k q : Nat} {l : List (Option Nat)} (len : l.length = 2 ^ k * q) :
    (reduceAll op k l).2 = 0 ∧ (reduceAll op k l).1.length = l.length ∧
      ∀ j, j < l.length → ∃ y, (reduceAll op k l).1[j]? = some y ∧ TotalOf M l (j / 2 ^ k * 2 ^ k) (2 ^ k) y := by
  obtain ⟨flags, length, total⟩ := treeGo_total add (l0 := l) k 0 l len fun i => by simpa using totalOf_one M l i
  refine ⟨flags, ?_, fun j hj => ⟨(treeGo op k l).1.getD (j / 2 ^ k) none, ?_, ?_⟩⟩
  · simp [reduceAll, length, len, Nat.mul_comm]
  · have segment : j / 2 ^ k < (treeGo op k l).1.length := by
      rw [length]
      exact Nat.div_lt_of_lt_mul (len ▸ hj)
    rw [reduceAll, getElem?_flatMap_replicate (Nat.two_pow_pos k), List.getElem?_eq_getElem segment, List.getD_eq_getElem _ _ segment]
  · simpa only [Nat.zero_add, Nat.mul_comm] using total (j / 2 ^ k)

/-! ### The levels of a scan -/

section
variable (seg dist : Nat)

theorem scanLevel_flags : (j : Nat) → (ps xs : List (Option Nat)) → (scanLevel op seg dist j ps xs).2 = 0
  | _, [], _ => by simp [scanLevel]
  | _, _ :: _, [] => by simp [scanLevel]
  | j, p :: ps, x :: xs => by
    rw [scanLevel, scanLevel_flags, Nat.or_zero]
    split
    · exact comb_flags add p x
    · rfl

omit add in
theorem length_scanLevel : (j : Nat) → (ps xs : List (Option Nat)) → xs.length ≤ ps.length →
    (scanLevel op seg dist j ps xs).1.length = xs.length
  | _, _, [], _ => by simp [scanLevel]
  | j, _ :: ps, _ :: xs, h => congrArg (· + 1) (length_scanLevel (j + 1) ps xs (Nat.le_of_succ_le_succ h))

omit add in
theorem getD_scanLevel : (j : Nat) → (ps xs : List (Option Nat)) → xs.length ≤ ps.length → (i : Nat) → i < xs.length →
    (scanLevel op seg dist j ps xs).1.getD i none =
      if dist ≤ (j + i) % seg then (comb op (ps.getD i none) (xs.getD i none)).1 else xs.getD i none
  | _, [], _ :: _, h, _, _ => absurd h (Nat.not_succ_le_zero _)
  | j, p :: ps, x :: xs, _, 0, _ => by
    change (if j % seg ≥ dist then comb op p x else (x, 0)).1 = _
    exact apply_ite Prod.fst ..
  | j, p :: ps, x :: xs, h, i + 1, hi => by
    have rest := getD_scanLevel (j + 1) ps xs (Nat.le_of_succ_le_succ h) i (Nat.lt_of_succ_lt_succ hi)
    rwa [show j + 1 + i = j + (i + 1) by omega] at rest

end

/-- Before level d, element j holds the total of the last 2^d elements of its segment up to it, or of all of them. -/
def Scanned (M k d : Nat) (l0 l : List (Option Nat)) : Prop :=
  l.length = l0.length ∧ ∀ j, j < l0.length → ∀ m, m = min (2 ^ d) (j % 2 ^ k + 1) → TotalOf M l0 (j + 1 - m) m (l.getD j none)

theorem scanned_scanLevel {k d : Nat} {l0 l : List (Option Nat)} (h : Scanned M k d l0 l) :
    Scanned M k (d + 1) l0 (scanLevel op (2 ^ k) (2 ^ d) 0 (List.replicate (2 ^ d) none ++ l) l).1 := by
  obtain ⟨length, total⟩ := h
  have moved : l.length ≤ (List.replicate (2 ^ d) (none : Option Nat) ++ l).length := by simp
  refine ⟨(length_scanLevel _ _ 0 _ l moved).trans length, fun j hj m hm => ?_⟩
  have below : j % 2 ^ k ≤ j := Nat.mod_le ..
  rw [pow_succ, Nat.mul_two] at hm
  rw [getD_scanLevel _ _ 0 _ l moved j (length ▸ hj), Nat.zero_add]
  split
  next far =>
    have back : (List.replicate (2 ^ d) (none : Option Nat) ++ l).getD j none = l.getD (j - 2 ^ d) none := by
      rw [List.getD_append_right _ _ _ _ (by simp; omega), List.length_replicate]
    have place : (j - 2 ^ d) % 2 ^ k = j % 2 ^ k - 2 ^ d :=
      (Nat.mod_sub_of_le far).symm
    have left := total (j - 2 ^ d) (by omega) (m - 2 ^ d) (by omega)
    have right := total j hj (2 ^ d) (by omega)
    rw [back]
    have both := totalOf_comb add left (by rwa [show j - 2 ^ d + 1 - (m - 2 ^ d) + (m - 2 ^ d) = j + 1 - 2 ^ d by omega])
    rwa [show j - 2 ^ d + 1 - (m - 2 ^ d) = j + 1 - m by omega, show m - 2 ^ d + 2 ^ d = m by omega] at both
  next near => exact total j hj m (by omega)

theorem scanGo_total {k : Nat} {l0 : List (Option Nat)} (n d : Nat) (l : List (Option Nat)) (h : Scanned M k d l0 l) :
    (scanGo op (2 ^ k) n d l).2 = 0 ∧ Scanned M k (d + n) l0 (scanGo op (2 ^ k) n d l).1 := by
  induction n generalizing d l with
  | zero => exact ⟨rfl, h⟩
  | succ n ih =>
    obtain ⟨flags, scanned⟩ := ih (d + 1) _ (scanned_scanLevel add h)
    rw [show d + 1 + n = d + (n + 1) by omega] at scanned
    exact ⟨by rw [scanGo, flags, scanLevel_flags add, Nat.or_zero], scanned⟩

theorem scanAll_total (k : Nat) (l : List (Option Nat)) :
    (scanAll op k l).2 = 0 ∧ (scanAll op k l).1.length = l.length ∧
      ∀ j, j < l.length → ∃ y, (scanAll op k l).1[j]? = some y ∧ TotalOf M l (j / 2 ^ k * 2 ^ k) (j % 2 ^ k + 1) y := by
  have start : Scanned M k 0 l l := ⟨rfl, fun j _ m hm => by
    obtain rfl : m = 1 := by omega
    exact totalOf_one M l j⟩
  obtain ⟨flags, length, total⟩ := scanGo_total add k 0 l start
  refine ⟨flags, length, fun j hj => ⟨(scanAll op k l).1.getD j none, ?_, ?_⟩⟩
  · have inside : j < (scanAll op k l).1.length := length.symm ▸ hj
    rw [List.getElem?_eq_getElem inside, List.getD_eq_getElem _ _ inside]
  · have segment : j / 2 ^ k * 2 ^ k + j % 2 ^ k = j := Nat.div_add_mod' ..
    have all := total j hj (j % 2 ^ k + 1) (by have := Nat.mod_lt j (Nat.two_pow_pos k); simp; omega)
    rwa [show j + 1 - (j % 2 ^ k + 1) = j / 2 ^ k * 2 ^ k by omega] at all

end

/-- Settles O34: what each element of the reduction and of the scan holds is `TotalOf` its segment, and of its segment up to it. -/
theorem reductionsAdd : Obligations.ReductionsAdd := by
  intro ty k q l hty len w n val red scan
  have add := addsMod_redInt hty
  obtain ⟨redFlags, redLength, redTotal⟩ := reduceAll_total add len
  obtain ⟨scanFlags, scanLength, scanTotal⟩ := scanAll_total add k l
  refine ⟨redFlags, scanFlags, redLength, scanLength, fun j v hv => ?_⟩
  obtain ⟨hj, -⟩ := List.getElem?_eq_some_iff.mp hv
  have segment : j / 2 ^ k * 2 ^ k + j % 2 ^ k = j := Nat.div_add_mod' ..
  have place : j % 2 ^ k < 2 ^ k := Nat.mod_lt j (Nat.two_pow_pos k)
  obtain ⟨y, hy, ofSegment⟩ := redTotal j hj
  obtain ⟨z, hz, upTo⟩ := scanTotal j hj
  obtain ⟨x, rfl, sum⟩ := ofSegment.exists_of_getElem? hv (by omega) (by omega)
  obtain ⟨x', rfl, sum'⟩ := upTo.exists_of_getElem? hv (by omega) (by omega)
  exact ⟨⟨x, hy, sum⟩, x', hz, sum'⟩

end Sys2Proof.Machine
end

section
/-! SUPPORT for O38: the elements of a vector register, read, packed, and written under the enabled lanes (R29, R60, R129). -/

namespace Sys2Proof.Machine

open Sys2Proof.Safety

/-! ### Elements packed and read -/

/-- Element j + 1 of a number is element j of what stands above its first. -/
theorem elemNat_succ (w x j : Nat) : elemNat w x (j + 1) = elemNat w (x / 2 ^ w) j := by
  rw [elemNat, elemNat, bits, bits, Nat.div_div_eq_div_mul, ← pow_add, Nat.mul_succ, Nat.add_comm]

theorem elemNat_zero (w x : Nat) : elemNat w x 0 = x % 2 ^ w := by
  rw [elemNat, bits, Nat.mul_zero, pow_zero, Nat.div_one]

theorem unpackElems_eq (w n x : Nat) : unpackElems w n x = (List.range n).map (elemNat w x) := by
  induction n generalizing x with
  | zero => rfl
  | succ n ih =>
    rw [unpackElems, ih, List.range_succ_eq_map, List.map_cons, List.map_map, elemNat_zero]
    exact congrArg _ (List.map_congr_left fun j _ => (elemNat_succ w x j).symm)

theorem elemNat_packElems (w : Nat) (l : List Nat) (j : Nat) : elemNat w (packElems w l) j = l.getD j 0 % 2 ^ w := by
  induction l generalizing j with
  | nil => simp [packElems, elemNat, bits]
  | cons x l ih =>
    cases j with
    | zero => simp [packElems, elemNat_zero]
    | succ j =>
      have rest : (x % 2 ^ w + 2 ^ w * packElems w l) / 2 ^ w = packElems w l := by
        rw [Nat.add_mul_div_left _ _ (Nat.two_pow_pos w), Nat.div_eq_of_lt (Nat.mod_lt _ (Nat.two_pow_pos w)), Nat.zero_add]
      rw [packElems, elemNat_succ, rest, ih, List.getD_cons_succ]

theorem elemNat_lt (w x j : Nat) : elemNat w x j < 2 ^ w := bits_lt ..

/-- An element that lies within a register is not cut off. -/
theorem elemNat_ofNat {w j : Nat} (hj : j < numElems w) (x : Nat) : elemNat w (BitVec.ofNat 32768 x).toNat j = elemNat w x j := by
  have fits : w * j + w ≤ 32768 := calc
    w * j + w = (j + 1) * w := by rw [Nat.succ_mul, Nat.mul_comm]
    _ ≤ numElems w * w := Nat.mul_le_mul_right w hj
    _ ≤ 32768 := Nat.div_mul_le_self ..
  rw [elemNat, BitVec.toNat_ofNat, bits_mod_two_pow x fits, elemNat]

theorem elemsOf_eq (w : Nat) (v : VReg) : elemsOf w v = (List.range (numElems w)).map (elemNat w v.toNat) := unpackElems_eq ..

@[simp] theorem length_elemsOf (w : Nat) (v : VReg) : (elemsOf w v).length = numElems w := by
  rw [elemsOf_eq, List.length_map, List.length_range]

theorem getD_map_range (n : Nat) (r : Nat → Nat) {j : Nat} (hj : j < n) : ((List.range n).map r).getD j 0 = r j := by
  rw [List.getD_eq_getElem _ _ (by simpa using hj), List.getElem_map, List.getElem_range]

theorem getD_elemsOf {w j : Nat} (hj : j < numElems w) (v : VReg) : (elemsOf w v).getD j 0 = elemNat w v.toNat j := by
  rw [elemsOf_eq, getD_map_range _ _ hj]

/-! ### Elements replaced under the enabled lanes -/

theorem length_mergeGo (en : PMask) (w k : Nat) (old new : List Nat) : (mergeGo en w k old new).length = old.length := by
  induction old generalizing k new with
  | nil => rfl
  | cons o os ih =>
    cases new with
    | nil => rfl
    | cons n ns => rw [mergeGo, List.length_cons, ih, List.length_cons]

theorem getD_mergeGo (en : PMask) (w k : Nat) (old new : List Nat) {j : Nat} (ho : j < old.length) (hn : j < new.length) :
    (mergeGo en w k old new).getD j 0 = if enElem en w (k + j) then new.getD j 0 else old.getD j 0 := by
  induction old generalizing k new j with
  | nil => exact absurd ho (Nat.not_lt_zero j)
  | cons o os ih =>
    cases new with
    | nil => exact absurd hn (Nat.not_lt_zero j)
    | cons n ns =>
      cases j with
      | zero => rfl
      | succ j =>
        rw [mergeGo, List.getD_cons_succ, ih (k + 1) ns (Nat.lt_of_succ_lt_succ ho) (Nat.lt_of_succ_lt_succ hn), Nat.add_assoc,
          Nat.add_comm 1 j, List.getD_cons_succ, List.getD_cons_succ]

theorem elemNat_mergeElems (en : PMask) {w : Nat} (old : VReg) {new : List Nat} {j : Nat} (hj : j < numElems w) (hn : j < new.length) :
    elemNat w (mergeElems en w old new).toNat j = if enElem en w j then new.getD j 0 % 2 ^ w else elemNat w old.toNat j := by
  rw [mergeElems, elemNat_ofNat hj, elemNat_packElems, getD_mergeGo _ _ _ _ _ (by simpa using hj) hn, Nat.zero_add, getD_elemsOf hj,
    apply_ite (· % 2 ^ w), Nat.mod_eq_of_lt (elemNat_lt w old.toNat j)]

theorem elemsWritten_writeV (x : Tile) (en : PMask) {w : Nat} (vd : Nat) {new : List Nat} {r : Nat → Nat}
    (len : new.length = numElems w) (val : ∀ j, j < numElems w → enElem en w j = true → new.getD j 0 % 2 ^ w = r j % 2 ^ w) :
    ElemsWritten x (x.writeV vd (mergeElems en w (x.readV vd) new)) en w vd r := by
  refine ⟨fun j hj => ?_, fun n hn => ?_⟩
  · rw [elem, Tile.readV_writeV, if_pos rfl, elemNat_mergeElems _ _ hj (len ▸ hj)]
    split
    next on => exact val j hj on
    next off => rfl
  · rw [Tile.readV_writeV, if_neg hn]

/-! ### A vector word that writes a register -/

/-- The vector registers are no part of what a retiring word of an engine may always change. -/
theorem readV_of_fixedE {x y : Tile} (h : fixedE x = fixedE y) (n : Nat) : x.readV n = y.readV n :=
  (congrArg (fun z : Tile => z.readV n) h :)

theorem elemsWritten_congr {x y z : Tile} {en : PMask} {w vd : Nat} {r : Nat → Nat} (h : fixedE y = fixedE z)
    (hz : ElemsWritten x z en w vd r) : ElemsWritten x y en w vd r := by
  simpa only [ElemsWritten, elem, readV_of_fixedE h] using hz

/-- What a word that writes the enabled elements of a register and retires answers. -/
theorem vMoves_writeV {s : State} (he : s.issue.eng ≠ .S) (en : PMask) {w : Nat} (vd : Nat) {new : List Nat} {r : Nat → Nat}
    (len : new.length = numElems w) (val : ∀ j, j < numElems w → enElem en w j = true → new.getD j 0 % 2 ^ w = r j % 2 ^ w) :
    VMoves s (finish s (.retire (s.putTile ((here s).writeV vd (mergeElems en w ((here s).readV vd) new))))) en w vd r := by
  obtain ⟨t, ht, next, frame⟩ := finish_retireE (y := (here s).writeV vd (mergeElems en w ((here s).readV vd) new)) he rfl rfl rfl
  refine ⟨t, ht, next, elemsWritten_congr frame (elemsWritten_writeV _ en vd len val), ?_⟩
  rw [frame]
  rfl

/-- A vector word whose lanes are those of its guard and whose registers are full does what it does when enabled. -/
theorem laneWord_gated {s : State} {g : Guard} {en : PMask} {srcs : List VSrc} {full : List Nat}
    (h : VRuns s g en (srcs.map VSrc.phys ++ full)) (free : s.issue.eng = .L → (here s).loadFix = none) (k : Tile → PMask → Ending) :
    laneWord s g (fun x en => x.gateV s srcs full (k x en)) = finish s (k (here s) en) := by
  obtain ⟨-, lanes, some_, fullV⟩ := h
  rw [laneWord_on ((Tile.lanesNow_eq g free).trans lanes) some_, Tile.gateV_full]
  · exact fun r hr => fullV _ (List.mem_append_left _ (List.mem_map_of_mem hr))
  · exact fun n hn => fullV _ (List.mem_append_right _ hn)

end Sys2Proof.Machine
end

section
/-! SUPPORT for O38: what the words that copy bit patterns write (R149 to R153). The lanes of each are those of its guard where the word
issued is no load whose lanes an earlier turn has fixed (R210, R213): what `free` says in each lemma, and O38 does not. -/

namespace Sys2Proof.Machine

open Sys2Proof.Safety

section
variable {s : State} {g : Guard} {en : PMask} {f : FmtV3} {w : Nat} (free : s.issue.eng = .L → (here s).loadFix = none)
  (width : tyWidth f.ty.toNat = w)
include free width

/-- A word that copies bit patterns writes the elements that its value lists. -/
theorem moveWord_moves {ar : Arity} (h : VRuns s g en ((v3Srcs s.issue.cap f ar).map VSrc.phys ++ [f.vd.toNat]))
    {val : Tile → List Nat} {r : Nat → Nat} (len : (val (here s)).length = numElems w)
    (each : ∀ j, j < numElems w → (val (here s)).getD j 0 = r j) :
    VMoves s (moveWord s g f ar val) en w f.vd.toNat r := by
  subst width
  rw [moveWord, laneWord_gated h free]
  exact vMoves_writeV h.1 en _ len fun j hj _ => congrArg (· % _) (each j hj)

theorem vmov_moves (h : VRuns s g en [f.va.toNat, f.vd.toNat]) :
    VMoves s (exec (.vmov g f) s) en w f.vd.toNat (elemNat w ((here s).srcVA f).toNat) := by
  change VMoves s (execVmov g f s) ..
  rw [execVmov]
  refine moveWord_moves free width (ar := .one) h ?_ fun j hj => ?_
  · rw [Tile.elemsVA, width, length_elemsOf]
  · rw [Tile.elemsVA, width, getD_elemsOf hj]

theorem vbcst_moves (h : VRuns s g en [f.va.toNat, f.vd.toNat]) :
    VMoves s (exec (.vbcst g f) s) en w f.vd.toNat (fun j =>
      elemNat w ((here s).srcVA f).toNat (j / 2 ^ f.vb.toNat * 2 ^ f.vb.toNat + f.modb.toNat)) := by
  change VMoves s (execVbcst g f s) ..
  rw [execVbcst]
  refine moveWord_moves free width (ar := .one) h ?_ fun j hj => ?_
  · simp [width]
  · simp only [width]
    rw [getD_map_range _ _ hj, Nat.div_mul_self_eq_mod_sub_self]

theorem viota_moves (h : VRuns s g en [f.vd.toNat]) : VMoves s (exec (.viota g f) s) en w f.vd.toNat (fun j => j) := by
  subst width
  change VMoves s (execViota g f s) ..
  rw [execViota, laneWord_gated (srcs := []) h free]
  refine vMoves_writeV h.1 en _ (by simp) fun j hj _ => ?_
  rw [getD_map_range _ _ hj, Nat.mod_mod]

theorem vsel_moves (h : VRuns s g en [f.va.toNat, f.vb.toNat, f.vd.toNat]) :
    VMoves s (exec (.vsel g f) s) en w f.vd.toNat (fun j =>
      if ((here s).readP (f.vc.toNat % 8)).getLsbD (laneOf w j) then elemNat w ((here s).srcVA f).toNat j
      else elemNat w ((here s).srcVB f).toNat j) := by
  change VMoves s (execVsel g f s) ..
  rw [execVsel]
  refine moveWord_moves free width (ar := .two) h ?_ fun j hj => ?_
  · rw [length_mergeGo, Tile.elemsVB, width, length_elemsOf]
  · simp only [Tile.elemsVA, Tile.elemsVB, width]
    rw [getD_mergeGo _ _ _ _ _ (by simpa) (by simpa), Nat.zero_add, getD_elemsOf hj, getD_elemsOf hj, enElem]

theorem vperm_moves (h : VRuns s g en [f.va.toNat, f.vb.toNat, f.vd.toNat]) :
    VMoves s (exec (.vperm g f) s) en w f.vd.toNat (fun j =>
      elemNat w ((here s).srcVA f).toNat (elemNat w ((here s).srcVB f).toNat j % (32768 / w))) := by
  change VMoves s (execVperm g f s) ..
  rw [execVperm]
  refine moveWord_moves free width (ar := .two) h ?_ fun j hj => ?_
  · rw [List.length_map, Tile.elemsVB, width, length_elemsOf]
  · simp only [Tile.elemsVB, width]
    rw [← getD_elemsOf hj, List.getD_eq_getElem _ _ (by simpa), List.getD_eq_getElem _ _ (by simpa), List.getElem_map]
    rfl

end

/-- Byte j of the string that VRMRG cuts from its two sources. -/
theorem getD_rotated (a b : VReg) {o j : Nat} (ho : o < 4096) (hj : j < 4096) :
    (((elemsOf 8 a ++ elemsOf 8 b).drop o).take 4096).getD j 0 =
      if o + j < 4096 then elemNat 8 a.toNat (o + j) else elemNat 8 b.toNat (o + j - 4096) := by
  have count : numElems 8 = 4096 := by decide
  rw [List.getD_eq_getElem?_getD, List.getElem?_take_of_lt hj, List.getElem?_drop, ← List.getD_eq_getElem?_getD]
  split
  next low => rw [List.getD_append _ _ _ _ (by simpa [count]), getD_elemsOf (count ▸ low)]
  next high =>
    rw [List.getD_append_right _ _ _ _ (by simpa [count] using high), length_elemsOf, count, getD_elemsOf (by omega)]

theorem vrmrg_moves {s : State} {g : Guard} {en : PMask} {f : FmtV3} (free : s.issue.eng = .L → (here s).loadFix = none)
    (ty : f.ty.toNat = 4) (h : VRuns s g en [f.va.toNat, f.vb.toNat, f.vc.toNat, f.vd.toNat]) :
    VMoves s (exec (.vrmrg g f) s) en 8 f.vd.toNat (fun j =>
      let o := elemNat 32 ((here s).readV f.vc.toNat).toNat 0 % 4096
      if o + j < 4096 then elemNat 8 ((here s).srcVA f).toNat (o + j) else elemNat 8 ((here s).srcVB f).toNat (o + j - 4096)) := by
  have width : tyWidth f.ty.toNat = 8 := by rw [ty]; rfl
  have count : numElems 8 = 4096 := by decide
  have low : elemNat 32 ((here s).readV f.vc.toNat).toNat 0 % 4096 < 4096 := Nat.mod_lt _ (by decide)
  change VMoves s (execVrmrg g f s) ..
  rw [execVrmrg]
  refine moveWord_moves free width (ar := .three) h ?_ fun j hj => getD_rotated _ _ low (count ▸ hj)
  rw [List.length_take, List.length_drop, List.length_append, length_elemsOf, length_elemsOf, count]
  omega

end Sys2Proof.Machine
end

section
/-! SUPPORT for O38: 4:8 sparsity. What VSPEXP writes and when it traps (R158, R160), and what VSPCMP keeps (R159): the elements of a
group stand in a total order, so that four of the eight have a rank below 4. -/

namespace Sys2Proof.Machine

open Sys2Proof.Safety

/-! ### Ranks -/

section
variable {r : Nat → Nat → Prop} [DecidableRel r] (irrefl : ∀ a, ¬ r a a) (trans : ∀ a b c, r a b → r b c → r a c)
  (total : ∀ a b, a ≠ b → r a b ∨ r b a) (n : Nat)

/-- How many of the numbers below n stand before t. -/
def aheadOf (r : Nat → Nat → Prop) [DecidableRel r] (n t : Nat) : Nat := ((Finset.range n).filter (r · t)).card

include irrefl in
theorem aheadOf_lt {t : Nat} (ht : t < n) : aheadOf r n t < n := by
  have fewer : (Finset.range n).filter (r · t) ⊂ Finset.range n :=
    Finset.filter_ssubset.mpr ⟨t, Finset.mem_range.mpr ht, irrefl t⟩
  exact (Finset.card_lt_card fewer).trans_eq (Finset.card_range n)

include irrefl trans in
theorem aheadOf_lt_aheadOf {a b : Nat} (ha : a < n) (h : r a b) : aheadOf r n a < aheadOf r n b := by
  refine Finset.card_lt_card (Finset.ssubset_iff_subset_ne.mpr ⟨fun u hu => ?_, fun same => ?_⟩)
  · rw [Finset.mem_filter] at hu ⊢
    exact ⟨hu.1, trans _ _ _ hu.2 h⟩
  · have inBoth : a ∈ (Finset.range n).filter (r · a) := same ▸ Finset.mem_filter.mpr ⟨Finset.mem_range.mpr ha, h⟩
    exact irrefl a (Finset.mem_filter.mp inBoth).2

include irrefl trans total in
/-- In a total order every rank is taken once, so that m of n numbers have a rank below m. -/
theorem card_aheadOf_lt {m : Nat} (hm : m ≤ n) : ((Finset.range n).filter fun t => aheadOf r n t < m).card = m := by
  have maps : ∀ t ∈ Finset.range n, aheadOf r n t ∈ Finset.range n := fun t ht =>
    Finset.mem_range.mpr (aheadOf_lt irrefl n (Finset.mem_range.mp ht))
  have inj : Set.InjOn (aheadOf r n) (Finset.range n) := by
    intro a ha b hb same
    by_contra differ
    rcases total a b differ with h | h
    · exact (aheadOf_lt_aheadOf irrefl trans n (Finset.mem_range.mp ha) h).ne same
    · exact (aheadOf_lt_aheadOf irrefl trans n (Finset.mem_range.mp hb) h).ne same.symm
  have surj := Finset.surjOn_of_injOn_of_card_le (aheadOf r n) maps inj le_rfl
  refine (Finset.card_nbij (aheadOf r n) (t := Finset.range m) ?_ ?_ ?_).trans (Finset.card_range m)
  · exact fun t ht => Finset.mem_range.mpr (Finset.mem_filter.mp ht).2
  · exact inj.mono fun t ht => (Finset.mem_filter.mp ht).1
  · intro c hc
    have low : c < m := Finset.mem_range.mp hc
    obtain ⟨t, ht, rfl⟩ := surj (Finset.mem_range.mpr (low.trans_le hm))
    exact ⟨t, Finset.mem_filter.mpr ⟨ht, low⟩, rfl⟩

end

theorem length_filter_range (n : Nat) (p : Nat → Bool) :
    ((List.range n).filter p).length = ((Finset.range n).filter fun i => p i = true).card := by
  simp [Finset.card, ← Multiset.coe_range]

/-! ### Filters of a range -/

/-- An element that is kept stands behind those kept below it. -/
theorem getElem?_filter_range (p : Nat → Bool) {n t : Nat} (ht : t < n) (hp : p t = true) :
    ((List.range n).filter p)[((List.range t).filter p).length]? = some t := by
  obtain ⟨m, rfl⟩ : ∃ m, n = t + (m + 1) := ⟨n - t - 1, by omega⟩
  rw [List.range_add, List.filter_append, List.getElem?_append_right le_rfl, Nat.sub_self, List.range_succ_eq_map, List.map_cons,
    List.filter_cons_of_pos (by simpa using hp)]
  rfl

theorem length_filter_range_succ (p : Nat → Bool) (n : Nat) :
    ((List.range (n + 1)).filter p).length = ofBool (p 0) + ((List.range n).filter fun i => p (i + 1)).length := by
  rw [List.range_succ_eq_map, List.filter_cons, List.filter_map, apply_ite List.length, List.length_cons, List.length_map, ofBool]
  cases p 0
  · exact (Nat.zero_add _).symm
  · exact Nat.add_comm ..

/-! ### Groups -/

theorem cut_map_range (r : Nat → Nat) {n a c : Nat} (h : a + c ≤ n) :
    (((List.range n).map r).drop a).take c = (List.range c).map fun u => r (a + u) := by
  refine List.ext_getElem (by simp; omega) fun u _ _ => ?_
  simp

/-- A function that cuts c elements off a list again and again. -/
theorem cuts_eq {α : Type} {c : Nat} {cuts : Nat → List α → List (List α)} (zero : ∀ l, cuts 0 l = [])
    (succ : ∀ n l, cuts (n + 1) l = l.take c :: cuts n (l.drop c)) (n : Nat) (l : List α) :
    cuts n l = (List.range n).map fun i => (l.drop (c * i)).take c := by
  induction n generalizing l with
  | zero => exact zero l
  | succ n ih =>
    rw [succ, ih, List.range_succ_eq_map, List.map_cons, List.map_map]
    refine congrArg _ (List.map_congr_left fun i _ => ?_)
    rw [List.drop_drop, Function.comp_apply, Nat.succ_eq_add_one, Nat.mul_succ, Nat.add_comm]

theorem groups8_eq {α : Type} (n : Nat) (l : List α) : groups8 n l = (List.range n).map fun i => (l.drop (8 * i)).take 8 :=
  cuts_eq (fun _ => rfl) (fun _ _ => rfl) n l

theorem groups4_eq {α : Type} (n : Nat) (l : List α) : groups4 n l = (List.range n).map fun i => (l.drop (4 * i)).take 4 :=
  cuts_eq (fun _ => rfl) (fun _ _ => rfl) n l

section
variable {c : Nat} {r : Nat → List Nat}

theorem length_flatMap_range (n : Nat) (h : ∀ i, i < n → (r i).length = c) : ((List.range n).flatMap r).length = c * n := by
  induction n with
  | zero => rfl
  | succ n ih =>
    rw [List.range_succ, List.flatMap_append, List.length_append, ih fun i hi => h i (Nat.lt_succ_of_lt hi), List.flatMap_singleton,
      h n (Nat.lt_succ_self n), Nat.mul_succ]

/-- Lists of one length in a row. -/
theorem getD_flatMap_range {n i u : Nat} (h : ∀ i, i < n → (r i).length = c) (hi : i < n) (hu : u < c) :
    ((List.range n).flatMap r).getD (c * i + u) 0 = (r i).getD u 0 := by
  induction n with
  | zero => exact absurd hi (Nat.not_lt_zero i)
  | succ n ih =>
    have below : ∀ i, i < n → (r i).length = c := fun i hi => h i (Nat.lt_succ_of_lt hi)
    rw [List.range_succ, List.flatMap_append, List.flatMap_singleton]
    rcases Nat.lt_succ_iff_lt_or_eq.mp hi with hi | rfl
    · have inside : c * i + u < c * n := calc
        c * i + u < c * i + c := Nat.add_lt_add_left hu _
        _ = c * (i + 1) := (Nat.mul_succ ..).symm
        _ ≤ c * n := Nat.mul_le_mul_left c hi
      rw [List.getD_append _ _ _ _ (by rwa [length_flatMap_range n below]), ih below hi]
    · rw [List.getD_append_right _ _ _ _ (by rw [length_flatMap_range _ below]; exact Nat.le_add_right ..),
        length_flatMap_range _ below, Nat.add_sub_cancel_left]

end

theorem eight_dvd_numElems (t : Nat) : 8 ∣ numElems (tyWidth t) := by
  unfold tyWidth WellFormed.typeWidth
  split_ifs <;> decide

/-! ### VSPEXP -/

theorem expandGo_succ (mask t n : Nat) (l : List Nat) : expandGo mask t (n + 1) l =
    (if mask.testBit t then l.getD 0 0 else 0) :: expandGo mask (t + 1) n (l.drop (ofBool (mask.testBit t))) := by
  cases l with
  | nil => rw [expandGo, List.drop_nil, List.getD_nil, ite_self]
  | cons a l =>
    rw [expandGo, bit]
    cases mask.testBit t <;> rfl

theorem length_expandGo (mask t n : Nat) (l : List Nat) : (expandGo mask t n l).length = n := by
  induction n generalizing t l with
  | zero => cases l <;> rfl
  | succ n ih => rw [expandGo_succ, List.length_cons, ih]

/-- A place whose bit is set takes the element of its rank among such places. -/
theorem getD_expandGo (mask t : Nat) {n u : Nat} (hu : u < n) (l : List Nat) :
    (expandGo mask t n l).getD u 0 =
      if mask.testBit (t + u) then l.getD ((List.range u).filter fun v => mask.testBit (t + v)).length 0 else 0 := by
  induction n generalizing t u l with
  | zero => exact absurd hu (Nat.not_lt_zero u)
  | succ n ih =>
    rw [expandGo_succ]
    cases u with
    | zero => rfl
    | succ u =>
      have next (v : Nat) : mask.testBit (t + (v + 1)) = mask.testBit (t + 1 + v) := by rw [Nat.add_assoc, Nat.add_comm 1]
      rw [List.getD_cons_succ, ih (t + 1) (Nat.lt_of_succ_lt_succ hu), length_filter_range_succ, funext next, next, Nat.add_zero,
        List.getD_eq_getElem?_getD, List.getElem?_drop, ← List.getD_eq_getElem?_getD]
      rfl

theorem metaValid_iff (m : Nat) : metaValid m = true ↔ ((List.range 8).filter fun u => m.testBit u).length = 4 := by
  rw [metaValid, beq_iff_eq, popCount_eq]

/-- Some element of group i is enabled, and its mask is invalid (R158, R160). -/
def BadMask (mask : Nat → Nat) (en : PMask) (w i : Nat) : Prop :=
  (∃ k, k < 8 ∧ enElem en w (8 * i + k) = true) ∧ ((List.range 8).filter fun u => (mask i).testBit u).length ≠ 4

theorem badMask_iff (m : VReg) (en : PMask) {w i : Nat} (hi : i < numElems w / 8) :
    (((List.range 8).any fun k => enElem en w (8 * i + k)) &&
      !metaValid ((unpackElems 8 (numElems w / 8) m.toNat).getD i 0)) = true ↔ BadMask (elemNat 8 m.toNat) en w i := by
  rw [unpackElems_eq, getD_map_range _ _ hi, Bool.and_eq_true, List.any_eq_true, Bool.not_eq_true', ← Bool.not_eq_true, metaValid_iff,
    BadMask]
  simp only [List.mem_range]

/-- The elements that VSPEXP writes, a group after another. -/
theorem expanded_eq (w : Nat) (m v : VReg) :
    (List.zipWith (fun m l => expandGo m 0 8 l) (unpackElems 8 (numElems w / 8) m.toNat)
      (groups4 (numElems w / 8) (elemsOf w v))).flatMap id =
    (List.range (numElems w / 8)).flatMap fun i =>
      expandGo (elemNat 8 m.toNat i) 0 8 ((List.range 4).map fun u => elemNat w v.toNat (4 * i + u)) := by
  rw [unpackElems_eq, groups4_eq, List.zipWith_map, List.zipWith_self, List.flatMap_map]
  refine List.flatMap_congr fun i hi => ?_
  have inside : 4 * i + 4 ≤ numElems w := by
    have := List.mem_range.mp hi
    omega
  rw [elemsOf_eq, cut_map_range _ inside, id]

theorem getD_expandGo_group (mask : Nat) (r : Nat → Nat) {t : Nat} (ht : t < 8)
    (valid : ((List.range 8).filter fun u => mask.testBit u).length = 4) :
    (expandGo mask 0 8 ((List.range 4).map r)).getD t 0 =
      if mask.testBit t then r ((List.range t).filter fun u => mask.testBit u).length else 0 := by
  rw [getD_expandGo _ _ ht]
  simp only [Nat.zero_add]
  refine ite_congr rfl (fun set_ => getD_map_range _ _ ?_) fun _ => rfl
  have rank := getElem?_filter_range (fun u => mask.testBit u) ht set_
  exact valid ▸ (List.getElem?_eq_some_iff.mp rank).1

section
variable {s : State} {g : Guard} {en : PMask} {f : FmtV3} {w : Nat} (free : s.issue.eng = .L → (here s).loadFix = none)
  (width : tyWidth f.ty.toNat = w)
include free width

theorem vspexp_traps (h : VRuns s g en [f.va.toNat, f.vb.toNat, f.vd.toNat]) {i : Nat} (hi : i < numElems w / 8)
    (bad : BadMask (elemNat 8 ((here s).srcVB f).toNat) en w i)
    (lowest : ∀ k, k < i → ¬ BadMask (elemNat 8 ((here s).srcVB f).toNat) en w k) :
    Traps s (exec (.vspexp g f) s) 7 (elemNat 8 ((here s).srcVB f).toNat i + i * 256) := by
  subst width
  change Traps s (execVspexp g f s) ..
  rw [execVspexp, laneWord_gated (srcs := v3Srcs s.issue.cap f .two) h free]
  have found := List.find?_range_eq_some.mpr ⟨(badMask_iff ((here s).srcVB f) en hi).mpr bad, List.mem_range.mpr hi, fun k hk => by
    rw [Bool.not_eq_true', ← Bool.not_eq_true, badMask_iff _ _ (hk.trans hi)]
    exact lowest k hk⟩
  dsimp only
  rw [found]
  dsimp only
  rw [unpackElems_eq, getD_map_range _ _ hi, Nat.add_comm]
  exact finish_trap ..

theorem vspexp_moves (h : VRuns s g en [f.va.toNat, f.vb.toNat, f.vd.toNat])
    (good : ∀ i, i < numElems w / 8 → ¬ BadMask (elemNat 8 ((here s).srcVB f).toNat) en w i) :
    VMoves s (exec (.vspexp g f) s) en w f.vd.toNat (fun j =>
      if (elemNat 8 ((here s).srcVB f).toNat (j / 8)).testBit (j % 8) then
        elemNat w ((here s).srcVA f).toNat (j / 8 * 4 +
          ((List.range (j % 8)).filter fun u => (elemNat 8 ((here s).srcVB f).toNat (j / 8)).testBit u).length) else 0) := by
  subst width
  change VMoves s (execVspexp g f s) ..
  rw [execVspexp, laneWord_gated (srcs := v3Srcs s.issue.cap f .two) h free]
  have none_ := List.find?_eq_none.mpr fun i (hi : i ∈ List.range (numElems (tyWidth f.ty.toNat) / 8)) =>
    mt (badMask_iff ((here s).srcVB f) en (List.mem_range.mp hi)).mp (good i (List.mem_range.mp hi))
  dsimp only
  rw [none_]
  dsimp only
  rw [Tile.elemsVA, expanded_eq]
  have eight := eight_dvd_numElems f.ty.toNat
  refine vMoves_writeV h.1 en _ ?_ fun j hj on => congrArg (· % _) ?_
  · rw [length_flatMap_range _ fun i _ => length_expandGo .., Nat.mul_div_cancel' eight]
  · have place : 8 * (j / 8) + j % 8 = j := Nat.div_add_mod ..
    have group : j / 8 < numElems (tyWidth f.ty.toNat) / 8 := by omega
    have inGroup : j % 8 < 8 := Nat.mod_lt _ (by decide)
    have valid := not_and.mp (good _ group) ⟨j % 8, inGroup, place.symm ▸ on⟩
    have elem := getD_flatMap_range (r := fun i => expandGo (elemNat 8 ((here s).srcVB f).toNat i) 0 8
      ((List.range 4).map fun u => elemNat (tyWidth f.ty.toNat) ((here s).srcVA f).toNat (4 * i + u)))
      (fun i _ => length_expandGo ..) group inGroup
    rw [place] at elem
    rw [elem, getD_expandGo_group _ _ inGroup (not_not.mp valid), Nat.mul_comm 4]

end

/-! ### VSPCMP -/

theorem maskOf_lt (p : Nat → Bool) (n : Nat) : maskOf p n < 2 ^ n := by
  induction n with
  | zero => exact Nat.one_pos
  | succ n ih =>
    rw [maskOf, pow_succ]
    split <;> omega

theorem testBit_maskOf (p : Nat → Bool) (n k : Nat) : (maskOf p n).testBit k = (decide (k < n) && p k) := by
  induction n with
  | zero => exact Nat.zero_testBit k
  | succ n ih =>
    have top : (if p n then 2 ^ n else 0) = 2 ^ n * ofBool (p n) := by cases p n <;> simp [ofBool]
    rw [maskOf, top, Nat.testBit_two_pow_mul_add _ (maskOf_lt p n), ih]
    rcases Nat.lt_trichotomy k n with hk | rfl | hk
    · simp [hk, Nat.lt_succ_of_lt hk]
    · cases p k <;> simp [ofBool]
    · have high : 0 < k - n := by omega
      have above : ¬ k < n + 1 := by omega
      rw [if_neg hk.asymm, decide_eq_false above, Bool.false_and]
      cases p n
      · exact Nat.zero_testBit _
      · exact Bool.eq_false_iff.mpr (mt Nat.testBit_one_eq_true_iff_self_eq_zero.mp high.ne')

/-- Element k is among the four of its group with the greatest magnitudes, the lower index first among equals (R159). -/
def prunedKeeps (mag : Nat → Nat) (k : Nat) : Bool := decide (((List.range 8).filter fun u =>
  decide (mag (k / 8 * 8 + u) > mag k) || (decide (mag (k / 8 * 8 + u) = mag k) && decide (u < k % 8))).length < 4)

/-- How many elements of its group below element k are kept. -/
def prunedRank (mag : Nat → Nat) (k : Nat) : Nat := ((List.range (k % 8)).filter fun u => prunedKeeps mag (k / 8 * 8 + u)).length

section
variable (mag : Nat → Nat) (i : Nat)

/-- Element u of group i ranks before element t. -/
def outranks (u t : Nat) : Bool :=
  decide (mag (8 * i + u) > mag (8 * i + t)) || (decide (mag (8 * i + u) = mag (8 * i + t)) && decide (u < t))

theorem outranks_iff (u t : Nat) : outranks mag i u t = true ↔
    mag (8 * i + t) < mag (8 * i + u) ∨ (mag (8 * i + u) = mag (8 * i + t) ∧ u < t) := by
  simp [outranks]

theorem prunedKeeps_group {t : Nat} (ht : t < 8) :
    prunedKeeps mag (8 * i + t) = decide (((List.range 8).filter fun u => outranks mag i u t).length < 4) := by
  rw [prunedKeeps, show (8 * i + t) / 8 * 8 = 8 * i by omega, show (8 * i + t) % 8 = t by omega]
  rfl

/-- Four elements of each group are kept. -/
theorem length_prunedKeeps : ((List.range 8).filter fun t => prunedKeeps mag (8 * i + t)).length = 4 := by
  have four := card_aheadOf_lt (r := fun u t => outranks mag i u t = true)
    (fun a => by simp only [outranks_iff]; omega) (fun a b c => by simp only [outranks_iff]; omega)
    (fun a b differ => by simp only [outranks_iff]; omega) 8 (m := 4) (by decide)
  rw [length_filter_range]
  refine (congrArg Finset.card (Finset.filter_congr fun t ht => ?_)).trans four
  rw [prunedKeeps_group _ _ (Finset.mem_range.mp ht), decide_eq_true_eq, length_filter_range, aheadOf]

theorem testBit_keepMask (t : Nat) :
    (keepMask ((List.range 8).map fun u => mag (8 * i + u))).testBit t = (decide (t < 8) && prunedKeeps mag (8 * i + t)) := by
  rw [keepMask, testBit_maskOf]
  by_cases ht : t < 8
  · rw [prunedKeeps_group _ _ ht]
    refine congrArg (fun l : List Nat => decide (t < 8) && decide (l.length < 4)) (List.filter_congr fun u hu => ?_)
    rw [getD_map_range _ _ ht, getD_map_range _ _ (List.mem_range.mp hu), outranks, beq_eq_decide]
  · rw [decide_eq_false ht, Bool.false_and, Bool.false_and]

end

/-! The lists of kept elements and of masks. -/

theorem keptOf_map_range (mask n : Nat) (r : Nat → Nat) :
    keptOf mask ((List.range n).map r) = ((List.range n).filter fun u => mask.testBit u).map r := by
  have pairs : ((List.range n).map r).zipIdx = (List.range n).map fun u => (r u, u) := by
    refine List.ext_getElem (by simp) fun u _ _ => ?_
    simp
  rw [keptOf, pairs, List.filter_map, List.map_map]
  rfl

section
variable (ty w : Nat) (v : VReg)

/-- The magnitude of an element of a register. -/
def magAt (k : Nat) : Nat := magOf ty (elemNat w v.toNat k)

theorem groups8_elemsOf : groups8 (numElems w / 8) (elemsOf w v) =
    (List.range (numElems w / 8)).map fun i => (List.range 8).map fun u => elemNat w v.toNat (8 * i + u) := by
  rw [groups8_eq]
  refine List.map_congr_left fun i hi => ?_
  have := List.mem_range.mp hi
  rw [elemsOf_eq, cut_map_range _ (by omega)]

theorem masks_eq : ((groups8 (numElems w / 8) (elemsOf w v)).map fun l => keepMask (l.map (magOf ty))) =
    (List.range (numElems w / 8)).map fun i => keepMask ((List.range 8).map fun u => magAt ty w v (8 * i + u)) := by
  rw [groups8_elemsOf, List.map_map]
  refine List.map_congr_left fun i _ => ?_
  rw [Function.comp_apply, List.map_map]
  rfl

/-- The elements of group i that are kept. -/
def keptElems (i : Nat) : List Nat :=
  ((List.range 8).filter fun t => prunedKeeps (magAt ty w v) (8 * i + t)).map fun t => elemNat w v.toNat (8 * i + t)

theorem length_keptElems (i : Nat) : (keptElems ty w v i).length = 4 := by
  rw [keptElems, List.length_map, length_prunedKeeps]

theorem kept_eq : (List.zipWith keptOf ((groups8 (numElems w / 8) (elemsOf w v)).map fun l => keepMask (l.map (magOf ty)))
    (groups8 (numElems w / 8) (elemsOf w v))).flatMap id = (List.range (numElems w / 8)).flatMap (keptElems ty w v) := by
  rw [masks_eq, groups8_elemsOf, List.zipWith_map, List.zipWith_self, List.flatMap_map]
  refine List.flatMap_congr fun i _ => ?_
  rw [id, keptOf_map_range, keptElems]
  refine congrArg _ (List.filter_congr fun t ht => ?_)
  rw [testBit_keepMask, decide_eq_true (List.mem_range.mp ht), Bool.true_and]

theorem getD_keptElems {k : Nat} (h : prunedKeeps (magAt ty w v) k = true) :
    prunedRank (magAt ty w v) k < 4 ∧ (keptElems ty w v (k / 8)).getD (prunedRank (magAt ty w v) k) 0 = elemNat w v.toNat k := by
  have place : 8 * (k / 8) + k % 8 = k := Nat.div_add_mod ..
  have rank := getElem?_filter_range (fun t => prunedKeeps (magAt ty w v) (8 * (k / 8) + t)) (Nat.mod_lt k (by decide : 0 < 8))
    (by rwa [place])
  rw [prunedRank, Nat.mul_comm (k / 8)]
  refine ⟨length_prunedKeeps (magAt ty w v) (k / 8) ▸ (List.getElem?_eq_some_iff.mp rank).1, ?_⟩
  rw [keptElems, List.getD_eq_getElem?_getD, List.getElem?_map, rank, Option.map_some, Option.getD_some, place]

end

section
variable (ty w : Nat) (v : VReg)

/-- What VSPCMP writes to vd: the elements kept, then zeros. -/
def prunedElems : List Nat := (List.range (numElems w / 8)).flatMap (keptElems ty w v) ++ List.replicate (numElems w / 2) 0

/-- What it writes to vm: the masks of the groups, then zeros. -/
def prunedMasks : List Nat :=
  ((List.range (numElems w / 8)).map fun i => keepMask ((List.range 8).map fun u => magAt ty w v (8 * i + u))) ++
    List.replicate (4096 - numElems w / 8) 0

variable {w} (eight : 8 ∣ numElems w)
include eight

theorem length_prunedElems : (prunedElems ty w v).length = numElems w := by
  rw [prunedElems, List.length_append, length_flatMap_range _ fun i _ => length_keptElems .., List.length_replicate]
  omega

theorem getD_prunedElems_kept {k : Nat} (hk : k < numElems w) (h : prunedKeeps (magAt ty w v) k = true) :
    k / 8 * 4 + prunedRank (magAt ty w v) k < numElems w ∧
      (prunedElems ty w v).getD (k / 8 * 4 + prunedRank (magAt ty w v) k) 0 = elemNat w v.toNat k := by
  obtain ⟨rank, value⟩ := getD_keptElems ty w v h
  have group : k / 8 < numElems w / 8 := by omega
  refine ⟨by omega, ?_⟩
  rw [prunedElems, List.getD_append _ _ _ _ (by rw [length_flatMap_range _ fun i _ => length_keptElems ..]; omega), Nat.mul_comm,
    getD_flatMap_range (fun i _ => length_keptElems ..) group rank, value]

theorem getD_prunedElems_zero {j : Nat} (hj : numElems w / 2 ≤ j) (hn : j < numElems w) : (prunedElems ty w v).getD j 0 = 0 := by
  have len : ((List.range (numElems w / 8)).flatMap (keptElems ty w v)).length = 4 * (numElems w / 8) :=
    length_flatMap_range _ fun i _ => length_keptElems ..
  rw [prunedElems, List.getD_append_right _ _ _ _ (by omega), List.getD_replicate _ (by omega)]

omit eight

theorem length_prunedMasks : (prunedMasks ty w v).length = 4096 := by
  have few : numElems w ≤ 32768 := Nat.div_le_self ..
  rw [prunedMasks, List.length_append, List.length_map, List.length_range, List.length_replicate]
  omega

theorem testBit_getD_prunedMasks {i k : Nat} (hi : i < 4096) (hk : k < 8) : ((prunedMasks ty w v).getD i 0).testBit k =
    (decide (i < numElems w / 8) && prunedKeeps (magAt ty w v) (8 * i + k)) := by
  by_cases low : i < numElems w / 8
  · rw [prunedMasks, List.getD_append _ _ _ _ (by simpa), getD_map_range _ _ low, testBit_keepMask, decide_eq_true hk, decide_eq_true low]
  · rw [prunedMasks, List.getD_append_right _ _ _ _ (by simpa using low), List.length_map, List.length_range,
      List.getD_replicate _ (by omega), decide_eq_false low, Nat.zero_testBit, Bool.false_and]

end

/-- The tile with the elements that VSPCMP keeps written to vd. -/
def Tile.prunedVd (x : Tile) (f : FmtV3) (en : PMask) (w : Nat) : Tile :=
  x.writeV f.vd.toNat (mergeElems en w (x.readV f.vd.toNat) (prunedElems f.ty.toNat w (x.srcVA f)))

/-- The tile with both registers of VSPCMP written. -/
def Tile.pruned (x : Tile) (f : FmtV3) (en : PMask) (w : Nat) : Tile :=
  (x.prunedVd f en w).writeV f.vb.toNat
    (mergeElems en 8 ((x.prunedVd f en w).readV f.vb.toNat) (prunedMasks f.ty.toNat w (x.srcVA f)))

section
variable {s : State} {g : Guard} {en : PMask} {f : FmtV3} {w : Nat} (free : s.issue.eng = .L → (here s).loadFix = none)
  (width : tyWidth f.ty.toNat = w)
include free width

theorem execVspcmp_on (h : VRuns s g en [f.va.toNat, f.vd.toNat, f.vb.toNat]) :
    exec (.vspcmp g f) s = finish s (.retire (s.putTile ((here s).pruned f en w))) := by
  subst width
  change execVspcmp g f s = _
  rw [execVspcmp, laneWord_gated (srcs := v3Srcs s.issue.cap f .one) h free]
  dsimp only
  rw [Tile.elemsVA, kept_eq, masks_eq]
  rfl

end

section
variable (x : Tile) {f : FmtV3} {en : PMask} {w : Nat}

theorem Tile.elem_pruned_vd (apart : f.vb ≠ f.vd) (eight : 8 ∣ numElems w) {j : Nat} (hj : j < numElems w) :
    elem (x.pruned f en w) w f.vd.toNat j =
      if enElem en w j then (prunedElems f.ty.toNat w (x.srcVA f)).getD j 0 % 2 ^ w else elem x w f.vd.toNat j := by
  have other : f.vd.toNat ≠ f.vb.toNat := fun same => apart (BitVec.eq_of_toNat_eq same.symm)
  rw [elem, Tile.pruned, Tile.readV_writeV, if_neg other, Tile.prunedVd, Tile.readV_writeV, if_pos rfl,
    elemNat_mergeElems _ _ hj (by rwa [length_prunedElems _ _ eight]), elem]

theorem Tile.elem_pruned_vb (apart : f.vb ≠ f.vd) {i : Nat} (hi : i < 4096) :
    elem (x.pruned f en w) 8 f.vb.toNat i =
      if enElem en 8 i then (prunedMasks f.ty.toNat w (x.srcVA f)).getD i 0 % 2 ^ 8 else elem x 8 f.vb.toNat i := by
  have other : f.vb.toNat ≠ f.vd.toNat := fun same => apart (BitVec.eq_of_toNat_eq same)
  rw [elem, Tile.pruned, Tile.readV_writeV, if_pos rfl, elemNat_mergeElems _ _ (by exact hi) (by rwa [length_prunedMasks]),
    Tile.prunedVd, Tile.readV_writeV, if_neg other, elem]

theorem Tile.readV_pruned {m : Nat} (hd : m ≠ f.vd.toNat) (hb : m ≠ f.vb.toNat) : (x.pruned f en w).readV m = x.readV m := by
  rw [Tile.pruned, Tile.readV_writeV, if_neg hb, Tile.prunedVd, Tile.readV_writeV, if_neg hd]

end

section
variable {s : State} {g : Guard} {en : PMask} {f : FmtV3} {w : Nat} (free : s.issue.eng = .L → (here s).loadFix = none)
  (width : tyWidth f.ty.toNat = w)
include free width

theorem vspcmp_prunes (h : VRuns s g en [f.va.toNat, f.vd.toNat, f.vb.toNat]) (apart : f.vb ≠ f.vd) :
    let x := here s
    let n := numElems w
    let a (k : Nat) : Nat := elemNat w (x.srcVA f).toNat k
    let mag (k : Nat) : Nat := magOf f.ty.toNat (a k)
    let place (k : Nat) : Nat := k / 8 * 4 + prunedRank mag k
    ∃ t, exec (.vspcmp g f) s = .next t ∧ ENext s t ∧
      (∀ k, k < n → prunedKeeps mag k = true → enElem en w (place k) = true → elem (here t) w f.vd.toNat (place k) = a k) ∧
      (∀ j, n / 2 ≤ j → j < n → enElem en w j = true → elem (here t) w f.vd.toNat j = 0) ∧
      (∀ j, j < n → enElem en w j = false → elem (here t) w f.vd.toNat j = elem x w f.vd.toNat j) ∧
      (∀ i, i < 4096 → enElem en 8 i = true → ∀ k, k < 8 →
        (elem (here t) 8 f.vb.toNat i).testBit k = (decide (i < n / 8) && prunedKeeps mag (8 * i + k))) ∧
      (∀ i, i < 4096 → enElem en 8 i = false → elem (here t) 8 f.vb.toNat i = elem x 8 f.vb.toNat i) ∧
      (∀ m, m ≠ f.vd.toNat → m ≠ f.vb.toNat → (here t).readV m = x.readV m) ∧
      { fixedE (here t) with v := [] } = { fixedE x with v := [] } := by
  intro x n a mag place
  have eight : 8 ∣ numElems w := width ▸ eight_dvd_numElems f.ty.toNat
  obtain ⟨t, ht, next, frame⟩ := finish_retireE (y := x.pruned f en w) h.1 rfl rfl rfl
  have reg (m : Nat) : (here t).readV m = (x.pruned f en w).readV m := readV_of_fixedE frame m
  have el (u m j : Nat) : elem (here t) u m j = elem (x.pruned f en w) u m j := by rw [elem, reg, elem]
  refine ⟨t, (execVspcmp_on free width h).trans ht, next, fun k hk keeps on => ?_, fun j half hj on => ?_, fun j hj off => ?_,
    fun i hi on k hk => ?_, fun i hi off => ?_, fun m hd hb => (reg m).trans (x.readV_pruned hd hb), ?_⟩
  · obtain ⟨inside, value⟩ := getD_prunedElems_kept f.ty.toNat (x.srcVA f) eight hk keeps
    have written := ((el ..).trans (x.elem_pruned_vd apart eight inside)).trans (if_pos on)
    exact written.trans ((congrArg (· % 2 ^ w) value).trans (Nat.mod_eq_of_lt (elemNat_lt ..)))
  · rw [el, x.elem_pruned_vd apart eight hj, if_pos on, getD_prunedElems_zero _ _ eight half hj, Nat.zero_mod]
  · rw [el, x.elem_pruned_vd apart eight hj, off]
    rfl
  · rw [el, x.elem_pruned_vb apart hi, if_pos on, Nat.testBit_mod_two_pow, decide_eq_true hk, Bool.true_and,
      testBit_getD_prunedMasks _ _ hi hk]
    rfl
  · rw [el, x.elem_pruned_vb apart hi, off]
    rfl
  · rw [frame]
    rfl

end

end Sys2Proof.Machine
end

section
/-! The refutation of O38: the lanes of a word of the L engine are those that an earlier turn of its load has fixed (R210, R213). -/

namespace Sys2Proof.Machine

open Sys2Proof.Safety

/-- A tile whose L engine stands at a load that keeps the lanes of an earlier turn, none of them enabled. -/
def loadWithoutLanes : Tile := { loadFix := some (0, 0) }

/-- The reset state with that tile, and with a word of its L engine issued. -/
def lIssueAtLoad : State := ({ State.reset with issue := { eng := .L } } : State).setTile 0 loadWithoutLanes

/-- The guard that holds in every lane. -/
def everyLane : Guard := ⟨0xFF, 0, 0, 0⟩

/-- The operands of VIOTA.i8 v0. -/
def iotaV0 : FmtV3 := ⟨0, 0, 0, 0, 0, 0, 0, 0, 0⟩

theorem here_lIssueAtLoad : here lIssueAtLoad = loadWithoutLanes := State.tile_setTile_self ..

/-- By its guard the word runs in every lane. -/
theorem vRuns_lIssueAtLoad : VRuns lIssueAtLoad everyLane (BitVec.allOnes 1024) [iotaV0.vd.toNat] := by
  rw [VRuns, here_lIssueAtLoad]
  refine ⟨by decide, by decide +kernel, by decide +kernel, fun n _ => ?_⟩
  exact BitVec.getLsbD_zero

/-- The word is void there: its lanes are those the load has fixed. -/
theorem exec_viota_lIssueAtLoad : exec (.viota everyLane iotaV0) lIssueAtLoad = .next (lIssueAtLoad.retire true) := by
  have void : (here lIssueAtLoad).lanesNow lIssueAtLoad.issue everyLane = 0 := by
    rw [here_lIssueAtLoad]
    rfl
  exact (laneWord_void void : execViota everyLane iotaV0 lIssueAtLoad = _)

/-- A void word leaves v0 as it was. -/
theorem elem_retire_lIssueAtLoad : elem (here (lIssueAtLoad.retire true)) 8 0 1 = 0 := by decide +kernel

/-- Refutes O38: `VRuns` gives the lanes of the guard, also for an issue of the L engine with a load under way, whose lanes are those of
`loadFix`. In `lIssueAtLoad` these are none, and VIOTA leaves element 1 of v0 at 0. Every word of the A engine, whose words these are,
does what O38 says: `vmov_moves`, `vbcst_moves`, `viota_moves`, `vsel_moves`, `vperm_moves`, `vrmrg_moves`, `vspcmp_prunes`,
`vspexp_traps`, `vspexp_moves`. -/
theorem not_movesAndSparsity : ¬ Obligations.MovesAndSparsity := by
  rintro ⟨moves, -⟩
  obtain ⟨-, iota, -⟩ := moves lIssueAtLoad everyLane (BitVec.allOnes 1024) iotaV0
  obtain ⟨t, answer, -, ⟨elems, -⟩, -⟩ := iota vRuns_lIssueAtLoad
  obtain rfl : lIssueAtLoad.retire true = t := Host.Outcome.next.inj (exec_viota_lIssueAtLoad.symm.trans answer)
  have one := elems 1 (by decide)
  rw [if_pos (by decide +kernel)] at one
  exact absurd (elem_retire_lIssueAtLoad.symm.trans one) (by decide)

end Sys2Proof.Machine
end

section
/-! SUPPORT for O43: accumulators loaded and drained (R53, R63, R164, R168). -/

namespace Sys2Proof.Machine

open Sys2Proof.Safety

/-! ### Words that wait, and words with one guard value -/

/-- A word that has changed its tile and waits (R370). -/
theorem State.stay_putTile (s : State) (y : Tile) (why : Nat) : (s.putTile y).stay why = s.putTile (y.setWait s.issue.eng why) := by
  have own : (s.putTile y).tile s.issue.tile = y := State.tile_setTile_self ..
  have place : (s.putTile y).issue = s.issue := rfl
  rw [State.stay, place, own]
  exact State.setTile_setTile ..

section
variable {s : State} {e : Engine} {g : Guard} {regs : List Nat} (h : ERuns s e g regs)
include h

theorem eWord_runs (k : Tile → Ending) : eWord s g k = finish s (k (here s)) := by
  obtain ⟨rfl, -, guard, -⟩ := h
  exact eWord_on guard

theorem eng_ne_of_eRuns : s.issue.eng ≠ .S := by
  obtain ⟨rfl, other, -, -⟩ := h
  exact other

/-- Of a word whose registers are full nothing traps and nothing waits, be they written or read (R64). -/
theorem gateV_written (k : Ending) : (here s).gateV s [] regs k = k :=
  Tile.gateV_full nofun h.2.2.2

theorem gateV_read (k : Ending) : (here s).gateV s (regs.map waitV) [] k = k := by
  refine Tile.gateV_full (fun r hr => ?_) fun n hn => absurd hn List.not_mem_nil
  obtain ⟨n, hn, rfl⟩ := List.mem_map.mp hr
  exact h.2.2.2 n hn

end

/-! ### A quarter of an accumulator -/

theorem toNat_extractLsb'_acc (m : Sys2Proof.Acc) (q : Nat) : (m.extractLsb' (32768 * q) 32768).toNat = elemNat 32768 m.toNat q := by
  rw [BitVec.extractLsb'_toNat, Nat.shiftRight_eq_div_pow, elemNat, bits]

/-- The accumulator that four registers make, 16 rows each (R168). -/
def accOf (vs : List VReg) : Sys2Proof.Acc := BitVec.ofNat 131072 (packElems 32768 (vs.map BitVec.toNat))

theorem extractLsb'_accOf (vs : List VReg) {q : Nat} (hq : q < 4) : (accOf vs).extractLsb' (32768 * q) 32768 = vs.getD q 0 := by
  apply BitVec.eq_of_toNat_eq
  have inside : 32768 * q + 32768 ≤ 131072 := by omega
  rw [toNat_extractLsb'_acc, accOf, BitVec.toNat_ofNat, elemNat, bits_mod_two_pow _ inside, ← elemNat, elemNat_packElems]
  rw [← BitVec.toNat_zero (w := 32768), List.getD_map, Nat.mod_eq_of_lt (BitVec.isLt _)]
  rfl

/-! ### Results of MDRAIN in flight -/

theorem Tile.emptyV_markV (x : Tile) (k : Nat) {n : Nat} (hn : n < 192) : (x.markV k true).emptyV n = (x.emptyV n || n == k) := by
  have one : (1#192 <<< k).getLsbD n = (n == k) := by
    rw [BitVec.getLsbD_shiftLeft, BitVec.getLsbD_one, Bool.eq_iff_iff]
    simp only [Bool.and_eq_true, Bool.not_eq_true', decide_eq_true_eq, decide_eq_false_iff_not, beq_iff_eq]
    omega
  rw [Tile.emptyV, Tile.markV, if_pos rfl, BitVec.getLsbD_or, one, Tile.emptyV]

/-- The tile with a result in flight, its register empty (R63). -/
def Tile.awaiting (x : Tile) (i : InFlight) : Tile := { x.markV i.tgt true with inflight := x.inflight ++ [i] }

/-- The same for several results. -/
def Tile.awaitingAll (x : Tile) (l : List InFlight) : Tile := l.foldl Tile.awaiting x

theorem Tile.awaitingAll_eq (x : Tile) (l : List InFlight) :
    ∃ v, x.awaitingAll l = { x with vEmpty := v, inflight := x.inflight ++ l } := by
  induction l generalizing x with
  | nil => exact ⟨x.vEmpty, by rw [List.append_nil]; rfl⟩
  | cons i l ih =>
    rw [← List.singleton_append, ← List.append_assoc]
    exact ih (x.awaiting i)

theorem Tile.emptyV_awaitingAll (x : Tile) (l : List InFlight) {n : Nat} (hn : n < 192) :
    (x.awaitingAll l).emptyV n = (x.emptyV n || l.any fun i => n == i.tgt) := by
  induction l generalizing x with
  | nil => exact (Bool.or_false _).symm
  | cons i l ih =>
    have first : (x.awaiting i).emptyV n = (x.markV i.tgt true).emptyV n := rfl
    rw [List.any_cons, ← Bool.or_assoc, ← x.emptyV_markV i.tgt hn, ← first]
    exact ih (x.awaiting i)

/-- What an MDRAIN's result r.2 is issued with: it is due after those before it (Table 09-2). -/
def State.drainIssue (s : State) (r : Nat × Nat) : Issue := { s.issue with lat := s.issue.lat + 2 * r.2 }

/-- Result r.2 of an MDRAIN, for register r.1: 16 rows of the accumulator (R168). -/
def State.drainResult (s : State) (m : Sys2Proof.Acc) (r : Nat × Nat) : InFlight :=
  { kind := .mdrain, eng := s.issue.eng, tgt := r.1, payload := BitVec.ofNat 32768 (bits m.toNat (32768 * r.2) 32768), flags := 0,
    seq := s.issue.seq, tag := s.issue.tag, addr := s.issue.addr,
    due := State.dueAt { s with issue := s.drainIssue r } 0 }

theorem State.drainResult_payload (s : State) (m : Sys2Proof.Acc) (r : Nat × Nat) :
    (s.drainResult m r).payload = m.extractLsb' (32768 * r.2) 32768 := by
  apply BitVec.eq_of_toNat_eq
  rw [State.drainResult, BitVec.toNat_ofNat, toNat_extractLsb'_acc, elemNat]
  exact Nat.mod_eq_of_lt (bits_lt ..)

/-- A result of an MDRAIN of s issued in u. -/
def State.drainStep (s : State) (m : Sys2Proof.Acc) (u : State) (r : Nat × Nat) : State :=
  { u with issue := s.drainIssue r }.issueLong .mdrain r.1 (BitVec.ofNat 32768 (bits m.toNat (32768 * r.2) 32768)) 0 0xFFFF

theorem State.drainStep_self (s : State) (m : Sys2Proof.Acc) (r : Nat × Nat) :
    s.drainStep m s r = { s.putTile ((here s).awaiting (s.drainResult m r)) with issue := s.drainIssue r } := rfl

theorem State.drainStep_putTile (s : State) (m : Sys2Proof.Acc) (y : Tile) (w : Issue) (r : Nat × Nat) :
    s.drainStep m { s.putTile y with issue := w } r =
      { s.putTile (y.awaiting (s.drainResult m r)) with issue := s.drainIssue r } := by
  have own : State.tile { s.putTile y with issue := s.drainIssue r } s.issue.tile = y := State.tile_setTile_self ..
  have twice (z : Tile) : State.setTile { s.putTile y with issue := s.drainIssue r } s.issue.tile z =
      { s.putTile z with issue := s.drainIssue r } :=
    congrArg (fun u : State => { u with issue := s.drainIssue r }) (State.setTile_setTile ..)
  have place : (s.drainIssue r).tile = s.issue.tile := rfl
  simp only [State.drainStep, State.issueLong, place, own, twice]
  rfl

/-- The results of an MDRAIN enter their tile one after the other. -/
theorem drainStep_foldl (s : State) (m : Sys2Proof.Acc) (l : List (Nat × Nat)) (y : Tile) (w : Issue) :
    ∃ w', l.foldl (s.drainStep m) { s.putTile y with issue := w } =
      { s.putTile (y.awaitingAll (l.map (s.drainResult m))) with issue := w' } := by
  induction l generalizing y w with
  | nil => exact ⟨w, rfl⟩
  | cons r l ih =>
    rw [List.foldl_cons, s.drainStep_putTile]
    exact ih _ _

theorem issueDrain_eq (s : State) (m : Sys2Proof.Acc) (r : Nat) (rs : List Nat) : s.issueDrain m (r :: rs) =
    s.putTile ((here s).awaitingAll ((r :: rs).zipIdx.map (s.drainResult m))) := by
  have steps : s.issueDrain m (r :: rs) = { (r :: rs).zipIdx.foldl (s.drainStep m) s with issue := s.issue } := rfl
  obtain ⟨w, last⟩ := drainStep_foldl s m (rs.zipIdx 1) ((here s).awaiting (s.drainResult m (r, 0))) (s.drainIssue (r, 0))
  rw [steps, List.zipIdx_cons, List.foldl_cons, s.drainStep_self, last]
  rfl

end Sys2Proof.Machine
end

section
/-! The proof of O43: MZERO, MLOAD and MDRAIN, and where MMA and MMAS stand once issued (R164, R167, R168, R172). -/

namespace Sys2Proof.Machine

open Sys2Proof.Safety

theorem emptyV_of_fixedE {x y : Tile} (h : fixedE x = fixedE y) (n : Nat) : x.emptyV n = y.emptyV n :=
  (congrArg (fun z : Tile => z.emptyV n) h :)

theorem readM_of_fixedE {x y : Tile} (h : fixedE x = fixedE y) (n : Nat) : x.readM n = y.readM n :=
  (congrArg (fun z : Tile => z.readM n) h :)

/-- What a word of the M engine that writes an accumulator and retires answers. -/
theorem finish_writeM {s : State} (he : s.issue.eng ≠ .S) (a : Nat) (v : Sys2Proof.Acc) :
    ∃ t, finish s (.retire (s.putTile ((here s).writeM a v))) = .next t ∧ ENext s t ∧
      (∀ n, (here t).readM n = if n = a then v else (here s).readM n) ∧
      { fixedE (here t) with m := [] } = { fixedE (here s) with m := [] } := by
  obtain ⟨t, ht, next, frame⟩ := finish_retireE (y := (here s).writeM a v) he rfl rfl rfl
  exact ⟨t, ht, next, fun n => (readM_of_fixedE frame n).trans (Tile.readM_writeM ..), by rw [frame]; rfl⟩

section
variable {s : State} {g : Guard} {f : FmtMX}

theorem exec_mzero (h : ERuns s .M g []) : exec (.mzero g f) s = finish s (.retire (s.putTile ((here s).writeM f.acc.toNat 0))) := by
  change execMzero g f s = _
  exact eWord_runs h _

/-- A matrix word whose steps have not begun stands at step 0 (R172). -/
theorem mIssue_begins (h : ERuns s .M g []) (fresh : (here s).mStep = none) :
    mIssue s g = .next (s.setTile s.issue.tile ({ here s with mStep := some 0 }.setWait .M 0)) := by
  rw [mIssue, eWord_runs h]
  simp only [fresh]
  rw [finish_wait, State.stay_putTile, h.1]
  rfl

section
variable {regs : List Nat} (named : s.issue.cap.regs = regs) (h : ERuns s .M g regs)
include named h

theorem exec_mload : exec (.mload g f) s =
    finish s (.retire (s.putTile ((here s).writeM f.acc.toNat (accOf (regs.map (here s).readV))))) := by
  subst named
  change execMload g f s = _
  rw [execMload, eWord_runs h, gateV_read h, accOf, List.map_map]
  rfl

theorem exec_mdrain : exec (.mdrain g f) s = finish s (.retire (s.issueDrain ((here s).readM f.acc.toNat) regs)) := by
  subst named
  change execMdrain g f s = _
  rw [execMdrain, eWord_runs h, gateV_written h]

end
end

/-- Settles O43: MZERO and MLOAD by what a word that writes an accumulator answers, MDRAIN by the list of results that it puts in flight. -/
theorem matrixWords : Obligations.MatrixWords := by
  intro s g f x a
  refine ⟨fun h => ⟨?_, fun fresh i hi => ?_⟩, fun r0 r1 r2 r3 named h => ?_⟩
  · rw [exec_mzero h]
    exact finish_writeM (eng_ne_of_eRuns h) ..
  · obtain rfl | rfl := hi
    · exact mIssue_begins h fresh
    · exact mIssue_begins h fresh
  intro r
  constructor
  · rw [exec_mload named h]
    obtain ⟨t, ht, next, acc, frame⟩ := finish_writeM (eng_ne_of_eRuns h) a (accOf ([r0, r1, r2, r3].map x.readV))
    refine ⟨t, ht, next, fun n hn => (acc n).trans (if_neg hn), fun q hq => ?_, frame⟩
    rw [acc, if_pos rfl, extractLsb'_accOf _ hq]
    interval_cases q <;> rfl
  · rw [exec_mdrain named h, issueDrain_eq]
    let i (q : Nat) : InFlight := s.drainResult (x.readM a) (r q, q)
    change ∃ t i0 i1 i2 i3, finish s (.retire (s.putTile (x.awaitingAll [i 0, i 1, i 2, i 3]))) = .next t ∧ _
    obtain ⟨v, drained⟩ := x.awaitingAll_eq [i 0, i 1, i 2, i 3]
    obtain ⟨t, ht, next, frame⟩ := finish_retireE (y := x.awaitingAll [i 0, i 1, i 2, i 3]) (eng_ne_of_eRuns h) (by rw [drained])
      (by rw [drained]) (by rw [drained])
    refine ⟨t, i 0, i 1, i 2, i 3, ht, next, ?_, fun q hq => ?_, fun n hn => ?_, ?_⟩
    · have queue : (here t).inflight = (x.awaitingAll [i 0, i 1, i 2, i 3]).inflight := (congrArg Tile.inflight frame :)
      rw [queue, drained]
    · have same : (if q = 0 then i 0 else if q = 1 then i 1 else if q = 2 then i 2 else i 3) = i q := by interval_cases q <;> rfl
      dsimp only
      rw [same]
      exact ⟨rfl, rfl, rfl, rfl, rfl, rfl, s.drainResult_payload ..⟩
    · rw [emptyV_of_fixedE frame, x.emptyV_awaitingAll _ hn]
      simp only [List.any_cons, List.any_nil, Bool.or_false, Bool.or_assoc]
      rfl
    · rw [frame, drained]
      rfl

end Sys2Proof.Machine
end

section
/-! SUPPORT for O42: what a VFEED or an SCLD answers whose queue has no room for what it has read (R171, R216, R217, R309). -/

namespace Sys2Proof.Machine

open Sys2Proof.Safety

theorem Tile.watch_of_unwatched {x : Tile} (h : Unwatched x) (rows : List Nat) (write dom : Bool) : x.watch rows write dom = none := by
  rw [Tile.watch, List.findSome?_eq_none_iff]
  intro n hn
  have off : bit (x.readDbg (4 + n)) 63 = false := h n (List.mem_range.mp hn)
  simp only [off, Bool.false_and, Bool.false_eq_true, if_false]

section
variable {s : State} {f : FmtVM} (free : ¬ ClassOpen s f) (now : AtOnce s)
include free now

/-- A load that nothing holds back notes the rows it reads, and has its effect. -/
theorem vmGo_load {α : Type} (unwatched : Unwatched (here s)) (fix : PMask × VReg) (data : Bool) (p : α) (rows : α → List Nat)
    (k : State → α → Ending) : vmGo s f (.load fix data) (.ok p) rows k = k (s.noteRows s.issue.tile (rows p)) p := by
  have hold : s.vmHold f = false := Bool.eq_false_iff.mpr free
  have fresh : (if s.issue.eng == .L then (s.tile s.issue.tile).rowsIn.length else 0) = 0 := by
    by_cases e : s.issue.eng = .L
    · rw [show (s.tile s.issue.tile).rowsIn = [] from (now.2 e).1]
      exact ite_self 0
    · exact if_neg (by simpa using e)
  simp only [vmGo, hold, fresh, Bool.false_eq_true, if_false, Nat.lt_irrefl, now.1, Bool.false_and]
  exact watched_none (Tile.watch_of_unwatched unwatched ..) _

/-- With its queue full, a feeding word has read its rows, holds what it has to push, and waits (R171, R309). -/
theorem feedWord_full {g : Guard} {q : Nat} {plan : Tile → Except Refuses (List Nat × List Byte)} {rows : List Nat} {bs : List Byte}
    (runs : ERuns s .L g []) (idle : (here s).lPush = none) (unwatched : Unwatched (here s)) (planned : plan (here s) = .ok (rows, bs))
    (full : (here s).queueRoom q < pushUnits q bs) : feedWord s g f q plan =
      .next ((s.setTile s.issue.tile ({ here s with lPush := some (q, bs) }.setWait .L 2)).note
        (rows.map fun r => spTrail false s.issue.tile (256 * r) 256)) := by
  obtain ⟨eng, -, guard, -⟩ := runs
  have push : pushL (s.noteRows s.issue.tile rows) q bs =
      .wait ((s.noteRows s.issue.tile rows).putTile { here s with lPush := some (q, bs) }) 2 :=
    if_neg (Nat.not_le.mpr full)
  have ends : feedWord s g f q plan = finish s (pushL (s.noteRows s.issue.tile rows) q bs) := by
    unfold here at idle planned guard
    rw [feedWord]
    simp only [idle, planned, guard, eng, Bool.or_true, if_true]
    exact congrArg (finish s) (vmGo_load free now unwatched ..)
  rw [ends, push, finish_wait, State.stay_putTile]
  exact congrArg (fun e => Host.Outcome.next ((s.noteRows s.issue.tile rows).putTile (Tile.setWait _ e 2))) eng

end

end Sys2Proof.Machine
end

section
/-! The refutation of O42: the rows that a VFEED or an SCLD reads are noted also where it waits for room (log 4). -/

namespace Sys2Proof.Machine

open Sys2Proof.Safety

/-- The operands of an SCLD.a of one head, at the base of layout entry 0. -/
def oneHead : FmtVM := ⟨0, 0, 0, 0, 0, 0, 0, 0, 1⟩

/-- A tile with a full SQA. -/
def fullSqa : Tile := { sqa := List.replicate 1024 0 }

/-- The reset state with that tile, and with a word of its L engine issued. -/
def lIssueAtFullSqa : State := ({ State.reset with issue := { eng := .L } } : State).setTile 0 fullSqa

theorem here_lIssueAtFullSqa : here lIssueAtFullSqa = fullSqa := State.tile_setTile_self ..

theorem eRuns_lIssueAtFullSqa : ERuns lIssueAtFullSqa .L everyLane [] := by
  rw [ERuns, here_lIssueAtFullSqa]
  exact ⟨rfl, by decide, by decide +kernel, nofun⟩

theorem unwatched_fullSqa : Unwatched fullSqa := fun _ _ => Nat.zero_testBit 63

theorem not_classOpen_lIssueAtFullSqa : ¬ ClassOpen lIssueAtFullSqa oneHead := by
  rw [ClassOpen, here_lIssueAtFullSqa]
  decide

theorem atOnce_lIssueAtFullSqa : AtOnce lIssueAtFullSqa := by
  rw [AtOnce, here_lIssueAtFullSqa]
  exact ⟨rfl, fun _ => ⟨rfl, rfl⟩⟩

/-- The head is read from row 0, which the scratchpad holds as zeros. -/
theorem scalePlan_fullSqa : fullSqa.scalePlan {} (fullSqa.vmEntry oneHead) oneHead = .ok ([0], [0, 0]) := by decide +kernel

/-- The SCLD waits with its head, and the row it has read is noted. -/
theorem exec_scld_lIssueAtFullSqa : exec (.scld everyLane oneHead) lIssueAtFullSqa =
    .next ((lIssueAtFullSqa.setTile 0 ({ fullSqa with lPush := some (0, [0, 0]) }.setWait .L 2)).note [spTrail false 0 0 256]) := by
  have answer := feedWord_full (q := 0) (plan := fun x => x.scalePlan {} (x.vmEntry oneHead) oneHead) not_classOpen_lIssueAtFullSqa
    atOnce_lIssueAtFullSqa eRuns_lIssueAtFullSqa (by rw [here_lIssueAtFullSqa]; rfl) (by rw [here_lIssueAtFullSqa]; exact unwatched_fullSqa)
    (by rw [here_lIssueAtFullSqa]; exact scalePlan_fullSqa) (by rw [here_lIssueAtFullSqa]; decide +kernel)
  rw [here_lIssueAtFullSqa] at answer
  exact answer

/-- Refutes O42: of a push that finds no room `Pushes` asks that nothing but the tile of its word differ, and a VFEED or an SCLD that
waits has noted the rows it has read among the accesses of its item (log 4). In `lIssueAtFullSqa` SQA holds 1,024 heads, and an SCLD of
one head leaves row 0 in the trail, which stood empty. -/
theorem not_feedWords : ¬ Obligations.FeedWords := by
  rintro ⟨feeds, -⟩
  have word := feeds lIssueAtFullSqa everyLane oneHead eRuns_lIssueAtFullSqa (by rw [here_lIssueAtFullSqa]; rfl)
    (by rw [here_lIssueAtFullSqa]; exact unwatched_fullSqa)
  rw [here_lIssueAtFullSqa] at word
  obtain ⟨-, plain, -⟩ := word.2 not_classOpen_lIssueAtFullSqa
  obtain ⟨-, -, -, -, scale⟩ := plain (by decide +kernel) (by decide +kernel)
  have place : vmAddr fullSqa lIssueAtFullSqa.issue.cap oneHead (0 : Nat) = .ok 0 := by decide +kernel
  obtain ⟨-, waits⟩ := (scale fun t ht => ht ▸ ⟨0, place⟩).2 not_classOpen_lIssueAtFullSqa atOnce_lIssueAtFullSqa 0 place
  have answer := waits (by decide +kernel) (by decide +kernel)
  rw [exec_scld_lIssueAtFullSqa] at answer
  have trail := congrArg State.trail (Host.Outcome.next.inj answer)
  exact absurd trail (by decide)

end Sys2Proof.Machine
end

section
/-! The refutation of O47: an XAPND whose item has no place traps, also where the point of its list is away (R259, R264, R265, R309). -/

namespace Sys2Proof.Machine

open Sys2Proof.Safety

/-- An XAPND of one item at byte 32 of its tile's scratchpad, which no item can have, to the list of home tile 1. -/
def unplacedAppend : Command :=
  { cslot := 0, word := ⟨9#96 <<< 86, 0, { sl := 32, dl := 1#512 <<< 32 ||| 1#512 <<< 329 }⟩, num := 0, tag := 0, seq := 0, accepted := true,
    count := 1 }

/-- A tile of a list launch, with that command in its channel. -/
def appendingTile : Tile :=
  { point := some { slot := 0, hdr := 1, col := 0, z := 0, home := 0, started := true }, chan := [unplacedAppend] }

/-- The reset state with that tile, in a list launch whose point of home tile 1 is parked. -/
def listAway : State := ({ State.reset with
  launches := [(0, { hdrVA := 0, hdr := 1, seq := 1, node := 0, nodeW := 0, nodeCtx := 0, nodePriv := 0,
                     pts := [{ col := 0, z := 0, home := 1, place := .parked 0 }] })] } : State).setTile 0 appendingTile

theorem elementGoes_listAway : ElementGoes listAway 0 0 unplacedAppend := by
  have own : listAway.tile 0 = appendingTile := State.tile_setTile_self ..
  refine ⟨by decide +kernel, by decide +kernel, by decide +kernel, ?_, by decide +kernel, by decide +kernel, by decide +kernel⟩
  rw [own]
  exact fun _ _ => Nat.zero_testBit 63

/-- The channel of tile 0 after an event. -/
def chanAfter (r : Res) : List Command :=
  match r with
  | .next t => (t.tile 0).chan
  | _ => []

/-- The command ends, to trap with case 5 of its source entry. -/
theorem chanAfter_elementPerform_listAway :
    chanAfter (exec (.elementPerform 0 0) listAway) = [{ unplacedAppend with trap := some (8, 5 * 256), done := true }] := by
  decide +kernel

/-- Refutes O47: two clauses of `ListElements` disagree where the list of an XAPND is away and its item has no place. One says that the
command then holds its channel, the other that it ends, to trap as the oldest. The model looks for the place first: in `listAway` the
command ends. -/
theorem not_channelEvents : ¬ Obligations.ChannelEvents := by
  rintro ⟨-, -, -, lists, -⟩
  obtain ⟨-, away, -⟩ := lists listAway 0 0 unplacedAppend elementGoes_listAway
  have held := congrArg chanAfter (away (by decide +kernel) (by decide +kernel))
  rw [chanAfter_elementPerform_listAway] at held
  exact absurd (congrArg (List.map Command.done) held) (by decide +kernel)

end Sys2Proof.Machine
end

section
/-! The proof of O19: Resolve of an entry and four coordinates, and the byte address of SLD and SST (R123, R182, R209). -/

namespace Sys2Proof.Machine

open Sys2Proof.Safety

/-! ### Resolve -/

theorem layField_eq (e : Nat) {w lo len n : Nat} (h : 64 * w + lo = n) : layField e w lo len = e / 2 ^ n % 2 ^ len := by
  rw [layField, bits, h]

/-- Coordinate i is not refused: it lies within its extent, or above the rank it is zero. -/
def CoordOk (e : Nat) (cs : List Int) (i : Nat) : Prop :=
  if layRank e < i then cs.getD i 0 = 0 else 0 ≤ cs.getD i 0 ∧ cs.getD i 0 < layExt e i

section
variable {e : Nat} {cs : List Int}

theorem coordOk_iff (i : Nat) : CoordOk e cs i ↔
    (if i > layRank e then cs.getD i 0 != 0 else cs.getD i 0 < 0 || cs.getD i 0 ≥ layExt e i) = false := by
  unfold CoordOk
  split <;> simp

theorem badCoord_eq_some {i : Nat} (hi : i < 4) (bad : ¬ CoordOk e cs i) (first : ∀ j, j < i → CoordOk e cs j) :
    badCoord e cs = some i := by
  refine List.find?_range_eq_some.mpr ⟨?_, List.mem_range.mpr hi, fun j hj => ?_⟩
  · exact Bool.of_not_eq_false fun ok => bad ((coordOk_iff i).mpr ok)
  · exact congrArg (!·) ((coordOk_iff j).mp (first j hj))

theorem badCoord_eq_none (ok : ∀ i, i < 4 → CoordOk e cs i) : badCoord e cs = none :=
  List.find?_range_eq_none.mpr fun i hi => congrArg (!·) ((coordOk_iff i).mp (ok i hi))

theorem badCoord_lt {i : Nat} (h : badCoord e cs = some i) : i < 4 :=
  List.mem_range.mp (List.mem_of_find?_eq_some h)

theorem resolve_stream (space : laySpace e = 3) : resolve e cs = .ok (.stream (layBase e % 4)) := if_pos space

theorem resolve_bad (space : laySpace e ≠ 3) {i : Nat} (h : badCoord e cs = some i) : resolve e cs = .error (1, i) := by
  rw [resolve, if_neg space, h]

theorem resolve_virt (space : laySpace e = 2) (h : badCoord e cs = none) :
    resolve e cs = .ok (.virt (wrap 57 ((layBase e % 2 ^ 57 : Nat) + layOffset e cs))) := by
  simp only [resolve, h, space, if_neg (show ¬ 2 = 3 by decide), if_true]

theorem resolve_row (space : laySpace e < 2) (h : badCoord e cs = none) {a : Int}
    (ha : (layBase e % 2 ^ 22 : Nat) + layOffset e cs = a) (within : 0 ≤ a ∧ a < 2 ^ 22) : resolve e cs = .ok (.row a.toNat) := by
  simp only [resolve, h, if_neg (show ¬ laySpace e = 3 by omega), if_neg (show ¬ laySpace e = 2 by omega), ha]
  exact if_neg (by rw [Bool.or_eq_true, decide_eq_true_eq, decide_eq_true_eq]; omega)

theorem resolve_beyond (space : laySpace e < 2) (h : badCoord e cs = none) {a : Int}
    (ha : (layBase e % 2 ^ 22 : Nat) + layOffset e cs = a) (beyond : a < 0 ∨ 2 ^ 22 ≤ a) : resolve e cs = .error (5, 0) := by
  simp only [resolve, h, if_neg (show ¬ laySpace e = 3 by omega), if_neg (show ¬ laySpace e = 2 by omega), ha]
  exact if_pos (by rwa [Bool.or_eq_true, decide_eq_true_eq, decide_eq_true_eq])

/-- What an entry of space 0 answers: an address of the scratchpad, or a refusal with its dimension. -/
theorem resolve_space0 (space : laySpace e = 0) :
    (∃ a, resolve e cs = .ok (.row a) ∧ a < 2 ^ 22) ∨ ∃ c d, resolve e cs = .error (c, d) ∧ d < 4 := by
  cases hc : badCoord e cs with
  | some i => exact .inr ⟨1, i, resolve_bad (by omega) hc, badCoord_lt hc⟩
  | none =>
    by_cases within : 0 ≤ (layBase e % 2 ^ 22 : Nat) + layOffset e cs ∧ (layBase e % 2 ^ 22 : Nat) + layOffset e cs < 2 ^ 22
    · exact .inl ⟨_, resolve_row (by omega) hc rfl within, by omega⟩
    · exact .inr ⟨5, 0, resolve_beyond (by omega) hc rfl (by omega), by decide⟩

theorem dim_lt_of_resolve (space : laySpace e = 0) {c d : Nat} (h : resolve e cs = .error (c, d)) : d < 4 := by
  rcases resolve_space0 (cs := cs) space with ⟨b, hb, -⟩ | ⟨c', d', hc, low⟩
  · cases h.symm.trans hb
  · cases h.symm.trans hc
    exact low

end

/-- A stride is the signed reading of its 32 bits. -/
theorem layStride_eq (e i : Nat) : layStride e i = (BitVec.ofNat 32 (e / 2 ^ (192 + 32 * i))).toInt := by
  rw [layStride, signExt_eq_toInt (by decide)]
  refine congrArg BitVec.toInt (BitVec.eq_of_toNat_eq ?_)
  rw [BitVec.toNat_ofNat, BitVec.toNat_ofNat]
  exact Nat.mod_mod _ _

theorem layBase_mod_two_pow (e : Nat) {n : Nat} (h : n ≤ 64) : layBase e % 2 ^ n = e % 2 ^ n := by
  have low : layBase e = e % 2 ^ 64 := congrArg (· % 2 ^ 64) (Nat.div_one e)
  rw [low, Nat.mod_mod_of_dvd _ (Nat.pow_dvd_pow 2 h)]

/-! ### The address of SLD and SST -/

section
variable {x : Tile} {f : FmtSM}

/-- The four coordinates of SLD and SST (R123). -/
def Tile.smCoords (x : Tile) (f : FmtSM) : List Int := [coord (x.readG f.ga.toNat) + f.imm.toInt, coord (x.readG f.gb.toNat), 0, 0]

theorem smAddr_otherSpace (space : laySpace (x.readLay f.lay.toNat) ≠ 0) : x.smAddr f = .error (f.lay.toNat + 2 * 256) := if_pos space

theorem smAddr_refused (space : laySpace (x.readLay f.lay.toNat) = 0) {c d : Nat}
    (h : resolve (x.readLay f.lay.toNat) (x.smCoords f) = .error (c, d)) : x.smAddr f = .error (layoutData f.lay.toNat c 0 d) := by
  have row : resolveRow (x.readLay f.lay.toNat) (x.smCoords f) = .error (c, d) := by rw [resolveRow, h]
  rw [Tile.smCoords] at row
  simp only [Tile.smAddr, space, ne_eq, not_true, if_false, row]

theorem smAddr_row (space : laySpace (x.readLay f.lay.toNat) = 0) {a : Nat}
    (h : resolve (x.readLay f.lay.toNat) (x.smCoords f) = .ok (.row a)) :
    x.smAddr f = .ok (a / smBytes f.size.toNat * smBytes f.size.toNat) := by
  have row : resolveRow (x.readLay f.lay.toNat) (x.smCoords f) = .ok a := by rw [resolveRow, h]
  rw [Tile.smCoords] at row
  simp only [Tile.smAddr, space, ne_eq, not_true, if_false, row]

/-- An address that is given is one of a byte of the scratchpad with the low bits of the size cleared. -/
theorem smAddr_ok {a : Nat} (h : x.smAddr f = .ok a) : ∃ b, b < 2 ^ 22 ∧ a = b / smBytes f.size.toNat * smBytes f.size.toNat := by
  by_cases space : laySpace (x.readLay f.lay.toNat) = 0
  · rcases resolve_space0 (cs := x.smCoords f) space with ⟨b, hb, low⟩ | ⟨c, d, hc, -⟩
    · rw [smAddr_row space hb] at h
      exact ⟨b, low, (Except.ok.inj h).symm⟩
    · rw [smAddr_refused space hc] at h
      cases h
  · rw [smAddr_otherSpace space] at h
    cases h

theorem layoutData_dim (entry case : Nat) {d : Nat} (hd : d < 4) : layoutData entry case 0 d = entry + case * 256 + d * 2 ^ 18 := by
  rw [layoutData, Nat.zero_mod, Nat.zero_mul, Nat.add_zero, Nat.mod_eq_of_lt hd]

/-- An access of a size, at a multiple of it, lies within one row of the scratchpad. -/
theorem sized_within_row {b : Nat} (size : Nat) (hb : b < 2 ^ 22) :
    let n := sizeBytes size
    let a := b / n * n
    a + n ≤ 2 ^ 22 ∧ a % n = 0 ∧ (a + n - 1) / 256 = a / 256 := by
  have pow2 : sizeBytes size = 1 ∨ sizeBytes size = 2 ∨ sizeBytes size = 4 ∨ sizeBytes size = 8 := by
    unfold sizeBytes
    split_ifs <;> simp
  rcases pow2 with hn | hn | hn | hn <;> simp only [hn] <;> omega

end

/-- Settles O19: the four coordinates one by one for Resolve, and the address of SLD and SST by what the entry answers. -/
theorem layoutAddresses : Obligations.LayoutAddresses := by
  refine ⟨fun e c0 c1 c2 c3 => ?_, fun x f size => ?_⟩
  · intro c ext rank space good stride off a
    have ok (i : Nat) (hi : i < 4) : good i ↔ CoordOk e [c0, c1, c2, c3] i := by
      have read : [c0, c1, c2, c3].getD i 0 = c i := by interval_cases i <;> rfl
      rw [CoordOk, read, show layRank e = rank from layField_eq e rfl]
      rfl
    have spaceOf : laySpace e = space := layField_eq e rfl
    have inside (h : ∀ i, i < 4 → good i) : badCoord e [c0, c1, c2, c3] = none :=
      badCoord_eq_none fun i hi => (ok i hi).mp (h i hi)
    have offset : layOffset e [c0, c1, c2, c3] = off := by
      simp only [layOffset, layStride_eq]
      rfl
    have place : (layBase e % 2 ^ 22 : Nat) + layOffset e [c0, c1, c2, c3] = a := by
      rw [offset, layBase_mod_two_pow e (by decide)]
    refine ⟨fun stream => ?_, fun named i hi bad first => ?_, fun h => ⟨fun virt => ?_, fun sp within => ?_, fun sp beyond => ?_⟩⟩
    · rw [resolve_stream (spaceOf.trans stream)]
      exact congrArg (fun k => Except.ok (Resolved.stream k)) (layBase_mod_two_pow e (n := 2) (by decide))
    · exact resolve_bad (spaceOf.trans_ne named) (badCoord_eq_some hi (fun within => bad ((ok i hi).mpr within))
        fun j hj => (ok j (hj.trans hi)).mp (first j hj))
    · rw [resolve_virt (spaceOf.trans virt) (inside h), offset, layBase_mod_two_pow e (by decide)]
      rfl
    · exact resolve_row (spaceOf.trans_lt sp) (inside h) place within
    · exact resolve_beyond (spaceOf.trans_lt sp) (inside h) place beyond
  · intro e n r
    have width : smBytes f.size.toNat = n := smBytes_eq size
    refine ⟨fun space => smAddr_otherSpace space, fun space c d hr => ?_, fun space b hr => ?_, fun a ha => ?_⟩
    · rw [smAddr_refused space hr, layoutData_dim _ _ (dim_lt_of_resolve space hr)]
    · rw [smAddr_row space hr, width, Nat.div_mul_self_eq_mod_sub_self]
    · obtain ⟨b, low, rfl⟩ := smAddr_ok ha
      rw [width]
      exact sized_within_row _ low

end Sys2Proof.Machine
end

section
/-! SUPPORT for O23 and O24: a field of an entry replaced, and the fields of a ring entry (Table 10-3) after RACQ, RREL and the completion
of a release (R188, R189). -/

namespace Sys2Proof.Machine

open Sys2Proof.Safety

/-! ### A field replaced -/

section
variable (r v : Nat) {lo len : Nat}

/-- What stands above the field, its new value, and what stands below it. -/
theorem setField_eq (lo len : Nat) :
    setField r lo len v = 2 ^ lo * (2 ^ len * (r / 2 ^ lo / 2 ^ len) + v % 2 ^ len) + r % 2 ^ lo := by
  have parts : r = 2 ^ lo * (2 ^ len * (r / 2 ^ lo / 2 ^ len)) + r % 2 ^ lo + bits r lo len * 2 ^ lo := by
    have field := Nat.div_add_mod (r / 2 ^ lo) (2 ^ len)
    calc r = 2 ^ lo * (r / 2 ^ lo) + r % 2 ^ lo := (Nat.div_add_mod r (2 ^ lo)).symm
      _ = 2 ^ lo * (2 ^ len * (r / 2 ^ lo / 2 ^ len) + bits r lo len) + r % 2 ^ lo := by rw [bits, field]
      _ = _ := by ring
  have cleared : r - bits r lo len * 2 ^ lo = 2 ^ lo * (2 ^ len * (r / 2 ^ lo / 2 ^ len)) + r % 2 ^ lo := Nat.sub_eq_of_eq_add parts
  rw [setField, cleared]
  ring

theorem bits_setField (lo len : Nat) : bits (setField r lo len v) lo len = v % 2 ^ len := by
  rw [setField_eq, bits, Nat.mul_add_div (Nat.two_pow_pos lo), Nat.div_eq_of_lt (Nat.mod_lt _ (Nat.two_pow_pos lo)), Nat.add_zero,
    Nat.mul_add_mod, Nat.mod_mod]

theorem setField_div {m : Nat} (h : lo + len ≤ m) : setField r lo len v / 2 ^ m = r / 2 ^ m := by
  obtain ⟨n, rfl⟩ := Nat.exists_eq_add_of_le h
  simp only [setField_eq, pow_add, ← Nat.div_div_eq_div_mul]
  rw [Nat.mul_add_div (Nat.two_pow_pos lo), Nat.div_eq_of_lt (Nat.mod_lt r (Nat.two_pow_pos lo)), Nat.add_zero,
    Nat.mul_add_div (Nat.two_pow_pos len), Nat.div_eq_of_lt (Nat.mod_lt v (Nat.two_pow_pos len)), Nat.add_zero]

theorem setField_mod {m : Nat} (h : m ≤ lo) : setField r lo len v % 2 ^ m = r % 2 ^ m := by
  obtain ⟨n, rfl⟩ := Nat.exists_eq_add_of_le h
  rw [setField_eq, pow_add, Nat.mul_assoc, Nat.mul_add_mod, Nat.mod_mod_of_dvd _ (Nat.dvd_mul_right ..)]

theorem bits_setField_apart {a m : Nat} (h : a + m ≤ lo ∨ lo + len ≤ a) : bits (setField r lo len v) a m = bits r a m := by
  rcases h with below | above
  · rw [← bits_mod_two_pow _ below, setField_mod _ _ le_rfl, bits_mod_two_pow _ below]
  · rw [bits, setField_div _ _ above, bits]

theorem setField_lt {n : Nat} (h : lo + len ≤ n) (hr : r < 2 ^ n) : setField r lo len v < 2 ^ n := by
  rw [← Nat.div_eq_zero_iff_lt (Nat.two_pow_pos n), setField_div _ _ h, Nat.div_eq_of_lt hr]

end

/-! ### The fields of a ring entry (Table 10-3) -/

theorem ringPend_eq (r i : Nat) : ringPend r i = decide (bits r (96 + i) 1 = 1) := Nat.testBit_eq_decide_div_mod_eq

theorem ringSt_setField (r v i j : Nat) : ringSt (setField r (64 + 2 * i) 2 v) j = if j = i then v % 4 else ringSt r j := by
  split
  next same => exact same ▸ bits_setField ..
  next other => exact bits_setField_apart _ _ (by omega)

theorem ringPend_setField (r v i j : Nat) :
    ringPend (setField r (96 + i) 1 v) j = if j = i then decide (v % 2 = 1) else ringPend r j := by
  rw [ringPend_eq]
  split
  next same => rw [same, bits_setField, pow_one]
  next other => rw [bits_setField_apart _ _ (by omega), ringPend_eq]

theorem ringSt_setField_apart (r v : Nat) {lo len j : Nat} (h : 66 + 2 * j ≤ lo ∨ lo + len ≤ 64 + 2 * j) :
    ringSt (setField r lo len v) j = ringSt r j := bits_setField_apart _ _ (by omega)

theorem ringPend_setField_apart (r v : Nat) {lo len j : Nat} (h : 97 + j ≤ lo ∨ lo + len ≤ 96 + j) :
    ringPend (setField r lo len v) j = ringPend r j := by
  rw [ringPend_eq, ringPend_eq, bits_setField_apart _ _ (by omega)]

theorem ringAnyPend_iff (r : Nat) : ringAnyPend r = true ↔ ∃ i, i < 16 ∧ ringPend r i = true := by
  have field (i : Nat) : (bits r 96 16).testBit i = (decide (i < 16) && ringPend r i) := testBit_bits ..
  rw [ringAnyPend, bne_iff_ne]
  refine ⟨fun some_ => ?_, fun ⟨i, hi, pend⟩ none_ => ?_⟩
  · obtain ⟨i, hi⟩ := Nat.exists_testBit_of_ne_zero some_
    rw [field, Bool.and_eq_true, decide_eq_true_eq] at hi
    exact ⟨i, hi⟩
  · have clear := field i
    rw [none_, Nat.zero_testBit, pend, decide_eq_true hi] at clear
    cases clear

theorem Tile.readRing_lt (x : Tile) (b : Nat) : x.readRing b < 2 ^ 128 := BitVec.isLt _

theorem Tile.readRing_of_rings {x y : Tile} (h : x.rings = y.rings) (b : Nat) : x.readRing b = y.readRing b := by
  rw [Tile.readRing, h, Tile.readRing]

theorem rings_of_fixedS {x y : Tile} (h : fixedS x = fixedS y) : x.rings = y.rings := (congrArg Tile.rings h :)

/-! ### What a word does to a ring entry -/

/-- The side field is one bit: 1 for the side that drains. -/
theorem exists_side (f : FmtT) : ∃ d : Bool, f.side = BitVec.ofBool d :=
  (by decide : ∀ side : BitVec 1, ∃ d : Bool, side = BitVec.ofBool d) f.side

section
variable {f : FmtT} {d : Bool} (hd : f.side = BitVec.ofBool d)
include hd

theorem side_beq : (f.side == 1) = d := by rw [hd]; cases d <;> rfl

theorem side_toNat : f.side.toNat = ofBool d := by rw [hd]; cases d <;> rfl

theorem ite_side {α : Sort*} (a b : α) : (if f.side.toNat = 1 then a else b) = if d then a else b := by rw [hd]; cases d <;> rfl

end

section
variable (d : Bool) (r i : Nat)

/-- The slot after i, round the ring. -/
def ringAfter (r i : Nat) : Nat := (i + 1) % (ringNm1 r + 1)

/-- An entry whose slot i RACQ has bound (R188): filling or draining, and the side's pointer moved on. -/
def ringBound : Nat := setField (setField r (64 + 2 * i) 2 (if d then 3 else 1)) (if d then 116 else 124) 4 (ringAfter r i)

/-- An entry whose slot i RREL has marked (R189): a release of it is pending, and the side's pointer moved on. -/
def ringMarked : Nat := setField (setField r (96 + i) 1 1) (if d then 112 else 120) 4 (ringAfter r i)

/-- An entry whose slot i the completion of a release has freed or filled (R189). -/
def ringDone (side r i : Nat) : Nat := setField (setField r (64 + 2 * i) 2 (if side = 0 then 2 else 0)) (96 + i) 1 0

theorem ringAfter_mod : ringAfter r i % 16 = ringAfter r i := by
  have last : ringNm1 r < 2 ^ 4 := bits_lt ..
  have inRing : ringAfter r i < ringNm1 r + 1 := Nat.mod_lt _ (Nat.succ_pos _)
  exact Nat.mod_eq_of_lt (by omega)

variable {i} (hi : i < 16)
include hi

theorem ringBound_lt (hr : r < 2 ^ 128) : ringBound d r i < 2 ^ 128 :=
  setField_lt _ _ (by split <;> decide) (setField_lt _ _ (by omega) hr)

theorem ringMarked_lt (hr : r < 2 ^ 128) : ringMarked d r i < 2 ^ 128 :=
  setField_lt _ _ (by split <;> decide) (setField_lt _ _ (by omega) hr)

theorem ringDone_lt (side : Nat) (hr : r < 2 ^ 128) : ringDone side r i < 2 ^ 128 :=
  setField_lt _ _ (by omega) (setField_lt _ _ (by omega) hr)

/-- What a bound entry holds, field by field: each is read through the fields replaced. -/
theorem ringBound_fields :
    ringBound d r i % 2 ^ 64 = r % 2 ^ 64 ∧ ringFr (ringBound d r i) = ringFr r ∧ ringDr (ringBound d r i) = ringDr r ∧
      ringFa (ringBound d r i) = (if d then ringFa r else ringAfter r i) ∧
      ringDa (ringBound d r i) = (if d then ringAfter r i else ringDa r) ∧
      ∀ j, j < 16 → ringSt (ringBound d r i) j = (if j = i then (if d then 3 else 1) else ringSt r j) ∧
        ringPend (ringBound d r i) j = ringPend r j := by
  refine ⟨?_, ?_⟩
  · rw [ringBound, setField_mod _ _ (by split <;> decide), setField_mod _ _ (by omega)]
  · cases d
    all_goals
      simp only [ringBound, Bool.false_eq_true, if_true, if_false]
      refine ⟨?_, ?_, ?_, ?_, fun j hj => ⟨?_, ?_⟩⟩
      all_goals simp (disch := omega) only [ringFr, ringDr, ringFa, ringDa, bits_setField_apart, bits_setField, ringAfter_mod,
        ringSt_setField_apart, ringSt_setField, ringPend_setField_apart, Nat.reducePow, Nat.reduceMod]

/-- What a marked entry holds: no state of a slot is different. -/
theorem ringMarked_fields :
    ringMarked d r i % 2 ^ 64 = r % 2 ^ 64 ∧ ringFa (ringMarked d r i) = ringFa r ∧ ringDa (ringMarked d r i) = ringDa r ∧
      ringFr (ringMarked d r i) = (if d then ringFr r else ringAfter r i) ∧
      ringDr (ringMarked d r i) = (if d then ringAfter r i else ringDr r) ∧
      ∀ j, j < 16 → ringSt (ringMarked d r i) j = ringSt r j ∧
        ringPend (ringMarked d r i) j = if j = i then true else ringPend r j := by
  refine ⟨?_, ?_⟩
  · rw [ringMarked, setField_mod _ _ (by split <;> decide), setField_mod _ _ (by omega)]
  · cases d
    all_goals
      simp only [ringMarked, Bool.false_eq_true, if_true, if_false]
      refine ⟨?_, ?_, ?_, ?_, fun j hj => ⟨?_, ?_⟩⟩
      all_goals simp (disch := omega) only [ringFr, ringDr, ringFa, ringDa, bits_setField_apart, bits_setField, ringAfter_mod,
        ringSt_setField_apart, ringPend_setField_apart, ringPend_setField, Nat.reducePow, Nat.reduceMod, decide_true]

theorem ringDone_fields (side : Nat) :
    ringDone side r i % 2 ^ 64 = r % 2 ^ 64 ∧ ringDone side r i / 2 ^ 112 = r / 2 ^ 112 ∧
      ∀ j, j < 16 → ringSt (ringDone side r i) j = (if j = i then (if side = 0 then 2 else 0) else ringSt r j) ∧
        ringPend (ringDone side r i) j = if j = i then false else ringPend r j := by
  have state : (if side = 0 then 2 else 0) % 4 = if side = 0 then 2 else 0 := by split <;> rfl
  refine ⟨?_, ?_, fun j hj => ⟨?_, ?_⟩⟩
  · rw [ringDone, setField_mod _ _ (by omega), setField_mod _ _ (by omega)]
  · rw [ringDone, setField_div _ _ (by omega), setField_div _ _ (by omega)]
  · rw [ringDone, ringSt_setField_apart _ _ (by omega), ringSt_setField, state]
  · rw [ringDone, ringPend_setField, ringPend_setField_apart _ _ (by omega)]
    rfl

end

end Sys2Proof.Machine
end

section
/-! The proof of O23: RINIT and RACQ (R185, R187, R188, R189, R190). -/

namespace Sys2Proof.Machine

open Sys2Proof.Safety

/-! ### RINIT -/

theorem overlaps_iff (a n b m : Nat) : overlaps a n b m = true ↔ 0 < n ∧ 0 < m ∧ a < b + m ∧ b < a + n := by
  simp [overlaps, and_assoc]

theorem Tile.badRing_iff (x : Tile) (c : Nat) :
    let slots := (ringNm1 c + 1) * ringSrows c
    let meets (lo n : Nat) : Prop := 0 < n ∧ lo < ringBrow c + slots ∧ ringBrow c < lo + n
    x.badRing c = true ↔ ringNm1 c = 0 ∨ ringSrows c = 0 ∨ ringBrow c < 4 ∨ 16384 < ringBrow c + slots ∨
      meets x.codeRow x.ncode ∨ meets x.wlRow x.nwl := by
  intro slots meets
  have some_ (h : ringSrows c ≠ 0) : 0 < slots := Nat.mul_pos (Nat.succ_pos _) (Nat.pos_of_ne_zero h)
  have meets_ (h : ringSrows c ≠ 0) (lo n : Nat) : overlaps (ringBrow c) slots lo n = true ↔ meets lo n := by
    rw [overlaps_iff]
    exact ⟨fun ⟨_, pos, below, above⟩ => ⟨pos, above, below⟩, fun ⟨pos, above, below⟩ => ⟨some_ h, pos, below, above⟩⟩
  simp only [Tile.badRing, Bool.or_eq_true, beq_iff_eq, decide_eq_true_eq, or_assoc]
  by_cases none_ : ringSrows c = 0
  · simp only [none_, true_or, or_true]
  · rw [meets_ none_, meets_ none_]

section
variable {s : State} {g : Guard} {f : FmtT}

theorem execRinit_on (h : SRuns s g [f.ga.toNat]) {c : Nat} (hc : ((here s).readG f.ga.toNat).toNat % 2 ^ 32 = c) :
    exec (.rinit g f) s = finish s
      (if ringAnyPend ((here s).readRing f.bn.toNat) then .wait s 8
       else if (here s).badRing c then .trap s 9 (ringData f.bn.toNat 4)
       else .retire (s.putTile ((here s).writeRing f.bn.toNat c))) := by
  change execRinit g f s = _
  rw [execRinit, sWord_gated (srcs := [tA f]) h, hc]

end

/-! ### A layout entry bound to a ring slot (Table 10-2) -/

theorem bits_bits (x : Nat) {lo len a m : Nat} (h : a + m ≤ len) : bits (bits x lo len) a m = bits x (lo + a) m := by
  have cut := bits_mod_two_pow (x / 2 ^ lo) h
  rw [bits, bits, Nat.div_div_eq_div_mul, ← pow_add] at cut
  exact cut

theorem layField_word (e : Nat) {w lo len : Nat} (h : lo + len ≤ 64) : layField e w lo len = bits (layField e w 0 64) lo len :=
  (bits_bits e h).symm

/-- Word 0 is the slot's address, word 5 has the binding fields, and the others are as they were (R188). -/
theorem word_bindLay (e base side bn slot w : Nat) : layField (bindLay e base side bn slot) w 0 64 =
    if w = 5 then setField (layField e 5 0 64) 38 10 (2 ^ 9 + side * 2 ^ 8 + bn * 16 + slot)
    else if w = 0 then base % 2 ^ 22 else layField e w 0 64 := by
  have fits (v : Nat) : setField (layField e 5 0 64) 38 10 v % 2 ^ 64 = setField (layField e 5 0 64) 38 10 v :=
    Nat.mod_eq_of_lt (setField_lt _ _ (by decide) (bits_lt ..))
  have word (v i u j : Nat) : layField (setWord v i u) j 0 64 = if j = i then u % 2 ^ 64 else layField v j 0 64 := word_setWord ..
  rw [bindLay, word, word, word, if_neg (show ¬ 5 = 0 by decide), fits]
  split
  · rfl
  · split
    · exact Nat.mod_eq_of_lt (by omega)
    · rfl

/-- What an entry of the table holds once it is bound. -/
theorem bindLay_fields (e base : Nat) {side bn slot : Nat} (hs : side < 2) (hb : bn < 16) (hi : slot < 16) :
    let e' := bindLay e base side bn slot % 2 ^ 512
    layBase e' = base % 2 ^ 22 ∧ layField e' 5 38 10 = 512 + side * 256 + bn * 16 + slot ∧ layField e' 5 0 38 = layField e 5 0 38 ∧
      ∀ w, w < 8 → w ≠ 0 → w ≠ 5 → layField e' w 0 64 = layField e w 0 64 := by
  intro e'
  have word (w : Nat) (hw : w < 8) : layField e' w 0 64 = _ :=
    (bits_mod_two_pow _ (by omega)).trans (word_bindLay e base side bn slot w)
  refine ⟨(word 0 (by decide)).trans rfl, ?_, ?_, fun w hw h0 h5 => ?_⟩
  · rw [layField_word _ (by decide), word 5 (by decide), if_pos rfl, bits_setField]
    exact Nat.mod_eq_of_lt (by omega)
  · rw [layField_word _ (by decide), word 5 (by decide), if_pos rfl, bits_setField_apart _ _ (by decide), ← layField_word _ (by decide)]
  · rw [word w hw, if_neg h5, if_neg h0]

/-! ### RACQ -/

section
variable (x : Tile) (b k i : Nat) (d : Bool) (r e : Nat)

/-- The tile with r in ring b and e in layout entry k, and behind a RACQ.d with what the slot's RREL.f has ordered (R189). -/
def Tile.slotBound : Tile :=
  if d then ((x.writeRing b r).writeLay k e).ringAcquired b i else (x.writeRing b r).writeLay k e

theorem Tile.slotBound_eq : x.slotBound b k i d r e =
    { x with
      rings := (x.writeRing b r).rings
      layout := (x.writeLay k e).layout
      copies := if d then (x.ringAcquired b i).copies else x.copies } := by
  unfold Tile.slotBound Tile.ringAcquired Tile.laterOrd Tile.writeRing Tile.writeLay
  cases d <;> rfl

theorem Tile.slotBound_pcs : (x.slotBound b k i d r e).pcs = x.pcs := by rw [Tile.slotBound_eq]

theorem Tile.slotBound_perfSel : (x.slotBound b k i d r e).perfSel = x.perfSel := by rw [Tile.slotBound_eq]

theorem Tile.slotBound_copies : (x.slotBound b k i d r e).copies = if d then (x.ringAcquired b i).copies else x.copies := by
  rw [Tile.slotBound_eq]

theorem Tile.readRing_slotBound (j : Nat) : (x.slotBound b k i d r e).readRing j = if j = b then r % 2 ^ 128 else x.readRing j := by
  rw [← Tile.readRing_writeRing]
  exact Tile.readRing_of_rings (by rw [Tile.slotBound_eq]) j

theorem Tile.readLay_slotBound (j : Nat) : (x.slotBound b k i d r e).readLay j = if j = k then e % 2 ^ 512 else x.readLay j := by
  rw [← Tile.readLay_writeLay]
  exact Tile.readLay_of_layout (by rw [Tile.slotBound_eq]) j

/-- A slot bound is a change of the ring, of the layout entry and of the older contents kept, and no other. -/
theorem Tile.fixedS_slotBound : { fixedS (x.slotBound b k i d r e) with rings := [], layout := [], copies := [] } =
    { fixedS x with rings := [], layout := [], copies := [] } := by
  rw [Tile.slotBound_eq]
  rfl

end

theorem covered_iff (m : CopyMark) (n scope : Nat) : m.covered n scope = true ↔ Released m n scope := by
  simp [CopyMark.covered, Released]

theorem OldCopy.endedFor_endBy (c : OldCopy) (n scope : Nat) (rs : List Ended) (f : Engine) (p : Nat) :
    (c.endBy n scope rs).endedFor f p = true ↔
      c.endedFor f p = true ∨ (∃ m ∈ c.marks, Released m n scope) ∧ OldCopy.endedFor { c with ended := rs } f p = true := by
  have some_ : (c.marks.any fun m => m.covered n scope) = true ↔ ∃ m ∈ c.marks, Released m n scope := by
    simp only [List.any_eq_true, covered_iff]
  unfold OldCopy.endBy
  split
  next reached => rw [OldCopy.endedFor_append, Bool.or_eq_true, and_iff_right (some_.mp reached)]
  next unreached => exact (or_iff_left fun later => unreached (some_.mpr later.1)).symm

theorem endedFor_laterOrd (x : Tile) (c : OldCopy) (f : Engine) (p : Nat) :
    OldCopy.endedFor { c with ended := x.laterOrd } f p = true ↔ (f = .L ∧ 2048 * x.seqNext ≤ p) ∨ (f = .S ∧ 1 ≤ p) := by
  rw [OldCopy.endedFor_iff]
  simp [Tile.laterOrd, eq_comm]

/-- Behind a RACQ.d, the ordinary accesses no longer read what a write that the slot's RREL.f has ordered has replaced (R189). -/
theorem endsAlso_ringAcquired {x y : Tile} {b i : Nat} (h : y.copies = (x.ringAcquired b i).copies) :
    EndsAlso x y fun c e p => c.chan = false ∧ (∃ m ∈ c.marks, Released m (260 + 16 * b + i) 0) ∧
      ((e = .L ∧ 2048 * x.seqNext ≤ p) ∨ (e = .S ∧ 1 ≤ p)) := by
  refine ⟨?_, fun j c c' hc hc' f p => ?_⟩
  · rw [h, Tile.ringAcquired, List.map_map]
    refine List.map_congr_left fun c _ => ?_
    simp only [Function.comp_apply, OldCopy.endBy]
    split
    · rfl
    · split <;> rfl
  · rw [h, Tile.ringAcquired, List.getElem?_map, hc, Option.map_some] at hc'
    obtain rfl := Option.some.inj hc'
    by_cases chan : c.chan = true
    · simp [chan]
    · rw [if_neg chan, OldCopy.endedFor_endBy, endedFor_laterOrd]
      exact or_congr_right (and_iff_right (Bool.eq_false_of_not_eq_true chan)).symm

section
variable {s : State} {g : Guard} {f : FmtT} {d : Bool} (h : SRuns s g []) (hd : f.side = BitVec.ofBool d)

/-- The slot to which the side's acquire pointer points. -/
def Tile.acquireSlot (x : Tile) (f : FmtT) (d : Bool) : Nat :=
  if d then ringDa (x.readRing f.bn.toNat) else ringFa (x.readRing f.bn.toNat)

theorem Tile.acquireSlot_lt (x : Tile) (f : FmtT) (d : Bool) : x.acquireSlot f d < 16 := by
  unfold Tile.acquireSlot
  split <;> exact bits_lt ..

/-- The tile that a RACQ leaves that binds its slot. -/
def Tile.slotAcquired (x : Tile) (f : FmtT) (d : Bool) : Tile :=
  let r := x.readRing f.bn.toNat
  let i := x.acquireSlot f d
  x.slotBound f.bn.toNat f.lay.toNat i d (ringBound d r i)
    (bindLay (x.readLay f.lay.toNat) ((ringBrow r + i * ringSrows r) * 256) (ofBool d) f.bn.toNat i)

include h hd

theorem execRacq_on : exec (.racq g f) s = finish s
    (let x := here s
     let r := x.readRing f.bn.toNat
     let want := if d then 2 else 0
     if ringNm1 r = 0 then .trap s 9 (ringData f.bn.toNat 3)
     else if laySpace (x.readLay f.lay.toNat) ≠ 0 then .trap s 9 (ringData f.bn.toNat 5)
     else if x.layHold f.lay.toNat then .wait s 7
     else if ringSt r (x.acquireSlot f d) ≠ want then
       if ringPend r (x.acquireSlot f d) && (if ringSt r (x.acquireSlot f d) = 1 then 2 else 0) == want then .wait s 7
       else .trap s 9 (ringData f.bn.toNat 2)
     else .retire (s.putTile (x.slotAcquired f d))) := by
  change execRacq g f s = _
  rw [execRacq, sWord_on h.2.1, side_beq hd]
  cases d <;> rfl

theorem racq_uninit (none_ : ringNm1 ((here s).readRing f.bn.toNat) = 0) :
    Traps s (exec (.racq g f) s) 9 (f.bn.toNat * 256 + 3) := by
  simp only [execRacq_on h hd, none_, if_true]
  exact finish_trap ..

variable (init : ringNm1 ((here s).readRing f.bn.toNat) ≠ 0)
include init

theorem racq_otherSpace (other : laySpace ((here s).readLay f.lay.toNat) ≠ 0) :
    Traps s (exec (.racq g f) s) 9 (f.bn.toNat * 256 + 5) := by
  rw [execRacq_on h hd]
  simp only [init, if_false, if_pos other]
  exact finish_trap ..

variable (space : laySpace ((here s).readLay f.lay.toNat) = 0)
include space

theorem racq_held (held : (here s).layHold f.lay.toNat = true) : Waits s (exec (.racq g f) s) 7 := by
  simp only [execRacq_on h hd, init, space, ne_eq, not_true, held, if_true, if_false]
  exact finish_wait ..

variable (free : (here s).layHold f.lay.toNat = false)
include free

theorem racq_never (other : ringSt ((here s).readRing f.bn.toNat) ((here s).acquireSlot f d) ≠ if d then 2 else 0)
    (never : ringPend ((here s).readRing f.bn.toNat) ((here s).acquireSlot f d) = false ∨
      ringSt ((here s).readRing f.bn.toNat) ((here s).acquireSlot f d) = if d then 3 else 1) :
    Traps s (exec (.racq g f) s) 9 (f.bn.toNat * 256 + 2) := by
  have hopeless : (ringPend ((here s).readRing f.bn.toNat) ((here s).acquireSlot f d) &&
      (if ringSt ((here s).readRing f.bn.toNat) ((here s).acquireSlot f d) = 1 then 2 else 0) == if d then 2 else 0) = false := by
    rcases never with idle | leads
    · rw [idle, Bool.false_and]
    · rw [leads]
      cases d <;> exact Bool.and_false _
  simp only [execRacq_on h hd, init, space, ne_eq, not_true, free, Bool.false_eq_true, if_false, if_pos other, hopeless]
  exact finish_trap ..

theorem racq_waits (leads : ringSt ((here s).readRing f.bn.toNat) ((here s).acquireSlot f d) = if d then 1 else 3)
    (pend : ringPend ((here s).readRing f.bn.toNat) ((here s).acquireSlot f d) = true) : Waits s (exec (.racq g f) s) 7 := by
  rw [execRacq_on h hd]
  simp only [init, space, ne_eq, not_true, free, Bool.false_eq_true, if_false, leads, pend]
  cases d <;> exact finish_wait ..

theorem racq_binds (ready : ringSt ((here s).readRing f.bn.toNat) ((here s).acquireSlot f d) = if d then 2 else 0) :
    exec (.racq g f) s = finish s (.retire (s.putTile ((here s).slotAcquired f d))) := by
  simp only [execRacq_on h hd, init, space, ne_eq, not_true, free, Bool.false_eq_true, if_false, ready]

end

/-- Settles O23: RINIT and RACQ by what each answers; the ring and the layout entry that a RACQ leaves are read field by field. -/
theorem ringWords : Obligations.RingWords := by
  refine ⟨fun s g f h => ?_, fun s g f h => ?_⟩
  · intro x b c pending slots meets bad
    have pend : ringAnyPend (x.readRing b) = true ↔ pending := ringAnyPend_iff _
    have refused : x.badRing c = true ↔ bad := x.badRing_iff c
    rw [execRinit_on h (c := c) rfl]
    refine ⟨fun hp => ?_, fun hp hb => ?_, fun hp hb => ?_⟩
    · rw [if_pos (pend.mpr hp)]
      exact finish_wait ..
    · rw [if_neg (mt pend.mp hp), if_pos (refused.mpr hb)]
      exact finish_trap ..
    · rw [if_neg (mt pend.mp hp), if_neg (mt refused.mp hb)]
      obtain ⟨t, ht, next, frame⟩ := finish_retireS (y := x.writeRing b c) h.1 rfl rfl
      refine ⟨t, ht, next, fun j => ?_, ?_⟩
      · have low : c < 2 ^ 32 := Nat.mod_lt _ (by decide)
        rw [Tile.readRing_of_rings (rings_of_fixedS frame), Tile.readRing_writeRing, Nat.mod_eq_of_lt (by omega)]
      · rw [frame]
        rfl
  · have notHeld {k : Nat} (free : ¬ ∃ c ∈ (here s).secs, ∃ w ∈ c.words, w.vmLay? c.eng = some k) : (here s).layHold k = false :=
      Bool.eq_false_of_not_eq_true (mt (Tile.layHold_iff ..).mp free)
    obtain ⟨d, hd⟩ := exists_side f
    simp only [ite_side hd]
    rw [side_toNat hd]
    refine ⟨racq_uninit h hd, racq_otherSpace h hd, fun init space held => racq_held h hd init space ((Tile.layHold_iff ..).mpr held),
      fun init space free => racq_never h hd init space (notHeld free), fun init space free => racq_waits h hd init space (notHeld free),
      fun init space free ready => ?_⟩
    have slot := (here s).acquireSlot_lt f d
    obtain ⟨t, ht, next, frame⟩ := finish_retireS (y := (here s).slotAcquired f d) h.1 (Tile.slotBound_pcs ..)
      (Tile.slotBound_perfSel ..)
    have ring (j : Nat) := (Tile.readRing_of_rings (rings_of_fixedS frame) j).trans (Tile.readRing_slotBound ..)
    have lay (j : Nat) := (Tile.readLay_of_layout (layout_of_fixedS frame) j).trans (Tile.readLay_slotBound ..)
    have copies := (congrArg Tile.copies frame :).trans (Tile.slotBound_copies ..)
    refine ⟨t, (racq_binds h hd init space (notHeld free) ready).trans ht, next, ?_, fun j hj => (ring j).trans (if_neg hj),
      fun j hj => (lay j).trans (if_neg hj), ?_, ?_, ?_⟩
    · cases d
      · exact copies
      · exact endsAlso_ringAcquired copies
    · rw [ring, if_pos rfl, Nat.mod_eq_of_lt (ringBound_lt d _ slot (Tile.readRing_lt ..))]
      exact ringBound_fields d _ slot
    · rw [lay, if_pos rfl]
      exact bindLay_fields _ _ (by cases d <;> decide) f.bn.isLt slot
    · rw [frame]
      exact Tile.fixedS_slotBound ..

end Sys2Proof.Machine
end

section
/-! The proof of O24: RREL and the completion of a release (R189, R190). -/

namespace Sys2Proof.Machine

open Sys2Proof.Safety

/-! ### RREL -/

section
variable (x : Tile) (b r : Nat) (l : List (Nat × Nat × Nat × Nat × Nat))

/-- The tile with r in ring b and these releases pending. -/
def Tile.withReleases : Tile := { x.writeRing b r with relPend := l }

theorem Tile.readRing_withReleases (j : Nat) : (x.withReleases b r l).readRing j = if j = b then r % 2 ^ 128 else x.readRing j := by
  rw [← Tile.readRing_writeRing]
  rfl

theorem Tile.withReleases_pcs : (x.withReleases b r l).pcs = x.pcs := rfl

theorem Tile.withReleases_perfSel : (x.withReleases b r l).perfSel = x.perfSel := rfl

theorem Tile.withReleases_frame :
    { x.withReleases b r l with rings := [], relPend := [] } = { x with rings := [], relPend := [] } := rfl

end

section
variable {s : State} {g : Guard} {f : FmtT} {d : Bool} (h : SRuns s g []) (hd : f.side = BitVec.ofBool d)

/-- The slot to which the side's release pointer points. -/
def Tile.releaseSlot (x : Tile) (f : FmtT) (d : Bool) : Nat :=
  if d then ringDr (x.readRing f.bn.toNat) else ringFr (x.readRing f.bn.toNat)

theorem Tile.releaseSlot_lt (x : Tile) (f : FmtT) (d : Bool) : x.releaseSlot f d < 16 := by
  unfold Tile.releaseSlot
  split <;> exact bits_lt ..

/-- The tile that an RREL leaves that marks its slot. -/
def Tile.slotMarked (x : Tile) (f : FmtT) (d : Bool) : Tile :=
  x.withReleases f.bn.toNat (ringMarked d (x.readRing f.bn.toNat) (x.releaseSlot f d))
    (x.relPend ++ [(f.bn.toNat, x.releaseSlot f d, ofBool d, x.seqNext, x.xq)])

include h hd

theorem execRrel_on : exec (.rrel g f) s = finish s
    (let x := here s
     let r := x.readRing f.bn.toNat
     if ringNm1 r = 0 then .trap s 9 (ringData f.bn.toNat 3)
     else if ringSt r (x.releaseSlot f d) ≠ (if d then 3 else 1) || ringPend r (x.releaseSlot f d) then
       .trap s 9 (ringData f.bn.toNat 1)
     else .retire (s.putTile (x.slotMarked f d))) := by
  change execRrel g f s = _
  rw [execRrel, sWord_on h.2.1, side_beq hd]
  cases d <;> rfl

theorem rrel_uninit (none_ : ringNm1 ((here s).readRing f.bn.toNat) = 0) :
    Traps s (exec (.rrel g f) s) 9 (f.bn.toNat * 256 + 3) := by
  simp only [execRrel_on h hd, none_, if_true]
  exact finish_trap ..

variable (init : ringNm1 ((here s).readRing f.bn.toNat) ≠ 0)
include init

theorem rrel_unacquired (other : ringSt ((here s).readRing f.bn.toNat) ((here s).releaseSlot f d) ≠ (if d then 3 else 1) ∨
      ringPend ((here s).readRing f.bn.toNat) ((here s).releaseSlot f d) = true) :
    Traps s (exec (.rrel g f) s) 9 (f.bn.toNat * 256 + 1) := by
  simp only [execRrel_on h hd, init, if_false, Bool.or_eq_true, decide_eq_true_eq, if_pos other]
  exact finish_trap ..

theorem rrel_marks (own : ringSt ((here s).readRing f.bn.toNat) ((here s).releaseSlot f d) = if d then 3 else 1)
    (idle : ringPend ((here s).readRing f.bn.toNat) ((here s).releaseSlot f d) = false) :
    exec (.rrel g f) s = finish s (.retire (s.putTile ((here s).slotMarked f d))) := by
  simp only [execRrel_on h hd, init, own, idle, ne_eq, not_true, decide_false, Bool.or_self, Bool.false_eq_true, if_false]

end

/-! ### A release of a tile on one of its own numbers (R189, R294, R295) -/

section
variable (x : Tile) (n : Nat) (need : Nat × Nat → CopyMark → Option Nat) (row : Nat × Nat)

/-- A mark that a release has reached, where the release covers it. -/
def markedBy (key : Nat × Nat) (m : CopyMark) : CopyMark :=
  match need key m with
  | some scope => { m with rel := (n, scope) :: m.rel }
  | none => m

theorem noRel_markedBy (key : Nat × Nat) (m : CopyMark) : { markedBy n need key m with rel := [] } = { m with rel := [] } := by
  unfold markedBy
  split <;> rfl

theorem Tile.released_copies : (x.released n need row).copies =
    x.copies.map fun c => { c with marks := c.marks.map (markedBy n need c.key) } := rfl

/-- A release takes no older contents away. -/
theorem sameOld_released : SameOld x (x.released n need row) := by
  refine ⟨?_, ?_⟩
  · rw [Tile.released_copies, List.map_map]
    refine List.map_congr_left fun c _ => ?_
    simp only [Function.comp_apply, noRel, List.map_map]
    refine congrArg (fun marks => { c with marks := marks }) (List.map_congr_left fun m _ => noRel_markedBy ..)
  · exact List.map_map

/-- A release changes which releases have reached older contents, and no other part of the tile. -/
theorem Tile.released_frame : ∃ c o, x.released n need row = { x with copies := c, codeOld := o } := ⟨_, _, rfl⟩

end

section
variable (s : State) (k : Nat) (covers : CopyMark → Bool)

/-- A release of tile k on one of its own numbers, at tile scope, reaches what the tile's parties have written in its own
scratchpad. -/
def State.tileNeed (key : Nat × Nat) (m : CopyMark) : Option Nat :=
  if covers m && s.keyScope k key == 0 && s.partyScope k m.party == 0 then some 0 else none

theorem markedBy_tileNeed (n : Nat) (key : Nat × Nat) (m : CopyMark) : markedBy n (s.tileNeed k covers) key m =
    if covers m && s.keyScope k key == 0 && s.partyScope k m.party == 0 then { m with rel := (n, 0) :: m.rel } else m := by
  unfold markedBy State.tileNeed
  by_cases own : (covers m && s.keyScope k key == 0 && s.partyScope k m.party == 0) = true
  · rw [if_pos own, if_pos own]
  · rw [if_neg own, if_neg own]

/-- What a release of tile k at tile scope makes of the module where tile k is set to y before. -/
theorem State.releaseTo_setTile (y : Tile) (n : Nat) :
    (s.setTile k y).releaseTo k n 0 covers = s.setTile k (y.released n (s.tileNeed k covers) (0, k * 2 ^ 14)) := by
  have need : (fun key m =>
      if covers m && decide (max (s.keyScope k key) (s.partyScope k m.party) ≤ 0) then
        some (max (s.keyScope k key) (s.partyScope k m.party))
      else none) = s.tileNeed k covers := by
    funext key m
    rw [State.tileNeed]
    by_cases own : s.keyScope k key = 0 ∧ s.partyScope k m.party = 0
    · simp [own]
    · have far : ¬ max (s.keyScope k key) (s.partyScope k m.party) ≤ 0 := by omega
      have apart : (s.keyScope k key == 0 && s.partyScope k m.party == 0) = false := by
        simpa only [Bool.and_eq_false_iff, beq_eq_false_iff_ne, ne_eq, ← not_and_or] using own
      rw [Bool.and_assoc, apart, decide_eq_false far, Bool.and_false, if_neg Bool.false_ne_true, if_neg Bool.false_ne_true]
  change ((s.setTile k y).setTile k (((s.setTile k y).tile k).released n _ _)) = _
  rw [State.setTile_setTile, State.tile_setTile_self, ← need]
  rfl

end

/-! ### RREL_COMPLETE -/

section
variable {s : State} {k b i side q xq : Nat}

theorem Tile.retiredBefore_iff (x : Tile) (q : Nat) : x.retiredBefore q = true ↔
    (∀ c ∈ x.secs, q ≤ c.seq) ∧ (∀ c ∈ x.inflight, q ≤ c.seq) ∧ (∀ c ∈ x.late, q ≤ c.seq) ∧ (∀ c ∈ x.chan, q ≤ c.seq) ∧
      ∀ r ∈ x.rowsOut, 2048 * q < r.pos := by
  simp [Tile.retiredBefore, and_assoc]

/-- The tile whose slot i of ring b the completion of a release has freed or filled. -/
def Tile.slotDone (x : Tile) (b i side : Nat) : Tile :=
  x.withReleases b (ringDone side (x.readRing b) i) (x.relPend.filter fun p => !(p.1 == b && p.2.1 == i))

/-- And with what the release orders. -/
def State.slotReleased (s : State) (k b i side q xq : Nat) : Tile :=
  let y := (s.tile k).slotDone b i side
  if side = 0 then y.released (ringSem b i) (s.tileNeed k (CopyMark.byRing k q xq)) (0, k * 2 ^ 14) else y

section
variable (s k b i side q xq)

/-- Completing a release is a change of the ring and of the older contents kept, and no other. -/
theorem State.slotReleased_eq :
    ∃ c o, s.slotReleased k b i side q xq = { (s.tile k).slotDone b i side with copies := c, codeOld := o } := by
  unfold State.slotReleased
  split
  · exact Tile.released_frame ..
  · exact ⟨_, _, rfl⟩

theorem State.slotReleased_frame : renewed { s.slotReleased k b i side q xq with rings := [], relPend := [] } =
    renewed { s.tile k with rings := [], relPend := [] } := by
  obtain ⟨c, o, eq⟩ := s.slotReleased_eq k b i side q xq
  rw [eq]
  rfl

theorem State.readRing_slotReleased (hi : i < 16) (j : Nat) : (s.slotReleased k b i side q xq).readRing j =
    if j = b then ringDone side ((s.tile k).readRing b) i else (s.tile k).readRing j := by
  obtain ⟨c, o, eq⟩ := s.slotReleased_eq k b i side q xq
  have rings : (s.slotReleased k b i side q xq).rings = ((s.tile k).slotDone b i side).rings := by rw [eq]
  rw [Tile.readRing_of_rings rings, Tile.slotDone, Tile.readRing_withReleases,
    Nat.mod_eq_of_lt (ringDone_lt _ hi side (Tile.readRing_lt ..))]

theorem State.slotReleased_copies : (s.slotReleased k b i side q xq).copies =
    if side = 0 then (s.tile k).copies.map fun c => { c with
      marks := c.marks.map (markedBy (ringSem b i) (s.tileNeed k (CopyMark.byRing k q xq)) c.key) }
    else (s.tile k).copies := by
  unfold State.slotReleased
  split <;> rfl

theorem State.sameOld_slotReleased : SameOld (s.tile k) (s.slotReleased k b i side q xq) := by
  unfold State.slotReleased
  split
  · exact sameOld_released ((s.tile k).slotDone b i side) ..
  · exact ⟨rfl, rfl⟩

theorem State.slotReleased_codeOld (drain : side ≠ 0) : (s.slotReleased k b i side q xq).codeOld = (s.tile k).codeOld := by
  rw [State.slotReleased, if_neg drain]
  rfl

end

variable (pending : (s.tile k).relPend.find? (fun p => p.1 == b && p.2.1 == i) = some (b, i, side, q, xq))
include pending

theorem execRrelComplete_pending : exec (.rrelComplete k b i) s =
    if (s.tile k).retiredBefore q && !(s.tile k).quenched then
      .next (if side = 0 then (s.setTile k ((s.tile k).slotDone b i side)).releaseTo k (ringSem b i) 0 (CopyMark.byRing k q xq)
        else s.setTile k ((s.tile k).slotDone b i side))
    else .next s := by
  change execRrelComplete k b i s = _
  unfold execRrelComplete
  simp only [pending]
  rfl

theorem rrelComplete_early (early : (s.tile k).retiredBefore q = false) : exec (.rrelComplete k b i) s = .next s := by
  rw [execRrelComplete_pending pending, early, Bool.false_and, if_neg Bool.false_ne_true]

theorem rrelComplete_done (runs : (s.tile k).quenched = false) (retired : (s.tile k).retiredBefore q = true) :
    exec (.rrelComplete k b i) s = .next (s.setTile k (s.slotReleased k b i side q xq)) := by
  rw [execRrelComplete_pending pending, retired, runs, Bool.not_false, Bool.and_self, if_pos rfl, State.slotReleased,
    State.releaseTo_setTile, ← apply_ite (s.setTile k)]

end

/-- Settles O24: RREL by what it answers, and the completion of a release field by field, the marks of its release one by one. -/
theorem ringRelease : Obligations.RingRelease := by
  refine ⟨fun s g f h => ?_, fun s k b i side q xq hb hi => ?_⟩
  · obtain ⟨d, hd⟩ := exists_side f
    simp only [ite_side hd]
    rw [side_toNat hd]
    refine ⟨rrel_uninit h hd, rrel_unacquired h hd, fun init own idle => ?_⟩
    have slot := (here s).releaseSlot_lt f d
    obtain ⟨t, ht, next, frame⟩ := finish_retireS (y := (here s).slotMarked f d) h.1 (Tile.withReleases_pcs ..)
      (Tile.withReleases_perfSel ..)
    have ring (j : Nat) := (Tile.readRing_of_rings (rings_of_fixedS frame) j).trans (Tile.readRing_withReleases ..)
    refine ⟨t, (rrel_marks h hd init own idle).trans ht, next, fun j hj => (ring j).trans (if_neg hj),
      (congrArg Tile.relPend frame :), ?_, ?_⟩
    · rw [ring, if_pos rfl, Nat.mod_eq_of_lt (ringMarked_lt d _ slot (Tile.readRing_lt ..))]
      exact ringMarked_fields d _ slot
    · rw [frame]
      exact congrArg fixedS (Tile.withReleases_frame ..)
  · intro x r retired pending runs prior mark noted
    have isRetired : x.retiredBefore q = true ↔ retired := x.retiredBefore_iff q
    refine ⟨fun early => rrelComplete_early pending (Bool.eq_false_of_not_eq_true (mt isRetired.mp early)), fun done =>
      ⟨_, rrelComplete_done pending runs (isRetired.mpr done), onlyTile_setTile .., ?_⟩⟩
    rw [State.tile_setTile_self]
    have ring := s.readRing_slotReleased k b i side q xq hi
    have copies : (s.slotReleased k b i side q xq).copies = if side = 0 then x.copies.map noted else x.copies := by
      have marks : markedBy (ringSem b i) (s.tileNeed k (CopyMark.byRing k q xq)) = mark :=
        funext fun key => funext fun m => markedBy_tileNeed ..
      rw [State.slotReleased_copies, marks]
    refine ⟨fun j hj => (ring j).trans (if_neg hj), ?_, copies, State.sameOld_slotReleased ..,
      fun drain => State.slotReleased_codeOld _ _ _ _ _ _ _ drain, State.slotReleased_frame ..⟩
    rw [ring, if_pos rfl]
    exact ringDone_fields r hi side

end Sys2Proof.Machine
end
